-- ==== Sys2Proof/Word.lean ====
section
/-! DEFINITION. The word types of the Amilin A8 (03_state R18, 04_encoding R38) and their plainest uses.
Bit-field and byte-order helpers are in Machine/Bits.lean. -/

namespace Sys2Proof

/-- One byte of memory. -/
abbrev Byte := BitVec 8
/-- A vector element, an instruction word (R18, R38). -/
abbrev W32 := BitVec 32
/-- A scalar register, an address (R18, R314). -/
abbrev W64 := BitVec 64
/-- An accumulator element (R78). -/
abbrev Acc := BitVec 40
/-- A register number of a format field (R41). -/
abbrev Reg := BitVec 6
/-- A gang view of lanes: bit `L` is lane `L` (R21). -/
abbrev LaneSet := BitVec 32

end Sys2Proof
end

