-- ==== Sys2Proof/Machine/Bits.lean ====
section
/-! DEFINITION. Bit fields, sign extension, byte order, the pattern generator and CRC-32C (03_state R21, 05_numbers R70,
09_memory_places R171). -/

namespace Sys2Proof.Machine

/-- Bits `[lo+n-1 : lo]` of a number. -/
def field (x lo n : Nat) : Nat := x / 2 ^ lo % 2 ^ n

/-- The low `w` bits of a number read as two's complement. -/
def toInt (w x : Nat) : Int :=
  let y := x % 2 ^ w
  if y < 2 ^ (w - 1) then (y : Int) else (y : Int) - 2 ^ w

/-- A number modulo 2^w as an unsigned one. -/
def wrapNat (w : Nat) (x : Int) : Nat := (x % 2 ^ w).toNat

/-- A 64-bit word from an exact integer. -/
def word64 (x : Int) : W64 := BitVec.ofInt 64 x
/-- A 32-bit word from an exact integer. -/
def word32 (x : Int) : W32 := BitVec.ofInt 32 x

/-- A 16-bit immediate as a signed byte or word offset. -/
def offset16 (b : BitVec 16) : W64 := b.signExtend 64

/-! ### Byte order: little-endian (04_encoding R38) -/

/-- The `n` low bytes of a number, lowest address first. -/
def leBytes (x : Nat) : Nat → List Byte
  | 0 => []
  | n + 1 => BitVec.ofNat 8 x :: leBytes (x / 256) n

/-- The number that bytes hold, lowest address first. -/
def fromLe : List Byte → Nat
  | [] => 0
  | b :: bs => b.toNat + 256 * fromLe bs

/-! ### Lane sets -/

/-- The lanes of slice `j` in a gang view (R21). -/
def laneBits (m : LaneSet) (j : Nat) : BitVec 4 := m.extractLsb' (4 * j) 4
/-- A slice's four lanes as a gang view. -/
def laneView (b : BitVec 4) (j : Nat) : LaneSet := (b.setWidth 32) <<< (4 * j)
/-- The numbers of the lanes set in a slice's mask, lowest first. -/
def lanesOf (b : BitVec 4) : List (Fin 4) := [0, 1, 2, 3].filter (fun l => b.getLsbD l.val)
/-- One lane as a mask. -/
def laneBit (l : Fin 4) : BitVec 4 := 1#4 <<< l.val

/-! ### Counting bits -/

/-- One bits among the low `n` bits. -/
def popcount (x : Nat) : Nat → Nat
  | 0 => 0
  | n + 1 => x % 2 + popcount (x / 2) n

/-- Bits needed to write a number (0 for 0): one more than floor(log2 x). -/
def bitLen (x : Nat) : Nat := if x = 0 then 0 else Nat.log2 x + 1

/-- Leading zeros of the low `w` bits. -/
def leadingZeros (w x : Nat) : Nat := w - bitLen (x % 2 ^ w)

/-! ### The pattern generator -/

/-- R70: `gen(seed, index)`. -/
def gen (seed index : W64) : W64 :=
  let x := seed ^^^ (index * 0x9E3779B97F4A7C15#64)
  let x := x ^^^ (x >>> 30)
  let x := x * 0xBF58476D1CE4E5B9#64
  let x := x ^^^ (x >>> 27)
  let x := x * 0x94D049BB133111EB#64
  x ^^^ (x >>> 31)

/-! ### CRC-32C -/

/-- `n` reflected steps of the polynomial 0x1EDC6F41 (R171). -/
def crcSteps (c : W32) : Nat → W32
  | 0 => c
  | n + 1 => crcSteps (if c.getLsbD 0 then (c >>> 1) ^^^ 0x82F63B78#32 else c >>> 1) n

/-- CRC-32C of bytes, with initial value and final XOR of all ones. -/
def crc32c (bs : List Byte) : W32 :=
  bs.foldl (fun c b => crcSteps (c ^^^ b.setWidth 32) 8) 0xFFFFFFFF#32 ^^^ 0xFFFFFFFF#32

/-- Sequence-number order modulo 2^32 (01_device R6). -/
def newer (a b : W32) : Bool := let d := (a - b).toNat; 1 ≤ d && d < 2 ^ 31

/-- A Boolean as a number. -/
def bit01 (b : Bool) : Nat := if b then 1 else 0

end Sys2Proof.Machine
end

