-- ==== Sys2Proof/Syntax.lean ====
section
/-! DEFINITION. Instructions: the fields of the formats W, I and J and of the long word (04_encoding R40-R47),
and one constructor per row of the table of operations. -/

namespace Sys2Proof

/-- The T field of a packed long word (R44): sixteen codes, `dflt` the group's default. -/
inductive TCode where
  | dflt | f32 | f16 | bf16 | f64 | i32 | n32 | i16 | n16 | i8 | n8 | i64 | n64 | e4m3 | e5m2 | e2m1
  deriving DecidableEq, Repr

/-- The RM field (R45): eight codes, the last reserved. -/
inductive RmCode where
  | dyn | rne | rtz | rup | rdn | rna | sr | reserved
  deriving DecidableEq, Repr

/-- Fields of a format W instruction whose long word is of the numeric kind (R41, R43). In the short form the
fields of the long word are zero. -/
structure WArgs where
  d : Reg
  a : Reg
  b : Reg
  fa : Bool
  fb : Bool
  imm : BitVec 16
  sec : BitVec 8
  xf : BitVec 4
  deriving DecidableEq, Repr

/-- Fields of a format W instruction whose long word is of the packed kind (R43). `x` is long [17:16]. -/
structure PArgs where
  d : Reg
  a : Reg
  b : Reg
  fa : Bool
  fb : Bool
  t : TCode
  rm : RmCode
  s : Bool
  c : Reg
  x : BitVec 2
  sec : BitVec 8
  xf : BitVec 4
  deriving DecidableEq, Repr

/-- Fields of a format I instruction (R41). `imm` is imm16, or sext(imm8) in the short form (R47). -/
structure IArgs where
  d : Reg
  a : Reg
  imm : BitVec 16
  sec : BitVec 8
  xf : BitVec 4
  deriving DecidableEq, Repr

/-- The signed word offset of a format J instruction: imm16 : imm20, or sext(imm20) in the short form (R42). -/
structure JArgs where
  off : BitVec 36
  deriving DecidableEq, Repr

/-- What fetches and executes (R18, R33, R310): gangs, engine members, and the management cores at level S. -/
inductive UnitKind where
  | gang | sluice | harrow | mgmt
  deriving DecidableEq, Repr

/-- A unit: the core's number ((die x 8 + cluster) x 128 + core, R34), its kind and, for a gang, its slot. -/
structure UnitId where
  core : Nat
  kind : UnitKind
  slot : Nat
  deriving DecidableEq, Repr

/-- The settings that a configuration image gives the package (R6, R32, R364, R416). -/
structure ImageBody where
  bytes : List Byte
  wlen : BitVec 16
  period : W32
  warnMark : BitVec 16
  critMark : BitVec 16
  pkg : BitVec 16
  deriving DecidableEq, Repr

/-- An operation that arrives from a peer (R413): a PST, a PATOM, a sluice's read. -/
inductive PeerRequest where
  | store (addr : Nat) (bytes : List Byte)
  | atomic (addr : Nat) (op : BitVec 4) (ty : BitVec 3) (data : W64)
  | read (addr : Nat) (n : Nat)
  deriving DecidableEq, Repr

/-- What the host sends to device memory through BAR2 (R406): bytes, or an AtomicOp with its operand and, for CAS, the value
compared. -/
inductive WindowOp where
  | bytes (bs : List Byte)
  | atomic (op : BitVec 4) (ty : BitVec 3) (data cmp : W64)
  deriving DecidableEq, Repr

/-- A write of the host to the control window: of 32 or of 64 bits. -/
inductive ControlWrite where
  | half (x : W32)
  | full (x : W64)
  deriving DecidableEq, Repr

/-- Data that an uncorrectable error poisons (R363): a byte's word or line by physical address, a tile or an accumulator of a
core, the line of a log slice that holds an entry. -/
inductive PoisonPlace where
  | memory (addr : Nat)
  | tile (core t : Nat)
  | acc (core a : Nat)
  | log (entry : Nat)
  deriving DecidableEq, Repr

/-- A request to load a code object (R328, R394 to R399): the image, and the places that S gives its parts, the run of link-table
entries and the frames for the page tables that mapping them needs among them. -/
structure LoadRequest where
  image : List Byte
  room : Bool
  textPa : Nat
  textVa : W64
  globalVa : W64
  globalPa : Nat
  memsideVa : W64
  memsidePa : Nat
  spadVa : W64
  importBase : Nat
  tables : List Nat
  deriving DecidableEq, Repr

/-- The rows of the table of operations (spec/opcode_table.json): 179 program instructions, which carry the
fields of their format, and 91 steps of the device, which carry the unit they happen to. Instructions whose row
has a form of its own in the table (`SLI_INS`, `VMOV_STREAM`, `TRET_NEXT`, ...) are constructors of their own. -/
inductive Instr where
  /-- R96 -/
  | sadd (o : WArgs)
  /-- R96 -/
  | ssub (o : WArgs)
  /-- R96 -/
  | smul (o : WArgs)
  /-- R96 -/
  | smulh (o : WArgs)
  /-- R96 -/
  | sdiv (o : WArgs)
  /-- R96 -/
  | srem (o : WArgs)
  /-- R96 -/
  | sand (o : WArgs)
  /-- R96 -/
  | sor (o : WArgs)
  /-- R96 -/
  | sxor (o : WArgs)
  /-- R96 -/
  | sshl (o : WArgs)
  /-- R96 -/
  | sshr (o : WArgs)
  /-- R96 -/
  | ssra (o : WArgs)
  /-- R96 -/
  | smin (o : WArgs)
  /-- R96 -/
  | smax (o : WArgs)
  /-- R96 -/
  | sset (o : WArgs)
  /-- R97 -/
  | sli (o : IArgs)
  /-- R97 -/
  | sliIns (o : IArgs)
  /-- R98 -/
  | vadd (o : PArgs)
  /-- R98 -/
  | vsub (o : PArgs)
  /-- R98 -/
  | vmul (o : PArgs)
  /-- R98 -/
  | vmulh (o : PArgs)
  /-- R98 -/
  | vmad (o : PArgs)
  /-- R98 -/
  | vand (o : PArgs)
  /-- R98 -/
  | vor (o : PArgs)
  /-- R98 -/
  | vxor (o : PArgs)
  /-- R98 -/
  | vshl (o : PArgs)
  /-- R98 -/
  | vshr (o : PArgs)
  /-- R98 -/
  | vsra (o : PArgs)
  /-- R98 -/
  | vmin (o : PArgs)
  /-- R98 -/
  | vmax (o : PArgs)
  /-- R98 -/
  | vabs (o : PArgs)
  /-- R98 -/
  | vclz (o : PArgs)
  /-- R98 -/
  | vpopc (o : PArgs)
  /-- R99 -/
  | vcmp (o : PArgs)
  /-- R99 -/
  | vsel (o : PArgs)
  /-- R100 -/
  | fadd (o : PArgs)
  /-- R100 -/
  | fsub (o : PArgs)
  /-- R100 -/
  | fmul (o : PArgs)
  /-- R100 -/
  | ffma (o : PArgs)
  /-- R100 -/
  | fmin (o : PArgs)
  /-- R100 -/
  | fmax (o : PArgs)
  /-- R100 -/
  | fsgn (o : PArgs)
  /-- R101 -/
  | fcmp (o : PArgs)
  /-- R101 -/
  | fclass (o : PArgs)
  /-- R100 -/
  | fscale (o : PArgs)
  /-- R100 -/
  | frint (o : PArgs)
  /-- R103 -/
  | fcvt (o : PArgs)
  /-- R104 -/
  | fcvti (o : PArgs)
  /-- R104 -/
  | icvtf (o : PArgs)
  /-- R105 -/
  | bfpack (o : PArgs)
  /-- R106 -/
  | frcp (o : PArgs)
  /-- R106 -/
  | frsq (o : PArgs)
  /-- R106 -/
  | fsqrt (o : PArgs)
  /-- R106 -/
  | fexp2 (o : PArgs)
  /-- R106 -/
  | flog2 (o : PArgs)
  /-- R106 -/
  | fsin (o : PArgs)
  /-- R106 -/
  | fcos (o : PArgs)
  /-- R106 -/
  | ftanh (o : PArgs)
  /-- R106 -/
  | fsigm (o : PArgs)
  /-- R106 -/
  | ferf (o : PArgs)
  /-- R110 -/
  | vshuf (o : PArgs)
  /-- R110 -/
  | vbcast (o : PArgs)
  /-- R109 -/
  | vred (o : PArgs)
  /-- R109 -/
  | vscan (o : PArgs)
  /-- R111 -/
  | vconf (o : PArgs)
  /-- R109 -/
  | vcomb (o : PArgs)
  /-- R114 -/
  | vcmprs (o : PArgs)
  /-- R110 -/
  | vexpnd (o : PArgs)
  /-- R117 -/
  | vmov (o : WArgs)
  /-- R284 -/
  | vmovStream (o : WArgs)
  /-- R117 -/
  | vsplat (o : WArgs)
  /-- R117 -/
  | vextr (o : WArgs)
  /-- R117 -/
  | vlane (o : WArgs)
  /-- R126 -/
  | xv (o : PArgs)
  /-- R129 -/
  | xpush (o : WArgs)
  /-- R129 -/
  | xpop (o : WArgs)
  /-- R129 -/
  | xpeek (o : WArgs)
  /-- R129 -/
  | xdepth (o : WArgs)
  /-- R129 -/
  | xclr (o : WArgs)
  /-- R142 -/
  | tcfg (o : WArgs)
  /-- R143 -/
  | tld (o : WArgs)
  /-- R143 -/
  | tst (o : WArgs)
  /-- R144 -/
  | tzero (o : WArgs)
  /-- R145 -/
  | mma (o : WArgs)
  /-- R146 -/
  | mloop (o : WArgs)
  /-- R147 -/
  | mspan (o : WArgs)
  /-- R147 -/
  | mspanSelf (o : WArgs)
  /-- R149 -/
  | tbitsNone (o : WArgs)
  /-- R149 -/
  | tbitsSeed (o : WArgs)
  /-- R149 -/
  | tbitsTile (o : WArgs)
  /-- R150 -/
  | tout (o : WArgs)
  /-- R207 -/
  | sld (o : IArgs)
  /-- R207 -/
  | sst (o : IArgs)
  /-- R208 -/
  | vld (o : IArgs)
  /-- R208 -/
  | vst (o : IArgs)
  /-- R208 -/
  | vldg (o : WArgs)
  /-- R208 -/
  | vstg (o : WArgs)
  /-- R211 -/
  | vatom (o : WArgs)
  /-- R211 -/
  | satom (o : WArgs)
  /-- R211 -/
  | gatom (o : WArgs)
  /-- R214 -/
  | phase (o : WArgs)
  /-- R215 -/
  | fence (o : WArgs)
  /-- R216 -/
  | waitc (o : IArgs)
  /-- R217 -/
  | mwait (o : WArgs)
  /-- R218 -/
  | pst (o : WArgs)
  /-- R218 -/
  | patom (o : WArgs)
  /-- R219 -/
  | pref (o : IArgs)
  /-- R228 -/
  | cpLd (o : WArgs)
  /-- R228 -/
  | cpSt (o : WArgs)
  /-- R230 -/
  | cpx (o : WArgs)
  /-- R230 -/
  | cps (o : WArgs)
  /-- R230 -/
  | cpred (o : WArgs)
  /-- R232 -/
  | cpconv (o : WArgs)
  /-- R229 -/
  | cpstage (o : WArgs)
  /-- R233 -/
  | chwait (o : WArgs)
  /-- R233 -/
  | chrel (o : WArgs)
  /-- R233 -/
  | rowbar (o : WArgs)
  /-- R235 -/
  | moedisp (o : WArgs)
  /-- R238 -/
  | kst (o : WArgs)
  /-- R237 -/
  | qsig (o : WArgs)
  /-- R239 -/
  | bgather (o : WArgs)
  /-- R276 -/
  | br (o : JArgs)
  /-- R276 -/
  | brc (o : IArgs)
  /-- R277 -/
  | brv (o : IArgs)
  /-- R277 -/
  | join (o : WArgs)
  /-- R277 -/
  | loopb (o : IArgs)
  /-- R277 -/
  | brk (o : IArgs)
  /-- R277 -/
  | loope (o : JArgs)
  /-- R276 -/
  | call (o : JArgs)
  /-- R279 -/
  | calli (o : WArgs)
  /-- R280 -/
  | ret (o : WArgs)
  /-- R282 -/
  | exit (o : WArgs)
  /-- R276 -/
  | nop (o : WArgs)
  /-- R286 -/
  | brw (o : WArgs)
  /-- R285 -/
  | wbind (o : WArgs)
  /-- R287 -/
  | regang (o : WArgs)
  /-- R289 -/
  | hand (o : WArgs)
  /-- R290 -/
  | bara (o : WArgs)
  /-- R290 -/
  | barw (o : WArgs)
  /-- R291 -/
  | wbar (o : WArgs)
  /-- R292 -/
  | tickw (o : WArgs)
  /-- R293 -/
  | setpl (o : WArgs)
  /-- R294 -/
  | launch (o : WArgs)
  /-- R115 -/
  | kand (o : WArgs)
  /-- R115 -/
  | kor (o : WArgs)
  /-- R115 -/
  | kxor (o : WArgs)
  /-- R115 -/
  | knot (o : WArgs)
  /-- R115 -/
  | kmov (o : WArgs)
  /-- R115 -/
  | kpop (o : WArgs)
  /-- R119 -/
  | fdiv (o : PArgs)
  /-- R119 -/
  | vdiv (o : PArgs)
  /-- R337 -/
  | sysr (o : WArgs)
  /-- R338 -/
  | sysrCtx (o : WArgs)
  /-- R337 -/
  | sysw (o : WArgs)
  /-- R338 -/
  | syswCtx (o : WArgs)
  /-- R339 -/
  | tlbinvPage (o : WArgs)
  /-- R339 -/
  | tlbinvCtx (o : WArgs)
  /-- R339 -/
  | tlbinvAll (o : WArgs)
  /-- R340 -/
  | ecall (o : WArgs)
  /-- R341 -/
  | flushw (o : WArgs)
  /-- R370 -/
  | trap (o : WArgs)
  /-- R371 -/
  | tretNext (o : WArgs)
  /-- R371 -/
  | tretReplay (o : WArgs)
  /-- R371 -/
  | tretReex (o : WArgs)
  /-- R374 -/
  | laneinfo (o : WArgs)
  /-- R374 -/
  | laneinfoV (o : WArgs)
  /-- R374 -/
  | laneinfoClr (o : WArgs)
  /-- R375 -/
  | vrdn (o : WArgs)
  /-- R375 -/
  | vwrn (o : WArgs)
  /-- R376 -/
  | wmark (o : WArgs)
  /-- R377 -/
  | wmarkDrop (o : WArgs)
  /-- R378 -/
  | undo (o : WArgs)
  /-- R358 -/
  | undoTeam (o : WArgs)
  /-- R379 -/
  | tbegin (o : WArgs)
  /-- R380 -/
  | tcommit (o : WArgs)
  /-- R380 -/
  | tabort (o : WArgs)
  /-- R370 -/
  | brkpt (o : WArgs)
  /-- R382 -/
  | rgne (o : WArgs)
  /-- R382 -/
  | rgnl (o : WArgs)
  /-- R245 -/
  | launchAccept (queue : Nat)
  /-- R249 -/
  | gateSatisfied (launch : Nat)
  /-- R251 -/
  | headWaitExpiry (queue : Nat)
  /-- R35 -/
  | teamStart (team : Nat)
  /-- R252 -/
  | teamSwapOut (team : Nat)
  /-- R351 -/
  | teamRestore (team : Nat) (cores : List Nat)
  /-- R253 -/
  | issueArbitration (core : Nat)
  /-- R257 -/
  | withholdExpiry (unit : UnitId) (slice : Nat)
  /-- R260 -/
  | gatingWindowExpiry (core : Nat)
  /-- R260 -/
  | powerUpComplete (core : Nat)
  /-- R261 -/
  | driftStallRelease (unit : UnitId)
  /-- R259 -/
  | poolChangeComplete (cluster : Nat)
  /-- R166 -/
  | refreshWindowStart (die : Nat)
  /-- R166 -/
  | refreshWindowEnd (die : Nat)
  /-- R140 -/
  | harrowKstep (core : Nat)
  /-- R146 -/
  | harrowCommandComplete (core : Nat)
  /-- R222 -/
  | sluiceCommandStart (core : Nat)
  /-- R169 -/
  | sluiceRowComplete (core : Nat)
  /-- R222 -/
  | sluiceCommandComplete (core : Nat)
  /-- R224 -/
  | sluiceEngineError (unit : UnitId)
  /-- R224 -/
  | sluiceFaultResume (core : Nat)
  /-- R238 -/
  | kstLink (core : Nat)
  /-- R239 -/
  | bgatherProbe (core : Nat)
  /-- R25 -/
  | loadDataReturn (unit : UnitId) (slice : Nat)
  /-- R161 -/
  | storePerform (unit : UnitId) (dest : Nat)
  /-- R214 -/
  | storeRetire (unit : UnitId)
  /-- R163 -/
  | atomicPerform (unit : UnitId)
  /-- R214 -/
  | phaseComplete (unit : UnitId)
  /-- R414 -/
  | peerTimeout (op : Nat)
  /-- R217 -/
  | mwaitMonitorWake (unit : UnitId) (slice : Nat)
  /-- R165 -/
  | mwaitPollExpiry (unit : UnitId) (slice : Nat)
  /-- R233 -/
  | channelWake (unit : UnitId) (slice : Nat)
  /-- R216 -/
  | waitcReturn (unit : UnitId) (slice : Nat)
  /-- R289 -/
  | handReceiveWake (unit : UnitId) (slice : Nat)
  /-- R267 -/
  | barrierGenerationComplete (team : Nat) (group : Nat)
  /-- R268 -/
  | roundRelease (launch : Nat)
  /-- R292 -/
  | tickwRelease (unit : UnitId) (slice : Nat)
  /-- R287 -/
  | regangJoin (unit : UnitId)
  /-- R339 -/
  | tlbinvComplete (unit : UnitId)
  /-- R365 -/
  | footprintRelease (team : Nat)
  /-- R410 -/
  | launchComplete (launch : Nat)
  /-- R409 -/
  | doorbell (queue : Nat) (n : W32)
  /-- R162 -/
  | hostWrite (addr : Nat) (bytes : List Byte)
  /-- R407 -/
  | controlWindowWrite (offset : Nat) (value : ControlWrite)
  /-- R411 -/
  | setbrk (byS : Bool)
  /-- R411 -/
  | setrgn (byS : Bool)
  /-- R411 -/
  | debugHalt (byS : Bool)
  /-- R411 -/
  | debugResume (byS : Bool)
  /-- R411 -/
  | debugUndo (byS : Bool)
  /-- R412 -/
  | debugRead (byS : Bool)
  /-- R412 -/
  | debugWrite (byS : Bool)
  /-- R419 -/
  | thermalCompare (die : Nat)
  /-- R364 -/
  | c3Exit (die : Nat)
  /-- R352 -/
  | logSpill (core : Nat) (count : Nat)
  /-- R344 -/
  | siblingHalt (unit : UnitId)
  /-- R344 -/
  | teamRelease (team : Nat)
  /-- R321 -/
  | faultRequestComplete (ctx page : Nat)
  /-- R321 -/
  | faultRoomRecheck (unit : UnitId)
  /-- R349 -/
  | hardPreempt (team : Nat)
  /-- R349 -/
  | softPreempt (team : Nat) (budget : Nat)
  /-- R349 -/
  | softPreemptBudgetExpiry (team : Nat)
  /-- R362 -/
  | sliceUncorrectableError (unit : UnitId) (slice : Nat)
  /-- R324 -/
  | coreClear (core ctx : Nat)
  /-- R328 -/
  | codeLoad (ctx : Nat) (load : LoadRequest)
  /-- R331 -/
  | unloadComplete (ctx : Nat) (handle : W64)
  /-- R406 -/
  | hostWindowWrite (addr : Nat) (bytes : WindowOp)
  /-- R6 -/
  | resetRelease
  /-- R251 -/
  | placementStep
  /-- R364 -/
  | thermalSaveBudgetExpiry
  /-- R364 -/
  | thermalCooled
  /-- R417 -/
  | latchTick
  /-- R364 -/
  | thermalSavesDone
  /-- R412 -/
  | debugBadCommand
  /-- R364 -/
  | threl
  /-- R413 -/
  | flitCrcRetry (port : Nat)
  /-- R415 -/
  | tickFlit (peer : Nat) (tick : W64)
  /-- R416 -/
  | aplLinkTrain (port : Nat) (pkg : BitVec 16)
  /-- R416 -/
  | aplLinkLoss (port : Nat)
  /-- R260 -/
  | gatingRequest (core : Nat)
  /-- R407 -/
  | corrClear (index : Nat)
  /-- R416 -/
  | peerTableWrite (peer : Nat) (entry : BitVec 128)
  /-- R259 -/
  | poolReassign (cluster : Nat) (cls : BitVec 2)
  /-- R6 -/
  | hostImageWrite (slot : Nat) (image : ImageBody)
  /-- R366 -/
  | contextTeardown (ctx : Nat)
  /-- R363 -/
  | dataPoison (place : PoisonPlace)
  /-- R361 -/
  | correctedError (index : Nat)
  /-- R348 -/
  | supervisorTrapResume (unit : UnitId) (mode : BitVec 2)
  /-- R413 -/
  | peerOpArrival (peer : Nat) (op : PeerRequest)
  /-- R218 -/
  | peerAck (op : Nat) (ok : Bool)
  /-- R331 -/
  | codeUnload (ctx : Nat) (handle : W64)
  /-- R340 -/
  | ecallComplete (unit : UnitId) (slice : Nat) (status value : W64)
  deriving DecidableEq, Repr

end Sys2Proof
end

