-- ==== Sys2Proof/Machine/Float.lean ====
section
/-! DEFINITION. Floating-point formats, exact values, rounding, saturation and the accumulator format (05_numbers
R60-R69, R78-R84). -/

namespace Sys2Proof.Machine

/-- A binary format: exponent and fraction widths, bias, and whether it has infinities and NaNs (R60). -/
structure Format where
  ebits : Nat
  fbits : Nat
  bias : Int
  hasInf : Bool
  hasNan : Bool
  deriving DecidableEq, Repr

/-- The formats of R60 by T code; integer codes have none and read as f32. -/
def formatOf : TCode → Format
  | .f64 => ⟨11, 52, 1023, true, true⟩
  | .f16 => ⟨5, 10, 15, true, true⟩
  | .bf16 => ⟨8, 7, 127, true, true⟩
  | .e4m3 => ⟨4, 3, 7, false, true⟩
  | .e5m2 => ⟨5, 2, 15, true, true⟩
  | .e2m1 => ⟨2, 1, 1, false, false⟩
  | _ => ⟨8, 23, 127, true, true⟩

/-- An exact value: a dyadic `m × 2^e` and a sticky bit for a magnitude just above it, an infinity, or a NaN. The sign
of a zero is `neg`. -/
inductive Val where
  | num (neg : Bool) (m : Nat) (e : Int) (sticky : Bool)
  | inf (neg : Bool)
  | nan (signalling : Bool)
  deriving DecidableEq, Repr

/-- The flags NV, DZ, OF, UF, NX of FPSTAT (bits 0-4), BFLUSH (5) and SATD (6), R32. -/
abbrev Flags := BitVec 7

def Flags.nv : Flags := 1#7
def Flags.dz : Flags := 2#7
def Flags.of : Flags := 4#7
def Flags.uf : Flags := 8#7
def Flags.nx : Flags := 16#7
def Flags.bflush : Flags := 32#7
def Flags.satd : Flags := 64#7

namespace Format

/-- Width in bits. -/
def width (f : Format) : Nat := f.ebits + f.fbits + 1
/-- Exponent field of the largest finite value, and its fraction (R60): all exponents but the last are finite where the
format has infinities; e4m3 keeps all of the last but the all-ones fraction, e2m1 all of it. -/
def maxFinite (f : Format) : Nat :=
  if f.hasInf then (2 ^ f.ebits - 1) * 2 ^ f.fbits - 1
  else if f.hasNan then 2 ^ (f.ebits + f.fbits) - 2 else 2 ^ (f.ebits + f.fbits) - 1
/-- The canonical quiet NaN (R60, R62). e2m1 has none and takes +0 (R64). -/
def qnan (f : Format) : Nat :=
  if f.hasInf then (2 ^ f.ebits - 1) * 2 ^ f.fbits + 2 ^ (f.fbits - 1)
  else if f.hasNan then 2 ^ (f.ebits + f.fbits) - 1 else 0
/-- Bits of a sign. -/
def signBit (f : Format) (neg : Bool) : Nat := if neg then 2 ^ (f.ebits + f.fbits) else 0
/-- Infinity of a sign, where the format has one. -/
def infBits (f : Format) (neg : Bool) : Nat := f.signBit neg + (2 ^ f.ebits - 1) * 2 ^ f.fbits
/-- Exponent of the least significant bit of a subnormal. -/
def emin (f : Format) : Int := 1 - f.bias - f.fbits

/-- The value that bits hold (R60). Where the fraction's top bit is clear a NaN signals, as in IEEE 754; R60 and R62 do not say so of
e5m2, of which 0x7D and 0xFD signal here, and the NaNs of e4m3 are quiet: the model's choice (log entry 25). -/
def decode (f : Format) (x : Nat) : Val :=
  let x := x % 2 ^ f.width
  let neg := x / 2 ^ (f.ebits + f.fbits) % 2 = 1
  let mag := x % 2 ^ (f.ebits + f.fbits)
  let ex := mag / 2 ^ f.fbits
  let fr := mag % 2 ^ f.fbits
  if f.hasInf ∧ ex = 2 ^ f.ebits - 1 then
    if fr = 0 then .inf neg else .nan (fr < 2 ^ (f.fbits - 1))
  else if !f.hasInf ∧ f.hasNan ∧ mag = 2 ^ (f.ebits + f.fbits) - 1 then .nan false
  else if ex = 0 then .num neg fr f.emin false
  else .num neg (fr + 2 ^ f.fbits) (f.emin + (ex : Int) - 1) false

/-- Bits of a subnormal value, zero excluded. -/
def isSubnormal (f : Format) (x : Nat) : Bool :=
  let mag := x % 2 ^ (f.ebits + f.fbits)
  mag != 0 && mag < 2 ^ f.fbits

/-- FTZ on an operand: a subnormal reads as zero of its sign (R66). -/
def flushIn (f : Format) (ftz : Bool) (x : Nat) : Nat :=
  if ftz && f.isSubnormal x then x % 2 ^ f.width - x % 2 ^ (f.ebits + f.fbits) else x

end Format

/-- Rounding modes in force: RNE, RTZ, RUP, RDN, RNA (R45), and SR with its 16-bit threshold (R68). -/
inductive Rm where
  | rne | rtz | rup | rdn | rna
  | sr (r : Nat)
  deriving DecidableEq, Repr

/-- Whether a truncated magnitude `q` with `rest` of `2^k` discarded, and something further below when `sticky`, goes up. -/
def roundUp (rm : Rm) (neg : Bool) (q rest k : Nat) (sticky : Bool) : Bool :=
  let half := 2 ^ k / 2
  match rm with
  | .rne => if rest = half ∧ k ≠ 0 ∧ !sticky then q % 2 = 1 else k ≠ 0 ∧ half ≤ rest
  | .rna => k ≠ 0 ∧ half ≤ rest
  | .rtz => false
  | .rup => !neg && (rest != 0 || sticky)
  | .rdn => neg && (rest != 0 || sticky)
  | .sr r => (if k ≤ 16 then rest * 2 ^ (16 - k) else rest / 2 ^ (k - 16)) > r

/-- `m × 2^e` as a multiple of `2^g`: the rounded multiple, and whether it is inexact. -/
def roundTo (rm : Rm) (neg : Bool) (m : Nat) (e g : Int) (sticky : Bool) : Nat × Bool :=
  if g ≤ e then (m * 2 ^ (e - g).toNat, sticky)
  else
    let k := (g - e).toNat
    let q := m / 2 ^ k
    let rest := m % 2 ^ k
    (if roundUp rm neg q rest k sticky then q + 1 else q, rest != 0 || sticky)

/-- A value just above `m × 2^e` with room for the sticky bit: two further bits, so that a half is decided by the
discarded part alone. -/
def widen (m : Nat) (e : Int) (sticky : Bool) : Nat × Int := if sticky then (m * 4 + 1, e - 2) else (m, e)

/-- A finite magnitude rounded on an unbounded exponent range and placed in a format (R64): bits without the sign, and
the flags OF, UF, NX; `none` when it overflows past the largest finite value. Tininess is judged after rounding with
an unbounded exponent (R65). -/
def Format.place (f : Format) (rm : Rm) (neg : Bool) (m : Nat) (e : Int) (sticky : Bool) : Option Nat × Flags :=
  let (m, e) := widen m e sticky
  if m = 0 then (some 0, 0)
  else
    let top : Int := e + bitLen m - 1
    let g := max (top - f.fbits) f.emin
    let (q, inexact) := roundTo rm neg m e g false
    let nx := if inexact then Flags.nx else 0
    -- tininess: the value rounded to fbits + 1 bits with no lower bound on the exponent lies below the smallest normal
    let g' := top - f.fbits
    let q' := (roundTo rm neg m e g' false).1
    let tiny := g' < f.emin ∧ (q' : Int) < 2 ^ (f.fbits + 1) ∨ g' + 1 < f.emin
    let uf := if tiny ∧ inexact then Flags.uf else 0
    -- the exponent field: 1 + (g - emin) for a normal, carried into by a significand of 2^(fbits+1)
    let mag := if q < 2 ^ f.fbits then q else ((g - f.emin).toNat) * 2 ^ f.fbits + q
    if mag ≤ f.maxFinite then (some mag, nx ||| uf) else (none, Flags.of ||| Flags.nx)

/-- Whether an overflow under a mode goes to infinity (R64). -/
def overflowToInf (rm : Rm) (neg : Bool) : Bool :=
  match rm with
  | .rtz => false
  | .rup => !neg
  | .rdn => neg
  | _ => true

/-- An infinite result placed in a format (R64, R67): infinity, or the canonical NaN of e4m3, or ±6 in e2m1; clamped
with SATD under saturation. `operand` says that an operand's infinity passed through. -/
def Format.placeInf (f : Format) (neg sat operand : Bool) : Nat × Flags :=
  if sat then (f.signBit neg + f.maxFinite, Flags.satd)
  else if f.hasInf then (f.infBits neg, 0)
  else (if f.hasNan then f.qnan else f.signBit neg + f.maxFinite, if operand then Flags.nv else 0)

/-- `sat(round(v, fmt, rm), fmt, S)` (R64, R67): the bits and the flags raised. A NaN gives the canonical NaN, and NV
when it signals (R62) or when the format has none (R64). -/
def Format.deliver (f : Format) (rm : Rm) (sat : Bool) : Val → Nat × Flags
  | .nan sg => (f.qnan, if sg || !f.hasNan then Flags.nv else 0)
  | .inf neg => f.placeInf neg sat true
  | .num neg m e st =>
    match f.place rm neg m e st with
    | (some mag, fl) => (f.signBit neg + mag, fl)
    | (none, fl) =>
      if overflowToInf rm neg then
        let (b, fl') := f.placeInf neg sat false
        (b, fl ||| fl')
      else (f.signBit neg + f.maxFinite, fl)

/-- FTZ on a result: a subnormal after rounding is delivered as zero of its sign with UF and NX (R66). -/
def Format.flushOut (f : Format) (ftz : Bool) (r : Nat × Flags) : Nat × Flags :=
  if ftz && f.isSubnormal r.1 then (f.flushIn true r.1, r.2 ||| Flags.uf ||| Flags.nx) else r

/-! ### Exact arithmetic -/

/-- A dyadic as a signed integer over a common exponent. -/
def scaled (neg : Bool) (m : Nat) (e g : Int) : Int :=
  let x : Int := (m : Int) * 2 ^ (e - g).toNat
  if neg then -x else x

/-- The sign of an exact zero sum (R64). -/
def zeroSign (rm : Rm) : Bool := match rm with | .rdn => true | _ => false

/-- Sum of two finite values, exact; equal signs of two zeros are kept, otherwise the mode decides. -/
def addNum (rm : Rm) (n1 : Bool) (m1 : Nat) (e1 : Int) (n2 : Bool) (m2 : Nat) (e2 : Int) : Val :=
  let g := if m1 = 0 then e2 else if m2 = 0 then e1 else min e1 e2
  let x := (if m1 = 0 then 0 else scaled n1 m1 e1 g) + (if m2 = 0 then 0 else scaled n2 m2 e2 g)
  if x = 0 then .num (if m1 = 0 ∧ m2 = 0 ∧ n1 = n2 then n1 else zeroSign rm) 0 0 false
  else .num (x < 0) x.natAbs g false

/-- A NaN that signals if either does. -/
def sigOf : Val → Bool
  | .nan sg => sg
  | _ => false

def isNan : Val → Bool
  | .nan _ => true
  | _ => false

/-- An invalid operation: a quiet NaN that raises NV like a signalling one. -/
def invalid : Val := .nan true

/-- Sum (IEEE 754; inf − inf is invalid). -/
def Val.add (rm : Rm) (a b : Val) : Val :=
  match a, b with
  | .nan s, x => .nan (s || sigOf x)
  | x, .nan s => .nan (s || sigOf x)
  | .inf n, .inf k => if n = k then .inf n else invalid
  | .inf n, _ => .inf n
  | _, .inf n => .inf n
  | .num n1 m1 e1 _, .num n2 m2 e2 _ => addNum rm n1 m1 e1 n2 m2 e2

def Val.neg : Val → Val
  | .num n m e s => .num (!n) m e s
  | .inf n => .inf (!n)
  | .nan s => .nan s

/-- Product (0 × inf is invalid). -/
def Val.mul (a b : Val) : Val :=
  match a, b with
  | .nan s, x => .nan (s || sigOf x)
  | x, .nan s => .nan (s || sigOf x)
  | .inf n, .inf k => .inf (n != k)
  | .inf n, .num k m _ _ => if m = 0 then invalid else .inf (n != k)
  | .num k m _ _, .inf n => if m = 0 then invalid else .inf (n != k)
  | .num n1 m1 e1 _, .num n2 m2 e2 _ => .num (n1 != n2) (m1 * m2) (e1 + e2) false

/-- `a × b + c` with no rounding between (FFMA, R85). 0 × ∞ is invalid and raises NV even beside a quiet NaN addend, which IEEE 754
leaves open: the model's choice (log entry 25). -/
def Val.fma (rm : Rm) (a b c : Val) : Val :=
  match a.mul b, c with
  | .nan s, x => .nan (s || sigOf x)
  | p, c => p.add rm c

/-- Quotient, to 70 bits beyond the divisor's and a sticky bit, which every rounding of R64 decides exactly. The flag DZ is
raised beside it by the caller. -/
def Val.div (a b : Val) : Val :=
  match a, b with
  | .nan s, x => .nan (s || sigOf x)
  | x, .nan s => .nan (s || sigOf x)
  | .inf _, .inf _ => invalid
  | .inf n, .num k _ _ _ => .inf (n != k)
  | .num n _ _ _, .inf k => .num (n != k) 0 0 false
  | .num n1 m1 e1 _, .num n2 m2 e2 _ =>
    if m2 = 0 then (if m1 = 0 then invalid else .inf (n1 != n2))
    else
      let sh := 70 + bitLen m2
      let x := m1 * 2 ^ sh
      .num (n1 != n2) (x / m2) (e1 - e2 - sh) (x % m2 != 0)

/-- Whether a division raises DZ: a finite non-zero value by zero (R119). -/
def divByZero (a b : Val) : Bool :=
  match a, b with
  | .num _ m _ _, .num _ m2 _ _ => m != 0 && m2 == 0
  | _, _ => false

/-- Floor of a square root by bisection on `n` bits. -/
def sqrtBits (x : Nat) : Nat → Nat → Nat
  | 0, r => r
  | n + 1, r => let t := r + 2 ^ n; sqrtBits x n (if t * t ≤ x then t else r)

/-- Square root, to 36 bits and a sticky bit (FSQRT in f32, R87). Negative operands are the caller's. -/
def Val.sqrt : Val → Val
  | .num n m e _ =>
    if m = 0 then .num n 0 0 false
    else
      let odd := e % 2 = 1
      let m1 := if odd then m * 2 else m
      let e1 := if odd then e - 1 else e
      let x := m1 * 2 ^ 72
      let r := sqrtBits x (bitLen x / 2 + 1) 0
      .num false r ((e1 - 72) / 2) (r * r != x)
  | v => v

/-- Comparison of two numbers that are not NaN: `none` for equal, otherwise whether the first is less. Zeros are equal. -/
def Val.less (a b : Val) : Option Bool :=
  match a, b with
  | .inf n, .inf k => if n = k then none else some n
  | .inf n, _ => some n
  | _, .inf k => some (!k)
  | .num n1 m1 e1 _, .num n2 m2 e2 _ =>
    let g := min e1 e2
    let x := scaled n1 m1 e1 g
    let y := scaled n2 m2 e2 g
    if x = y then none else some (x < y)
  | _, _ => none

/-- The conditions of FCMP by code 0-7, with the flag NV (R101). -/
def fcmp (cc : Nat) (a b : Val) : Bool × Flags :=
  let un := isNan a || isNan b
  let sig := sigOf a || sigOf b
  let ordering := cc == 2 || cc == 3 || cc == 4 || cc == 5
  let fl := if (un && ordering) || sig then Flags.nv else 0
  let r := if un then cc == 1 || cc == 6
    else match a.less b, cc with
      | none, 0 => true | some _, 0 => false
      | none, 1 => false | some _, 1 => true
      | o, 2 => o == some true
      | o, 3 => o != some false
      | o, 4 => o == some false
      | o, 5 => o != some true
      | _, 6 => false
      | _, _ => true
  (r, fl)

/-- The sign of a value; zeros have theirs. -/
def signOf : Val → Bool
  | .num n _ _ _ => n
  | .inf n => n
  | .nan _ => false

/-- minimumNumber and maximumNumber of IEEE 754-2019 on bits, with −0 < +0 (R100): which operand is returned, the canonical
NaN for two NaNs, and NV for a signalling one. -/
def fminmax (f : Format) (wantMax : Bool) (a b : Nat) : Nat × Flags :=
  let va := f.decode a
  let vb := f.decode b
  let fl := if sigOf va || sigOf vb then Flags.nv else 0
  let r := if isNan va && isNan vb then f.qnan
    else if isNan va then b % 2 ^ f.width
    else if isNan vb then a % 2 ^ f.width
    else
      let aLess := match va.less vb with
        | some x => x
        | none => signOf va && !signOf vb
      if aLess == wantMax then b % 2 ^ f.width else a % 2 ^ f.width
  (r, fl)

/-- A value rounded to an integer under a mode, and whether it changed. -/
def roundInt (rm : Rm) (neg : Bool) (m : Nat) (e : Int) (sticky : Bool) : Int × Bool :=
  let (m, e) := widen m e sticky
  let (q, nx) := roundTo rm neg m e 0 false
  (if neg then -(q : Int) else q, nx)

/-- An integer as an exact value; zero is +0. -/
def Val.ofInt (x : Int) : Val := .num (x < 0) x.natAbs 0 false

/-! ### The accumulator format acc40 (R78-R80) -/

namespace Acc

/-- The exponent and significand fields of a word (R78). -/
def exp (w : Acc) : Int := toInt 9 (w.toNat / 2 ^ 31)
def sig (w : Acc) : Int := toInt 31 w.toNat

/-- The value a word holds (R78, R79). Zero is any word with m = 0 and e ≠ 255. -/
def val (w : Acc) : Val :=
  let e := exp w
  let m := sig w
  if e = 255 then (if m = 1 then .inf false else if m = -1 then .inf true else .nan false)
  else .num (m < 0) m.natAbs (e - 29) false

/-- A word from its fields. -/
def ofFields (e m : Int) : Acc := BitVec.ofNat 40 (wrapNat 9 e * 2 ^ 31 + wrapNat 31 m)

/-- R80: `round_acc`. -/
def round : Val → Acc
  | .nan _ => ofFields 255 (-(2 ^ 30))
  | .inf n => ofFields 255 (if n then -1 else 1)
  | .num n m e st =>
    let (m, e) := widen m e st
    if m = 0 then 0
    else
      let ex := max (e + bitLen m) (-256)
      let q := (roundTo .rne n m e (ex - 29) false).1
      let (q, ex) := if q = 2 ^ 29 then (q / 2, ex + 1) else (q, ex)
      if q = 0 then 0
      else if ex > 254 then ofFields 255 (if n then -1 else 1)
      else ofFields ex (if n then -(q : Int) else q)

end Acc

/-- The product of matrix work: a zero factor gives exact zero (R82). -/
def Val.mulZ (a b : Val) : Val :=
  match a, b with
  | .num _ 0 _ _, _ => .num false 0 0 false
  | _, .num _ 0 _ _ => .num false 0 0 false
  | a, b => a.mul b

/-- Exact block sum of products: NaN products or both infinite signs give NaN (R81). -/
def Val.sum (vs : List Val) : Val := vs.foldl (fun s v => s.add .rne v) (.num false 0 0 false)

end Sys2Proof.Machine
end

