-- ==== Sys2Proof/Config.lean ====
section
/-! DEFINITION. What an implementation fixes, and the free values of the model.
An `opaque` constant has no value that a proof can see; each is named in notes/assumptions. -/

namespace Sys2Proof.Config

/-- The ten functions of the SFU (R106), in the order of their majors. -/
inductive SfuFn where
  | rcp | rsq | sqrt | exp2 | log2 | sin | cos | tanh | sigm | erf
  deriving DecidableEq, Repr

/-- The SFU's fixed mapping from operand bits to f32 result bits (R88), where the spec fixes no value: free, within the
bounds that Machine/Sfu.lean imposes. FREE VALUE, log entry 10. -/
opaque sfu : SfuFn → W32 → W32

/-- A value the spec does not fix, read afresh through a counter of the state. FREE VALUE, log entry 5. -/
opaque freeValue : Nat → W64

/-- Entries of a checkpoint's slice-state block, whose packing is each part's own (R352). FREE VALUE, log entry 5. -/
opaque blockEntries : BitVec 16

/-- Bytes of one core's scratchpad (R156). -/
def scratchBytes : Nat := 262144
/-- Entries of the token and region stacks (R18). -/
def stackDepth : Nat := 16
/-- Entries of a lane's operand stack (R18). -/
def operandDepth : Nat := 8
/-- Commands of the sluice queue and of the harrow queue (R18). -/
def sluiceQueue : Nat := 32
def harrowQueue : Nat := 4
/-- Condition monitors of one cluster cache (R165). -/
def monitorsPerCluster : Nat := 4096
/-- Outstanding fault requests and ECALL requests of one die (R321, R340). -/
def faultRequestsPerDie : Nat := 512
def ecallRequestsPerDie : Nat := 64
/-- Lines of a transaction's read set and of its write set (R379). -/
def txnLines : Nat := 64
/-- Scratchpad offsets: trap frames (R346), member and gang completion rings (R225). -/
def frameBase : Nat := 0x36F00
def frameBytes : Nat := 2048
def memberRing : Nat := 0x3EF00
def gangRing : Nat := 0x3F000
/-- The scratchpad window of physical memory (R157). -/
def scratchWindow : Nat := 0x20000000000
/-- Entries of a log slice: 64 KiB of 32-byte entries (R352). -/
def logSliceEntries : Nat := 2048

end Sys2Proof.Config
end

