-- ==== Sys2Proof/Machine/Mem.lean ====
section
/-! DEFINITION. Memory as sorted lists of cells. A `Mem` lists the bytes that are not zero, an `Overlay` the bytes
that something holds over a memory (09_memory_places R157, R162). -/

namespace Sys2Proof.Machine

/-- Physical memory: cells by strictly rising address, none of them zero. An unlisted byte reads as zero
(DESIGN CHOICE, log entry 4). -/
abbrev Mem := List Host.Cell
/-- Bytes held over a memory, by strictly rising address; any value may be listed. -/
abbrev Overlay := List Host.Cell

/-- What an unlisted byte reads as (log entry 4). -/
def blank : Byte := 0

namespace Mem

/-- One byte. -/
def read : Mem → Nat → Byte
  | [], _ => blank
  | (a, b) :: m, x => if a = x then b else if x < a then blank else read m x

/-- One byte stored, the canonical form kept. -/
def write : Mem → Nat → Byte → Mem
  | [], x, v => if v = blank then [] else [(x, v)]
  | (a, b) :: m, x, v =>
    if x < a then (if v = blank then (a, b) :: m else (x, v) :: (a, b) :: m)
    else if x = a then (if v = blank then m else (a, v) :: m)
    else (a, b) :: write m x v

/-- `n` bytes from `x` on, the lowest address first. -/
def readBytes (m : Mem) (x : Nat) : Nat → List Byte
  | 0 => []
  | n + 1 => m.read x :: readBytes m (x + 1) n

/-- Bytes stored from `x` on. -/
def writeBytes (m : Mem) (x : Nat) : List Byte → Mem
  | [] => m
  | b :: bs => writeBytes (m.write x b) (x + 1) bs

/-- The bytes of `[lo, hi)` become what an unlisted byte reads as. -/
def clear (m : Mem) (lo hi : Nat) : Mem := m.filter (fun c => c.1 < lo || hi ≤ c.1)

/-- Addresses strictly rising, all above `lo`. -/
def risingFrom (lo : Nat) : List Host.Cell → Bool
  | [] => true
  | (a, _) :: m => lo ≤ a && risingFrom (a + 1) m

/-- The canonical form: addresses strictly rising, no listed byte equal to what an unlisted one reads as. -/
def wf (m : Mem) : Bool := risingFrom 0 m && m.all (fun c => c.2 != blank)

end Mem

namespace Overlay

/-- The byte held at an address, if one is. -/
def find : Overlay → Nat → Option Byte
  | [], _ => none
  | (a, b) :: m, x => if a = x then some b else find m x

/-- A byte held. -/
def put : Overlay → Nat → Byte → Overlay
  | [], x, v => [(x, v)]
  | (a, b) :: m, x, v =>
    if x < a then (x, v) :: (a, b) :: m else if x = a then (a, v) :: m else (a, b) :: put m x v

/-- Bytes held from `x` on. -/
def putBytes (o : Overlay) (x : Nat) : List Byte → Overlay
  | [] => o
  | b :: bs => putBytes (put o x b) (x + 1) bs

/-- Bytes of `[x, x+n)` no longer held. -/
def dropBytes (o : Overlay) (x n : Nat) : Overlay := o.filter (fun c => c.1 < x || x + n ≤ c.1)

/-- What is held in `a`, and below it what is held in `b`. -/
def layer (a b : Overlay) : Overlay := a.foldl (fun o c => put o c.1 c.2) b

/-- Every byte held goes to memory. -/
def publish (o : Overlay) (m : Mem) : Mem := o.foldl (fun m c => m.write c.1 c.2) m

end Overlay

end Sys2Proof.Machine
end

