-- ==== Sys2Proof/Machine/State.lean ====
section
/-! DEFINITION. The state of the package: whatever the spec gives the machine (03_state and the files named at each
structure), as plain data. -/

namespace Sys2Proof.Machine

/-! ### Translations -/

/-- Kinds of access (R321). -/
inductive Access where
  | read | write | fetch
  deriving DecidableEq, Repr

/-- A translation that a TLB or a command holds (R240, R320): a leaf of a context, for the aligned page of `size` bytes at `va`. -/
structure TlbEntry where
  ctx : Nat
  va : Nat
  size : Nat
  frame : Nat
  attrs : BitVec 12
  deriving DecidableEq, Repr

/-- The TLBs (R320): a core's, a cluster's. -/
inductive TlbPlace where
  | l1 (core : Nat)
  | l2 (cluster : Nat)
  deriving DecidableEq, Repr

/-! ### Slices -/

/-- Reconvergence tokens (14_control R273). Masks are the slice's four lanes. -/
inductive Token where
  | branch (saved other wait : BitVec 4) (target resume : W64)
  | loop (saved : BitVec 4) (exit : W64)
  | call (saved todo : BitVec 4) (tgt : Vector W64 4) (cpc ra : W64) (calling : Bool)
  deriving DecidableEq, Repr

/-- A walk record (R283): extents and strides by dimension, absent extents 1. -/
structure Walk where
  base : W64
  t : TCode
  ndim : Nat
  ext0 : Nat
  ext1 : Nat
  ext2 : Nat
  str0 : Int
  str1 : Int
  str2 : Int
  deriving DecidableEq, Repr

/-- A bound stream (R284): record, position, end flags 0-2. -/
structure Stream where
  walk : Walk
  pos : Nat
  flags : BitVec 3
  deriving DecidableEq, Repr

/-- Where a matrix operand's bitmap comes from (08_matrix R149). -/
inductive Bitmap where
  | none
  | seed (seed base : W64) (density : BitVec 16)
  | tile (t : Nat)
  deriving DecidableEq, Repr

/-- The span setting (R147): the issuing core, or m x n cores from a footprint ordinal. -/
inductive Span where
  | self
  | grid (m n base : Nat)
  deriving DecidableEq, Repr

/-- A result on its way to an empty register (R25): the register, and for a vector the lanes written, the lanes still
to be computed by atomics, and the elements (low and high halves). -/
inductive Result where
  | scalar (r : Reg) (x : W64)
  | scalarWait (r : Reg)
  | vector (r : Reg) (pair : Bool) (lanes missing : BitVec 4) (lo hi : Vector W32 4) (xv : Bool)
  deriving DecidableEq, Repr

/-- What follows a PHASE: the next instruction, the end of the slices (EXIT), the wait for the next round (WBAR). -/
inductive After where
  | next | exit | wbar
  deriving DecidableEq, Repr

/-- What a slice waits for (13_progress R253, R266; 18 R322). -/
inductive Wait where
  /-- PHASE, stated or implied: completes by PHASE_COMPLETE (R214). -/
  | phase (after : After)
  /-- WAITC (R216). -/
  | waitc (cls n : Nat)
  /-- MWAIT (R217): the word's virtual address, its width, the condition, the compared value, sD. -/
  | mwait (va : W64) (w32 unsigned : Bool) (cond : BitVec 4) (value : W64) (d : Reg)
  /-- CHWAIT and ROWBAR (R233). -/
  | chwait (desc : W64) (n : Nat) (d : Reg)
  | rowbar (desc : W64) (count : W64)
  /-- BGATHER until its probe (R239). -/
  | probe
  | barw (group gen : Nat)
  | bara (group : Nat)
  /-- The receive of a HAND (R289): offset and pass. -/
  | handRecv (off pass : Nat) (vec : Bool) (d : Reg)
  | wbar
  | tickw (target : W64)
  | regang
  | wmark
  | ecall
  /-- TLBINV of one context's entries, of one page's or of all: what it names (R339). -/
  | tlbinv (ctx : Option Nat) (page : Option W64)
  /-- A recoverable translation fault: the pages awaited and the kind of access that met it (R321, R322). -/
  | page (pages : List Nat) (kind : Access)
  /-- A drift stall (R261). -/
  | drift
  deriving DecidableEq, Repr

/-- Run state of a slice: parked keeps the size of the waiting instruction and whether the slice's own condition has
held (R217, R292). -/
inductive RunState where
  | running
  | parked (w : Wait) (size : Nat) (held : Bool)
  | exited
  deriving DecidableEq, Repr

/-- One slice (R18): its four lanes of every vector register, its scalars, masks, streams and stacks. Bit i of
`sFull` or `vFull` is the full/empty bit of register i. `grp` is the lowest slice of its issue group (R272). `replay`
holds the lanes that its next issue re-executes (R132). `handPass` counts its passes of HAND offsets and `barPass` its BARAs by group (R289, R290). `blk` is the fetch block it is in, `pos` how
many it has passed, `seqF` whether it came to its PC in sequence (R58, R261). `served` is the tick of its last issue (R257), `behind` the
replay, with its PC, that an asynchronous trap has put off until its TRET (R132, R371). -/
structure Slice where
  idx : Nat
  pc : W64
  mask : BitVec 4
  s : Vector W64 64
  sFull : W64
  v : Vector (Vector W32 4) 64
  vFull : W64
  k : Vector (BitVec 4) 8
  w : Vector (Option Stream) 16
  tokens : List Token
  regions : List (BitVec 16)
  opStacks : Vector (List W32) 4
  fpctl : W32
  fpstat : W32
  srcount : BitVec 41
  span : Span
  bitsA : Bitmap
  bitsB : Bitmap
  demand : Nat
  retStack : List W64
  retSpilled : List W64
  run : RunState
  grp : Nat
  results : List Result
  handPass : List (Nat × Nat)
  barPass : List (Nat × Nat)
  age : Nat
  served : Option Nat
  withheld : Option Nat
  replay : Option (BitVec 4)
  behind : Option (W64 × BitVec 4)
  blk : W64
  seqF : Bool
  pos : Nat
  deriving DecidableEq, Repr

/-! ### Gangs and engine members -/

/-- A page: the virtual base and the size of the leaf that translated an access (R315, R320). -/
abbrev PageSpan := Nat × Nat

/-- A direct store issued and not yet performed (R161): its slice, its destination core, where and what, the page that translated it, the
window it issued in, and how many pending atomics of its unit were issued before it (R213). -/
structure DirectStore where
  slice : Nat
  dest : Nat
  pa : Nat
  va : W64
  page : PageSpan
  bytes : List Byte
  win : W32
  after : Nat
  deriving DecidableEq, Repr

/-- An atomic issued and not yet performed (R163, R210): the lane it returns to, if it returns, the page that translated it; `frame` when its register is one
that a trap frame holds meanwhile (R346). -/
structure PendingAtomic where
  slice : Nat
  lane : Option (Fin 4)
  ret : Option Reg
  pa : Nat
  va : W64
  page : PageSpan
  op : BitVec 4
  ty : BitVec 3
  data : W64
  cmp : W64
  win : W32
  pc : W64
  retireId : Option Nat
  frame : Bool
  deriving DecidableEq, Repr

/-- An operation counted in SLUICE, MATRIX, GLOBAL or PEER (classes 0-3, R29): how much of it is still to complete.
It retires when it and all older ones of its class have completed (R30). -/
structure Outstanding where
  cls : Nat
  id : Nat
  left : Nat
  store : Bool
  deriving DecidableEq, Repr

/-- A running transaction (20_recovery R359, 21 R379): abort label, window, the lines read and written, its
unpublished stores with the pages that translated them, whether it is doomed, and the checkpoint of every slice. -/
structure Txn where
  label : W64
  win : W32
  reads : List Nat
  writes : List Nat
  own : Overlay
  pages : List PageSpan
  doomed : Bool
  slices : List Slice
  deriving DecidableEq, Repr

/-- The side-buffer record (R372). -/
structure SideBuffer where
  replay : LaneSet
  faulted : LaneSet
  lcause : BitVec 128
  seq : W32
  ecause : Byte
  cls : BitVec 4
  deriving DecidableEq, Repr

/-- A checkpoint of a gang (R352, R353): the window, the number of the region edge within it (0 for its start), the
live masks, and the slices as they stood. -/
structure Checkpoint where
  win : W32
  edge : Nat
  liveS : W64
  liveV : W64
  slices : List Slice
  deriving DecidableEq, Repr

/-- Whether and why a unit is stopped (R344, R366): a halt on its way, with its originator, the low sixteen bits of CAUSE and the
skid so far; halted by a sibling's trap; stopped at its own undelegated trap until S acts (the class, with 16 added for an
asynchronous trap of an engine member); halted by the debug port; at an uncorrectable error of a slice, with what it was at before (R362). `waiting` are the
slices that were parked on a wait. -/
inductive Halt where
  | none
  | pending (origin cause skid : Nat)
  | halted (origin : Nat) (waiting : List Nat)
  | trapped (cls : Nat)
  | port (waiting : List Nat)
  | error (slice : Nat) (behind : Halt)
  deriving DecidableEq, Repr

/-- The place of an error of a slice after which its gang has run the window again: core, slice, window, PC, and whether the gang has passed
it since (R362). -/
structure ErrorPlace where
  core : Nat
  slice : Nat
  win : W32
  pc : W64
  passed : Bool
  deriving DecidableEq, Repr

/-- A gang, an engine member or a management core's gang (R18, R153, R243, R310). A sluice member has eight slices in
one issue group, with equal scalars: 32 lanes; a harrow member has one slice (log entry 7). `published` lists the lines
that other units have published since its last PHASE (R185). Of the gang's engine writes, `engineDone` holds those of commands
that no Wait has covered, `engineCovered` those of covered ones, and `engineSeen` those that a Wait since the last PHASE covers
(R179, R181). `ownPages` are the pages that translated the stores in `own`. `earliest` is E (R353), `retried` the places of errors after
which the gang runs its window again (R362), `lostAt` the PC of a harrow command that has met poison while the gang stood still (R363). -/
structure Unit where
  id : UnitId
  team : Nat
  ctx : Nat
  slices : List Slice
  ops : List Outstanding
  winno : W32
  earliest : Nat
  edges : Nat
  autoCount : Nat
  logpol : W32
  logbase : W64
  logsz : W64
  nextLogpol : W32
  nextLogbase : W64
  snapshot : Mem
  own : Overlay
  ownPages : List PageSpan
  committed : Overlay
  engineDone : List (Nat × Overlay)
  engineCovered : Overlay
  engineSeen : Overlay
  direct : List DirectStore
  atomics : List PendingAtomic
  fenced : Overlay
  fencedDirect : Nat
  fencedAtomics : Nat
  seqNo : W32
  txn : Option Txn
  published : List Nat
  side : SideBuffer
  handler : Option (List Nat)
  halt : Halt
  engineError : Option (W32 × Byte × W64)
  errorHold : Bool
  arrived : List (Nat × Nat)
  checkpoints : List Checkpoint
  srseed : W64
  retried : List ErrorPlace
  lostAt : Option W64
  exited : Bool
  deriving DecidableEq, Repr

/-! ### Cores and their engines -/

/-- A sealed layout record as the sluice reads it (09 R170): element format, dimensions, extents and strides. -/
structure LayoutRec where
  base : W64
  scale : W64
  ndim : Nat
  fmt : Nat
  ver : BitVec 16
  pad : W32
  ext : List Nat
  str : List Int
  deriving DecidableEq, Repr

/-- A head descriptor as read (R236). -/
structure Head where
  addr : W64
  kbase : W64
  vbase : W64
  pans : W64
  pool : W64
  seed : W64
  kpitch : Nat
  vpitch : Nat
  vbytes : Nat
  d : Nat
  b : Nat
  kfmt : Nat
  clim : Nat
  pooln : Nat
  tmax : Nat
  deriving DecidableEq, Repr

/-- The captured work of a sluice command (12_sluice R227-R239). -/
inductive SluiceOp where
  | cp (ld : Bool) (spad lrec origin : W64) (rows cols fmtx : Nat)
  | cpx (sp : Bool) (dst src : W64) (idx : List W32) (bytes : Nat)
  | cps (dst src : W64) (idx : List W32) (bytes : Nat)
  | cpred (dst src : W64) (idx : List W32) (bytes : Nat) (op : BitVec 4) (ty : BitVec 3)
  | cpconv (sp : Bool) (dst lrec first geom : W64) (count : Nat)
  | moedisp (token desc : W64) (lanes : List (Nat × W32))
  | kst (head token : W64) (key : List W32)
  | qsig (head : W64) (query : List W32) (d : Reg) (slices : List Nat)
  | bgather (head : W64) (sig : W32) (near denseOk : Bool) (chan : W64) (d : Reg) (slices : List Nat)
  deriving DecidableEq, Repr

/-- How far a command has come: queued, running at a row, waiting for its link or probe, suspended on a not-present
page under the request that it joined (R224, R321), done with its rows, or stopped by a cause. -/
inductive SluicePhase where
  | queued
  | rows
  | link
  | probe
  | suspended (page : Nat) (kind : Access) (start : Bool)
  | finished
  | stopped (cause : Byte)
  deriving DecidableEq, Repr

/-- A sluice command (R221, R225): who issued it, the core whose sluice executes it (R229), its sequence number, the issuer's unpublished stores that its reads must
see (`held`) and may see (`may`), how many of the issuer's oldest pending direct stores and atomics hold it in the queue
(R180, R215, R223), its progress, and the fields of its completion record. `tokens` holds the candidates of a BGATHER,
and of a MOEDISP the descriptor's sixteen words. `flags` are the record's bits 40 to 44. `pins` are the
translations that it made when it started (R240), `toFrame` as an atomic's `frame`. -/
structure SluiceCommand where
  unit : UnitId
  execOn : Nat
  seq : W32
  major : BitVec 7
  op : SluiceOp
  ord : Bool
  held : Overlay
  may : Overlay
  fencedDirect : Nat
  fencedAtomics : Nat
  win : W32
  retireId : Nat
  pc : W64
  phase : SluicePhase
  row : Nat
  layout : Option LayoutRec
  head : Option Head
  tokens : List W32
  flags : BitVec 5
  bexp : BitVec 9
  count : Nat
  nvoid : Nat
  touched : Overlay
  pins : List TlbEntry
  toFrame : Bool
  deriving DecidableEq, Repr

/-- The captured work of a harrow command (08_matrix R142-R150). Offsets are scratchpad offsets, one for each step or
row; `va` are the virtual addresses that the log names. -/
inductive HarrowOp where
  | tld (t : Nat) (off : Nat) (ctl : W32)
  | tst (t : Nat) (off : Nat) (va : W64) (ctl : W32)
  | tzero (a : Nat)
  | mma (a ta tb : Nat) (ca cb : W32) (bitsA bitsB : Bitmap)
  | mloop (a ta tb : Nat) (ca cb : W32) (offs : List (Nat × Nat)) (bitsA bitsB : Bitmap)
  | tout (a : Nat) (rows : List (W64 × Nat)) (cols ty rm : Nat) (s : Bool) (fpctl : W32)
  deriving DecidableEq, Repr

/-- A harrow command with its resumable step counter and block (R18, R154), the log entries that its rows have still to append, which its
issue reserved (R355), where it was issued, and since when its step is withheld (R257). -/
structure HarrowCommand where
  unit : UnitId
  op : HarrowOp
  step : Nat
  blk : Nat
  win : W32
  retireId : Option Nat
  satSlice : Nat
  pc : W64
  room : Nat
  withheld : Option Nat
  deriving DecidableEq, Repr

/-- Power state of a core (R260). -/
inductive Power where
  | on
  | window (start : Nat)
  | off
  | rising (ready : Nat)
  deriving DecidableEq, Repr

/-- A core: tiles by byte, accumulators by element, tile control, full/empty and poison bits (R363), engine queues (R18, R31),
the tick at which its harrow last started a K-step (R257). Element i x 32 + j of an accumulator is row i, column j; unlisted elements are
the zero word. -/
structure Core where
  num : Nat
  tiles : Vector Mem 8
  tctl : Vector W32 8
  tFull : Byte
  tLost : Byte
  accs : Vector (List (Nat × Acc)) 4
  aFull : BitVec 4
  aLost : BitVec 4
  sluice : List SluiceCommand
  harrow : List HarrowCommand
  stepped : Option Nat
  lastCtx : Option Nat
  power : Power
  deriving DecidableEq, Repr

/-! ### The log -/

/-- A log entry (R352) with what the model keeps beside the 32 bytes: a name, the gang id that its gang has now, which a restore may have
changed (`owner`, log entry 9), the core, context, team and ring it belongs to, the
physical word and whether it lies on a direct page, its place in the order of publications and performings once it has one,
and the ring position once spilled. -/
structure LogEntry where
  id : Nat
  va : W64
  lsz : BitVec 2
  eng : BitVec 2
  old : W64
  win : W32
  gang : BitVec 18
  owner : BitVec 18
  kind : BitVec 4
  core : Nat
  ctx : Nat
  team : Nat
  ring : W64
  ringSize : W64
  pa : Nat
  direct : Bool
  order : Option Nat
  edge : Nat
  spilled : Option Nat
  deriving DecidableEq, Repr

/-! ### Launches and teams -/

/-- A launch record (R245), field by field. -/
structure LaunchRec where
  code : W64
  entry : W32
  nteam : Nat
  cores : Nat
  gangs : Nat
  slices : Nat
  set : Nat
  cls : BitVec 2
  prio : Nat
  drift : Nat
  wload : Bool
  groups : W64
  roles : W64
  sched : W64
  nsched : Nat
  args : W64
  logb : W64
  logsz : W64
  logp : W32
  trcb : W64
  gate : W64
  gateval : W64
  done : W64
  deriving DecidableEq, Repr

/-- A member name (R246): kind 0 gang, 1 sluice, 2 harrow. -/
structure MemberName where
  kind : Nat
  ord : Nat
  slot : Nat
  deriving DecidableEq, Repr

/-- An entry of a static copy schedule (R229), as captured. -/
structure ScheduleEntry where
  lrec : W64
  spad : W64
  origin : W64
  shape : BitVec 16
  st : Bool
  ord : Nat
  reservedOk : Bool
  deriving DecidableEq, Repr

/-- An accepted launch (R245-R251, R410). `weights` holds what a weight-load launch has written and not published (R166). -/
structure Launch where
  id : Nat
  queue : Nat
  ctx : Nat
  record : LaunchRec
  seq : W32
  status : Byte
  gateOk : Bool
  placed : Nat
  round : Nat
  tstart : W64
  headSince : Nat
  blocking : Bool
  groups : List (Nat × List MemberName)
  roles : List (Nat × List MemberName)
  sched : List ScheduleEntry
  weights : Overlay
  deriving DecidableEq, Repr

/-- A payload in the hand-over buffer (R262, R289): offset, pass, 32 lanes or one scalar, and who has taken it. -/
structure Handover where
  off : Nat
  pass : Nat
  scalar : W64
  vec : List W32
  toRole : Nat
  taken : List UnitId
  slices : List (UnitId × Nat)
  deriving DecidableEq, Repr

/-- A group barrier (R267, R290): its members, generation in progress, and the members arrived in it. -/
structure GroupState where
  num : Nat
  members : List UnitId
  gen : Nat
  arrived : List UnitId
  deriving DecidableEq, Repr

/-- A team (R24, R250, R261, R268); `stopping` while a hard pre-emption awaits the producers of its registers (R28), `held` while the
debug port keeps it stopped (R411). -/
structure Team where
  id : Nat
  launch : Nat
  index : Nat
  ctx : Nat
  set : Nat
  cores : List Nat
  started : Bool
  roles : List (Nat × List UnitId)
  groups : List GroupState
  hand : List Handover
  cursor : Nat
  softBudget : Option Nat
  stopping : Bool
  held : Bool
  ended : Bool
  deriving DecidableEq, Repr

/-- A team taken off its cores (R252, R350): the team, its members, its cores with their scratchpads and the poisoned offsets in
them, the live masks of gangs saved at a safe point, and whether the distributor took it off at a WBAR (R252). -/
structure SavedTeam where
  team : Team
  units : List Unit
  cores : List (Core × Mem × List Nat)
  soft : List (UnitId × W64 × W64)
  swapped : Bool
  deriving DecidableEq, Repr

/-! ### Contexts, code, host -/

/-- A context (R312, R32, R370, R382). `formOk` is false when a reserved field of its entry is set. -/
structure Context where
  live : Bool
  formOk : Bool
  root : Nat
  linkb : W64
  qmask : W64
  trapbase : W64
  deleg : BitVec 16
  dbgctl : W32
  srseed : W64
  logpol : W32
  logbase : W64
  trcbase : W64
  trstat : W64
  sampk : W64
  brk : BitVec 256
  regions : Vector (Option (BitVec 16)) 16
  deriving DecidableEq, Repr

/-- A loaded code object (R328, R394-R399): handle, image, physical text, role map, the number of its imports, safe points (offset,
live s, live v), the scratchpad image and stack size. -/
structure CodeObject where
  handle : W64
  image : List Byte
  textPa : Nat
  size : Nat
  rolemap : List Byte
  imports : Nat
  safe : List (Nat × W64 × W64)
  spad : List Byte
  stack : Nat
  deriving DecidableEq, Repr

/-- A context's reference to an object (R328-R331): where its text lies, whether it is retiring, its run of link-table entries,
the context's scratchpad window and the scratchpad image with its relocations (R399). -/
structure CodeRef where
  ctx : Nat
  handle : W64
  textVa : W64
  retiring : Bool
  importBase : Nat
  spadVa : W64
  spad : List Byte
  deriving DecidableEq, Repr

/-- An outstanding not-present request (R321). -/
structure FaultRequest where
  ctx : Nat
  page : Nat
  kind : Access
  die : Nat
  deriving DecidableEq, Repr

/-- An outstanding ECALL (R340): the unit and the group's lowest slice, the team and context, the PC, n and s0-s7, and the die. -/
structure EcallRequest where
  unit : UnitId
  team : Nat
  slice : Nat
  ctx : Nat
  pc : W64
  n : BitVec 16
  args : List W64
  die : Nat
  deriving DecidableEq, Repr

/-- A report to the management cores (R310, R343). -/
structure Report where
  unit : UnitId
  cls : Nat
  sub : Nat
  pc : W64
  deriving DecidableEq, Repr

/-- A launch queue descriptor (R408), and by WPTR value the contexts whose teams wrote the records (R311). -/
structure Queue where
  rbase : W64
  nslot : BitVec 16
  ceil : BitVec 3
  ctx : BitVec 6
  opened : Bool
  dev : Bool
  irq : Bool
  cbase : W64
  ncomp : BitVec 16
  wptr : W32
  rptr : W32
  cwptr : W32
  crptr : W32
  dropdb : W32
  askers : List (W32 × Nat)
  deriving DecidableEq, Repr

/-- A peer table entry (R416). -/
structure Peer where
  en : Bool
  sync : Bool
  up : Bool
  ports : BitVec 16
  pkg : BitVec 16
  tmo : BitVec 24
  wbase : W32
  wsize : W32
  deriving DecidableEq, Repr

/-- An operation under way to a peer (R218, R414), with the timeout in force at its issue. -/
structure PeerOp where
  id : Nat
  unit : UnitId
  launch : Nat
  peer : Nat
  pa : Nat
  op : Option (BitVec 4 × BitVec 3)
  bytes : List Byte
  data : W64
  issued : W64
  tmo : Nat
  deriving DecidableEq, Repr

/-- A condition monitor (R165): the cluster that holds it, the watched word, the slice that placed it. -/
structure Monitor where
  cluster : Nat
  word : Nat
  unit : UnitId
  slice : Nat
  deriving DecidableEq, Repr

/-- An image slot of the flash (R6). -/
structure ImageSlot where
  seq : W32
  crc : W32
  body : ImageBody
  deriving DecidableEq, Repr

/-- PKGSTAT (R407). -/
inductive PkgStat where
  | running | resetHold | thermalOff | thermalHold
  deriving DecidableEq, Repr

/-- Counts of one cluster since reset, from which the latches take their intervals (R417): instructions issued, of all contexts
and by context, the energy measured, and the rest of a counter record. -/
structure ClusterCounts where
  issued : Nat
  byCtx : List (Nat × Nat)
  stall : Nat
  wait : Nat
  ksteps : Nat
  rows : Nat
  energy : Nat
  corr : Nat
  deriving DecidableEq, Repr

/-- How a load of a code object ends (R329). -/
inductive LoadStatus where
  | ok | shared | revived | roleMapMismatch | imageForm | noSpace
  deriving DecidableEq, Repr

/-- The group that issues next: its unit, its slices in increasing order, and the words fetched for it. -/
structure Focus where
  unit : UnitId
  slices : List Nat
  word0 : W32
  word1 : W32
  deriving DecidableEq, Repr

/-- The package. `agenda` lists the steps of the device still to happen, `focus` the group that issues next, `ports` the
further groups granted in the same cycle, `links` the trained ports with the packages behind them, `c3from` the classes of
clusters before C3, `debugS` whether S gave the debug command under way, `rfForce` each die's RFSCHED and RFPHASE in force and `refresh` the open refresh windows with their first ticks (R166, R337), `ringsLost` the rings
(context and LOGBASE) that a spill has found unusable (R333),
`latches` the counts of a cluster at a context's last latch, `lastLatch` and `lastCompare` the ticks of the last latch and of each die's last
comparison of heat, `loadEnd` the last load's end, `msix` the vectors raised at the host, `turn` the queue whose head the distributor considers first, `nonce`
and `nextId` count the free values read and the names given (the model's own fields, log entries 1 and 5). -/
structure State where
  gtick : W64
  pkgstat : PkgStat
  images : Vector ImageSlot 2
  loaded : Option (Fin 2)
  pkgId : BitVec 16
  defective : List Nat
  pools : List (BitVec 2)
  poolChange : List (Nat × Nat)
  budgets : List (W32 × W32)
  allowance : List Int
  temps : List Int
  warnMark : BitVec 16
  critMark : BitVec 16
  c3dies : List Nat
  c3from : List (Nat × BitVec 2)
  coolSince : List (Nat × Nat)
  critical : Option Nat
  corr : List (Nat × W32)
  peers : List Peer
  links : List (Nat × BitVec 16)
  peerOps : List PeerOp
  queues : List Queue
  ctxtab : W64
  contexts : List Context
  rfsched : List W64
  rfphase : List W64
  rfForce : List (W64 × W64)
  refresh : List (Nat × Nat)
  tlb : List (TlbPlace × TlbEntry)
  requests : List FaultRequest
  ecalls : List EcallRequest
  reports : List Report
  monitors : List Monitor
  objects : List CodeObject
  refs : List CodeRef
  loadEnd : Option (Nat × LoadStatus × W64)
  launches : List Launch
  teams : List Team
  saved : List SavedTeam
  units : List Unit
  cores : List Core
  log : List LogEntry
  ringsLost : List (Nat × W64)
  debugCmd : BitVec 512
  debugS : Bool
  counts : List (Nat × ClusterCounts)
  latches : List (Nat × Nat × ClusterCounts)
  lastLatch : W64
  lastCompare : List Nat
  msix : List Nat
  turn : Nat
  mem : Mem
  poison : List Nat
  agenda : List Instr
  focus : Option Focus
  ports : List Focus
  nonce : Nat
  nextId : Nat
  deriving DecidableEq, Repr

/-! ### How a step can end -/

/-- Faults of the model. -/
inductive Fault where
  /-- Raised by the meaning of a program instruction when no unit is issuing (State.focus names no resident unit with a
  slice): nothing fetched the instruction, so nothing executes. `step` never calls a meaning so. Safe. -/
  | noIssuer
  deriving DecidableEq, Repr

/-- Refusals of the model. -/
inductive Refusal where
  /-- Raised by an arm of `exec` for an instruction without a meaning yet. Safe. -/
  | notModelled (mnemonic : String)
  deriving DecidableEq, Repr

/-! ### Reset -/

/-- An image slot as the flash holds it before anything is installed (log entry 2): no contents, whose seal is the
CRC-32C of nothing. -/
def ImageSlot.blank : ImageSlot :=
  { seq := 0, crc := 0
    body := { bytes := [], wlen := 0, period := 0, warnMark := 1520, critMark := 1680, pkg := 0 } }

/-- A context that does not exist (R312). -/
def Context.blank : Context :=
  { live := false, formOk := true, root := 0, linkb := 0, qmask := 0, trapbase := 0, deleg := 0, dbgctl := 0
    srseed := 0, logpol := 0, logbase := 0, trcbase := 0, trstat := 0, sampk := 10, brk := 0
    regions := Vector.replicate 16 none }

/-- A closed queue (R408). -/
def Queue.blank : Queue :=
  { rbase := 0, nslot := 0, ceil := 0, ctx := 0, opened := false, dev := false, irq := false, cbase := 0, ncomp := 0
    wptr := 0, rptr := 0, cwptr := 0, crptr := 0, dropdb := 0, askers := [] }

/-- A peer table entry at reset (R416): TMO 6,000. -/
def Peer.blank : Peer :=
  { en := false, sync := false, up := false, ports := 0, pkg := 0, tmo := 6000, wbase := 0, wsize := 0 }

/-- The package right after reset: GTICK 0, nothing launched, the image not yet loaded; the first step is RESET_RELEASE
(R6, R8). Values that the spec does not give are named in log entries 2 to 5. -/
def State.reset : State :=
  { gtick := 0, pkgstat := .running, images := Vector.replicate 2 .blank, loaded := none, pkgId := 0
    defective := [], pools := List.replicate 128 1, poolChange := [], budgets := List.replicate 4 (0, 0)
    allowance := List.replicate 128 0, temps := List.replicate 16 0, warnMark := 1520, critMark := 1680
    c3dies := [], c3from := [], coolSince := [], critical := none, corr := [], peers := List.replicate 64 .blank, links := [], peerOps := []
    queues := List.replicate 64 .blank, ctxtab := 0, contexts := List.replicate 64 .blank
    rfsched := List.replicate 16 0, rfphase := List.replicate 16 0, rfForce := List.replicate 16 (0, 0), refresh := [], tlb := [], requests := []
    ecalls := [], reports := [], monitors := [], objects := [], refs := [], loadEnd := none, launches := []
    teams := [], saved := [], units := [], cores := [], log := [], ringsLost := [], debugCmd := 0, debugS := false, counts := [], latches := [], lastLatch := 0, lastCompare := List.replicate 16 0, msix := [], turn := 0, mem := []
    poison := [], agenda := [.resetRelease], focus := none, ports := [], nonce := 0, nextId := 0 }

end Sys2Proof.Machine
end

