-- ==== Sys2Proof/WellFormed.lean ====
section
/-! DEFINITION. Which field values an instruction's entry accepts (04_encoding R41, R52 step 5, R54), row by row
from the tables of R95-R102, R110, R115, R117, R125, R129, R141, R202, R227, R275, R336 and R368, and the register
pairing of R19. -/

namespace Sys2Proof

/-- A decoded instruction with the rest of its first and long word (R40, R43): ROLE, the hints H and XH, and
whether a long word follows. -/
structure Decoded where
  role : BitVec 3
  h : Bool
  xh : BitVec 4
  long : Bool
  instr : Instr
  deriving DecidableEq, Repr

namespace WellFormed

/-- Integer T codes, the default (i32) included (R95). -/
def intT : TCode → Bool
  | .dflt | .i32 | .n32 | .i16 | .n16 | .i8 | .n8 | .i64 | .n64 => true
  | _ => false
/-- Arithmetic float T codes without the default. -/
def floatT : TCode → Bool
  | .f32 | .f16 | .bf16 | .f64 => true
  | _ => false
/-- T codes of 64 bits (R19). -/
def wideT : TCode → Bool
  | .f64 | .i64 | .n64 => true
  | _ => false
/-- The element type that a 4-bit code names (R44). -/
def tOfBits (c : BitVec 4) : TCode :=
  match c.toNat with
  | 1 => .f32 | 2 => .f16 | 3 => .bf16 | 4 => .f64 | 5 => .i32 | 6 => .n32 | 7 => .i16 | 8 => .n16
  | 9 => .i8 | 10 => .n8 | 11 => .i64 | 12 => .n64 | 13 => .e4m3 | 14 => .e5m2 | 15 => .e2m1 | _ => .dflt
/-- FCVT's set (R102). -/
def cvtT : TCode → Bool
  | .f32 | .f16 | .bf16 | .f64 | .e4m3 | .e5m2 | .e2m1 => true
  | _ => false
/-- RM 0-5 (R45). -/
def rmAny : RmCode → Bool
  | .dyn | .rne | .rtz | .rup | .rdn | .rna => true
  | _ => false
/-- An even register number (R19). -/
def even (r : Reg) : Bool := r.toNat % 2 == 0

/-! The parts of a numeric format W instruction that an entry may leave unused. -/
def noD (o : WArgs) : Bool := o.d == 0
def noA (o : WArgs) : Bool := o.a == 0 && !o.fa
def noB (o : WArgs) : Bool := o.b == 0 && !o.fb
def noLong (o : WArgs) : Bool := o.imm == 0 && o.sec == 0 && o.xf == 0
/-- XF holds KM alone (R46). -/
def kmOnly (xf : BitVec 4) : Bool := xf.toNat < 8

/-- Scalar integer (R96); `u` and `sat` say whether the row has those forms, `cc` whether it has COND. -/
def scalar (u sat cc : Bool) (o : WArgs) : Bool :=
  let ib := o.xf == 8
  (ib || o.xf == 0) && (if ib then noB o else o.imm == 0)
    && (if cc then (o.sec &&& 0x0F).toNat ≤ 5 else (o.sec &&& 0x0F) == 0)
    && (u || !o.sec.getLsbD 4) && (sat || !o.sec.getLsbD 5) && o.sec.toNat < 64

/-- Vector integer (R95, R98); `unary`, `s`, `c` as in the rows, `sec` the largest SEC value. -/
def vint (unary s c : Bool) (sec : Nat) (o : PArgs) : Bool :=
  intT o.t && o.rm == .dyn && (s || !o.s) && (c || o.c == 0) && o.x == 0 && o.sec.toNat ≤ sec && kmOnly o.xf
    && (!unary || (o.b == 0 && !o.fb))
/-- Vector float (R95, R100). -/
def vfloat (unary rm s c : Bool) (sec : Nat) (o : PArgs) : Bool :=
  (floatT o.t || o.t == .dflt) && (if rm then rmAny o.rm else o.rm == .dyn) && (s || !o.s) && (c || o.c == 0)
    && o.x == 0 && o.sec.toNat ≤ sec && kmOnly o.xf && (!unary || (o.b == 0 && !o.fb))
/-- Fields common to the four conversions (R102); BFPACK's B names a scalar. -/
def conv (b : Bool) (o : PArgs) : Bool :=
  o.c == 0 && o.x == 0 && kmOnly o.xf && (b || (o.b == 0 && !o.fb))
/-- The source type that a conversion's SEC[3:0] names. -/
def convSrc (o : PArgs) : TCode := tOfBits (o.sec.setWidth 4)
/-- SFU (R106). -/
def sfu (o : PArgs) : Bool :=
  (o.t == .dflt || o.t == .f32 || o.t == .f16 || o.t == .bf16) && o.rm == .dyn && o.c == 0 && o.x == 0
    && o.sec == 0 && kmOnly o.xf && o.b == 0 && !o.fb
/-- Cross-lane without a tree (R110). -/
def cross (b : Bool) (o : PArgs) : Bool :=
  (intT o.t || floatT o.t) && o.rm == .dyn && !o.s && o.c == 0 && o.x == 0 && o.sec == 0 && kmOnly o.xf
    && (b || (o.b == 0 && !o.fb))
/-- Tree instructions (R110): SEC[3:0] is op, `ex` allows SEC[4]. -/
def tree (b ex : Bool) (o : PArgs) : Bool :=
  let op := (o.sec &&& 0x0F).toNat
  (if floatT o.t then op ≤ 2 else intT o.t && op ≤ 5)
    && (if floatT o.t && op == 0 then rmAny o.rm else o.rm == .dyn)
    && (!o.s || (op == 0 && intT o.t)) && o.c == 0 && o.x == 0 && kmOnly o.xf
    && (o.sec &&& 0xE0) == 0 && (ex || !o.sec.getLsbD 4) && (b || (o.b == 0 && !o.fb))

/-- The SW code of a scalar access (R202). -/
def swStore (c : BitVec 8) : Bool := c.toNat == 0 || c.toNat == 2 || c.toNat == 4 || c.toNat == 6
/-- An atomic's TY and ATOM fields (R202): OP, RET, ORD, and the operations that a float TY accepts. -/
def atom (imm : BitVec 16) (sec : BitVec 8) (cas ret : Bool) : Bool :=
  let ty := (imm >>> 7 &&& 7).toNat
  let op := (sec &&& 0x0F).toNat
  ty ≤ 6 && op ≤ 7 && (imm &&& 0x7F) == 0 && !sec.getLsbD 7 && (cas || op ≠ 7) && (ret || !sec.getLsbD 4)
    && (ty < 4 || op == 0 || op == 1 || op == 2 || op == 6)
/-- TY of 64 bits: n64, i64, f64 (R202). -/
def wideTy (imm : BitVec 16) : Bool := let ty := (imm >>> 7 &&& 7).toNat; ty == 0 || ty == 1 || ty == 4
/-- Bytes of an atomic element of type TY (R202). -/
def tySize (ty : Nat) : Nat := if ty == 0 || ty == 1 || ty == 4 then 8 else if ty == 6 then 2 else 4

/-- The numbers of the system registers (R32). -/
def sysNumber (n : Nat) : Bool :=
  n ≤ 6 || (8 ≤ n && n ≤ 15) || n == 0x20 || n == 0x21 || n == 0x30 || n == 0x31 || n == 0x32 || n == 0x40
    || n == 0x41 || n == 0x42 || n == 0x50 || n == 0x51 || n == 0x52
/-- The context-held ones, which CTX reaches (R338). -/
def ctxNumber (n : Nat) : Bool :=
  n == 5 || n == 0x31 || n == 0x32 || n == 0x40 || n == 0x41 || n == 0x42 || n == 0x50 || n == 0x51 || n == 0x52

/-- A field that names one of `n` registers (R41). -/
def below (r : Reg) (n : Nat) : Bool := r.toNat < n

/-- R52 step 5 without the pairing of R19: the entry accepts every field. FA = 1 on VMOV with STREAM, whose A is a w register and has no
full/empty bit, is not accepted (DESIGN CHOICE, log entry 8). Steps of the device have no encoding. -/
def fieldsOk : Instr → Bool
  | .sadd o | .ssub o | .smul o => scalar true true false o
  | .smulh o | .sdiv o | .srem o | .smin o | .smax o => scalar true false false o
  | .sand o | .sor o | .sxor o | .sshl o | .sshr o | .ssra o => scalar false false false o
  | .sset o => scalar true false true o
  | .sli o => o.a == 0 && o.sec.toNat < 4 && o.xf == 0
  | .sliIns o => 4 ≤ o.sec.toNat && o.sec.toNat < 8 && o.xf == 0
  | .vadd o | .vsub o | .vmul o => vint false true false 0 o
  | .vmulh o | .vand o | .vor o | .vxor o | .vshl o | .vshr o | .vsra o | .vmin o | .vmax o =>
    vint false false false 0 o
  | .vmad o => vint false true true 0 o
  | .vabs o => vint true true false 0 o
  | .vclz o | .vpopc o => vint true false false 0 o
  | .vcmp o => vint false false false 5 o && below o.d 8
  | .vsel o => vint false false false 7 o
  | .fadd o | .fsub o | .fmul o | .fscale o => vfloat false true true false 0 o
  | .ffma o => vfloat false true true true 0 o
  | .fmin o | .fmax o => vfloat false true false false 0 o
  | .fsgn o => vfloat false false false false 2 o
  | .fcmp o => vfloat false false false false 7 o && below o.d 8
  | .fclass o => vfloat true false false false 0 o
  | .frint o => vfloat true true false false 0 o
  | .fcvt o => conv false o && cvtT o.t && o.rm != .reserved
      && (o.sec == 0x10 || (o.sec.toNat < 16 && cvtT (convSrc o)))
  | .fcvti o => conv false o && intT o.t && o.t != .dflt && rmAny o.rm && !o.s && o.sec.toNat < 16
      && floatT (convSrc o)
  | .icvtf o => conv false o && floatT o.t && rmAny o.rm && o.sec.toNat < 16 && intT (convSrc o)
      && convSrc o != .dflt
  | .bfpack o => conv true o && (o.t == .f32 || o.t == .f16 || o.t == .bf16) && o.rm == .dyn && !o.s
      && 2 ≤ o.sec.toNat && o.sec.toNat ≤ 8
  | .frcp o | .frsq o | .fsqrt o | .fexp2 o | .flog2 o | .fsin o | .fcos o | .ftanh o | .fsigm o | .ferf o => sfu o
  | .vshuf o | .vbcast o => cross true o
  | .vconf o | .vcmprs o | .vexpnd o => cross false o
  | .vred o => tree false false o
  | .vscan o => tree false true o
  | .vcomb o => tree true false o
  | .vmov o => noB o && o.imm == 0 && (o.sec == 0 || o.sec == 2) && kmOnly o.xf
  | .vmovStream o => noB o && o.imm == 0 && o.sec == 1 && kmOnly o.xf && below o.a 16 && !o.fa
  | .vsplat o => noB o && o.sec.toNat < 4
      && (if o.xf.getLsbD 3 then noA o else o.imm == 0 && !o.sec.getLsbD 0)
  | .vextr o => (o.sec == 0 || o.sec == 2) && (if o.xf.getLsbD 3 then noB o else o.imm == 0)
  | .vlane o => noA o && noB o && o.imm == 0 && o.sec == 0 && kmOnly o.xf
  | .xv o => (o.t == .dflt || o.t == .f32 || o.t == .f16 || o.t == .i32) && rmAny o.rm && o.c == 0 && o.x == 0
      && o.sec == 0 && kmOnly o.xf && o.b == 0 && !o.fb
  | .xpush o => noD o && noB o && o.imm == 0 && o.sec == 0 && kmOnly o.xf
  | .xpop o | .xdepth o => noA o && noB o && o.imm == 0 && o.sec == 0 && kmOnly o.xf
  | .xpeek o => noA o && below o.b 8 && !o.fb && o.imm == 0 && o.sec == 0 && kmOnly o.xf
  | .xclr o => noD o && noA o && noB o && o.imm == 0 && o.sec == 0 && kmOnly o.xf
  | .tcfg o =>
    let rows := (o.imm >>> 9).toNat
    let cols := (o.imm >>> 2 &&& 0x7F).toNat
    below o.d 8 && noB o && o.xf == 0 && o.sec.toNat ≤ 8 && (o.imm &&& 3) == 0
      && 1 ≤ rows && rows ≤ 64 && 1 ≤ cols && cols ≤ 64
      && rows * cols * (if o.sec.toNat < 2 then 2 else 1) ≤ 8192 && (2 ≤ o.sec.toNat || noA o)
  | .tld o | .tst o => below o.d 8 && noB o && o.sec == 0 && o.xf == 0
  | .tzero o => below o.d 4 && noA o && noB o && noLong o
  | .mma o => below o.d 4 && below o.a 8 && below o.b 8 && noLong o
  | .mloop o => !o.d.getLsbD 2 && !o.xf.getLsbD 3
  | .mspan o => noD o && noA o && noB o && o.sec == 0 && o.xf == 0 && (o.imm &&& 0x0380) == 0
  | .mspanSelf o => noD o && noA o && noB o && o.sec == 0 && o.xf == 1 && o.imm == 0
  | .tbitsNone o => noD o && noA o && noB o && o.imm == 0 && o.sec.toNat < 2 && o.xf == 0
  | .tbitsSeed o => noD o && (o.sec >>> 1) == 1 && o.xf == 0
  | .tbitsTile o => below o.d 8 && noA o && noB o && o.imm == 0 && (o.sec >>> 1) == 2 && o.xf == 0
  | .tout o => below o.d 4 && (o.imm >>> 12).toNat ≤ 3 && (o.imm >>> 9 &&& 7).toNat ≤ 5 && (o.imm &&& 3) == 0
      && o.sec.toNat < 32 && o.xf == 0
  | .sld o => o.sec.toNat ≤ 6 && o.xf == 0
  | .sst o => swStore o.sec && o.xf == 0
  | .vld o => o.sec.toNat < 8 && kmOnly o.xf && (!o.sec.getLsbD 2 || o.sec == 5 || o.sec == 6)
  | .vst o => o.sec.toNat < 4 && kmOnly o.xf
  | .vldg o => (o.imm &&& 0x7F) == 0 && o.sec == 0 && kmOnly o.xf
      && (!o.imm.getLsbD 7 || (o.imm >>> 8 &&& 3) == 1 || (o.imm >>> 8 &&& 3) == 2)
  | .vstg o => (o.imm &&& 0xFF) == 0 && o.sec == 0 && kmOnly o.xf
  | .vatom o => atom o.imm o.sec true true && o.imm.toNat < 1024 && kmOnly o.xf
      && ((o.sec &&& 0x0F) == 7 || noB o)
  | .satom o => atom o.imm o.sec true false && ((o.sec &&& 0x0F) == 7 || o.imm.toNat < 1024) && o.xf == 0
  | .gatom o => atom o.imm o.sec false true && kmOnly o.xf
  | .phase o | .fence o => noD o && noA o && noB o && noLong o
  | .waitc o => below o.d 4 && o.a == 0 && o.imm.toNat ≤ 255 && o.sec == 0 && o.xf == 0
  | .mwait o => o.imm == 0 && (o.sec &&& 0x0F).toNat ≤ 5 && o.sec.toNat < 64 && o.xf == 0
  | .pst o => noB o && swStore o.sec && o.xf == 0
  | .patom o => noD o && atom o.imm o.sec false false && o.imm.toNat < 1024 && !o.sec.getLsbD 6 && o.xf == 0
  | .pref o => o.d == 0 && o.sec == 0 && o.xf == 0
  | .cpLd o => o.sec == 0 && (o.imm &&& 0x0F).toNat ≤ 3 && (o.xf &&& 7) == 0
  | .cpSt o => o.sec == 1 && (o.imm &&& 0x0F) == 0 && (o.xf &&& 7) == 0
  | .cpx o => o.sec.toNat < 2 && o.imm.toNat % 4 == 0 && 4 ≤ o.imm.toNat
  | .cps o => o.sec == 0 && o.imm.toNat % 4 == 0 && 4 ≤ o.imm.toNat
  | .cpred o =>
    let ty := (o.sec >>> 4).toNat
    (o.sec &&& 0x0F).toNat ≤ 2 && ty ≤ 6 && o.imm.toNat % 4 == 0 && 4 ≤ o.imm.toNat && o.imm.toNat % tySize ty == 0
  | .cpconv o => o.sec.toNat < 2 && (o.xf &&& 7) == 0
  | .cpstage o => noD o && noA o && noB o && o.imm == 0 && o.sec == 0 && (o.xf &&& 7) == 0
  | .chwait o => noB o && o.imm.toNat ≤ 4095 && o.sec == 0 && o.xf == 0
  | .chrel o => noD o && noB o && o.imm.toNat ≤ 4095 && o.sec == 0 && o.xf == 0
  | .rowbar o => noD o && noLong o
  | .moedisp o => o.imm == 0 && o.sec == 0
  | .kst o | .qsig o => o.imm == 0 && o.sec == 0 && (o.xf &&& 7) == 0
  | .bgather o => o.imm.toNat < 64 && o.sec.toNat < 4 && (o.xf &&& 7) == 0
  | .br _ | .loope _ | .call _ => true
  | .brc o => (o.d &&& 7).toNat ≤ 5 && o.d.toNat < 16 && o.sec == 0 && o.xf == 0
  | .brv o => below o.d 8 && o.a == 0 && o.sec == 0 && o.xf == 0
  | .join o => noD o && noA o && noB o && noLong o
  | .loopb o => o.d == 0 && o.a == 0 && o.sec == 0 && o.xf == 0
  | .brk o => below o.d 8 && o.a == 0 && o.imm == 0 && o.sec == 0 && o.xf == 0
  | .calli o => noD o && noB o && o.imm == 0 && o.sec == 0 && kmOnly o.xf
  | .ret o => noD o && noB o && noLong o
  | .exit o | .nop o => noD o && noA o && noB o && noLong o
  | .brw o => below o.d 16 && o.imm.toNat ≤ 2 && o.sec == 0x00 && o.xf == 0
  | .wbind o => below o.d 16 && noB o && o.sec == 0x01 && o.xf == 0
  | .regang o => noD o && noA o && noB o && o.imm == 0 && o.sec == 0x02 && o.xf == 0
  | .hand o => noA o && noB o && o.sec == 0x03 && o.xf == 0 && o.imm.toNat < 128 && (o.imm &&& 7) != 0
      && (o.imm >>> 3 &&& 7) != 0 && (o.imm &&& 7) != (o.imm >>> 3 &&& 7)
  | .bara o => noD o && noA o && noB o && o.imm.toNat < 256 && o.sec == 0x04 && o.xf == 0
  | .barw o => noD o && noA o && noB o && o.imm.toNat < 256 && o.sec == 0x05 && o.xf == 0
  | .wbar o => noD o && noA o && noB o && o.imm == 0 && o.sec == 0x06 && o.xf == 0
  | .tickw o => noD o && noB o && o.imm == 0 && o.sec == 0x07 && o.xf == 0
  | .setpl o => noD o && noB o && o.imm == 0 && o.sec == 0x08 && o.xf == 0
  | .launch o => noB o && o.imm.toNat < 64 && o.sec == 0x09 && o.xf == 0
  | .kand o => below o.d 8 && below o.a 8 && below o.b 8 && !o.fa && !o.fb && o.imm == 0 && o.sec == 0x0A && o.xf == 0
  | .kor o => below o.d 8 && below o.a 8 && below o.b 8 && !o.fa && !o.fb && o.imm == 0 && o.sec == 0x0B && o.xf == 0
  | .kxor o => below o.d 8 && below o.a 8 && below o.b 8 && !o.fa && !o.fb && o.imm == 0 && o.sec == 0x0C && o.xf == 0
  | .knot o => below o.d 8 && below o.a 8 && !o.fa && noB o && o.imm == 0 && o.sec == 0x0D && o.xf == 0
  | .kmov o => noB o && o.sec == 0x0E &&
      (if o.xf == 0 then below o.d 8 && below o.a 8 && !o.fa && o.imm == 0
       else if o.xf == 8 || o.xf == 12 then below o.d 8 && noA o
       else if o.xf == 2 then below o.d 8 && o.imm == 0
       else if o.xf == 1 then below o.a 8 && !o.fa && o.imm == 0
       else false)
  | .kpop o => below o.a 8 && !o.fa && noB o && o.imm == 0 && o.sec == 0x0F && o.xf == 0
  | .fdiv o => (floatT o.t || o.t == .dflt) && rmAny o.rm && o.c == 0 && o.x == 0 && o.sec == 0x10 && kmOnly o.xf
  | .vdiv o => intT o.t && o.rm == .dyn && o.c == 0 && o.x.toNat < 2 && o.sec == 0x11 && kmOnly o.xf
  | .sysr o => noA o && noB o && sysNumber o.imm.toNat && o.sec == 0x12 && o.xf == 0
  | .sysrCtx o => noA o && ctxNumber o.imm.toNat && o.sec == 0x12 && o.xf == 1
  | .sysw o => noD o && noB o && sysNumber o.imm.toNat && o.sec == 0x13 && o.xf == 0
  | .syswCtx o => noD o && ctxNumber o.imm.toNat && o.sec == 0x13 && o.xf == 1
  | .tlbinvPage o => noD o && o.imm == 0 && o.sec == 0x14 && o.xf == 0
  | .tlbinvCtx o => noD o && noB o && o.imm == 1 && o.sec == 0x14 && o.xf == 0
  | .tlbinvAll o => noD o && noA o && noB o && o.imm == 2 && o.sec == 0x14 && o.xf == 0
  | .ecall o => noD o && noA o && noB o && o.sec == 0x15 && o.xf == 0
  | .flushw o => noD o && noA o && noB o && o.imm == 0 && o.sec == 0x16 && o.xf == 0
  | .trap o => noD o && noA o && noB o && o.imm.toNat < 256 && o.sec == 0x17 && o.xf == 0
  | .tretNext o => noD o && noA o && noB o && o.imm == 0 && o.sec == 0x18 && o.xf == 0
  | .tretReplay o => noD o && noA o && noB o && o.imm == 1 && o.sec == 0x18 && o.xf == 0
  | .tretReex o => noD o && noA o && noB o && o.imm == 2 && o.sec == 0x18 && o.xf == 0
  | .laneinfo o => noA o && noB o && o.imm.toNat ≤ 6 && o.sec == 0x19 && o.xf == 0
  | .laneinfoV o => noA o && noB o && o.imm == 16 && o.sec == 0x19 && kmOnly o.xf
  | .laneinfoClr o => noD o && noB o && o.imm == 32 && o.sec == 0x19 && o.xf == 0
  | .vrdn o => noB o && o.imm.toNat < 4 && o.sec == 0x1A && (if o.imm.getLsbD 0 then o.xf == 0 else kmOnly o.xf)
  | .vwrn o => noD o && o.imm.toNat < 4 && o.sec == 0x1B && (if o.imm.getLsbD 0 then o.xf == 0 else kmOnly o.xf)
  | .wmark o => noD o && noA o && noB o && o.imm == 0 && o.sec == 0x1C && o.xf == 0
  | .wmarkDrop o => noD o && noB o && o.imm == 1 && o.sec == 0x1C && o.xf == 0
  | .undo o => o.imm == 0 && o.sec == 0x1D && o.xf == 0
  | .undoTeam o => o.imm == 1 && o.sec == 0x1D && o.xf == 0
  | .tbegin o => noD o && noA o && noB o && o.sec == 0x1E && o.xf == 0
  | .tcommit o => noD o && noA o && noB o && o.imm == 0 && o.sec == 0x1F && o.xf == 0
  | .tabort o => noD o && noA o && noB o && o.sec == 0x20 && o.xf == 0
  | .brkpt o => noD o && noA o && noB o && o.imm.toNat < 256 && o.sec == 0x21 && o.xf == 0
  | .rgne o => noD o && noA o && noB o && o.sec == 0x22 && o.xf == 0
  | .rgnl o => noD o && noA o && noB o && o.imm == 0 && o.sec == 0x23 && o.xf == 0
  | _ => false

/-- The pairing of R19: every vector field that holds a 64-bit value names an even register. -/
def pairsOk : Instr → Bool
  | .vadd o | .vsub o | .vmul o | .vmulh o | .vmad o | .vand o | .vor o | .vxor o | .vshl o | .vshr o | .vsra o
  | .vmin o | .vmax o | .vabs o | .vclz o | .vpopc o | .vsel o | .fadd o | .fsub o | .fmul o | .ffma o | .fmin o
  | .fmax o | .fsgn o | .frint o | .vcomb o | .fdiv o | .vdiv o =>
    !wideT o.t || (even o.d && even o.a && even o.b && even o.c)
  | .vcmp o | .fcmp o => !wideT o.t || (even o.a && even o.b)
  | .fclass o | .vconf o => !wideT o.t || even o.a
  | .fscale o | .vshuf o | .vbcast o | .vred o | .vscan o | .vcmprs o | .vexpnd o =>
    !wideT o.t || (even o.d && even o.a)
  | .fcvt o | .fcvti o | .icvtf o =>
    (!wideT o.t || even o.d) && (o.sec == 0x10 || !wideT (convSrc o) || even o.a)
  | .vmov o => o.sec != 2 || (even o.d && even o.a)
  | .vsplat o => !o.sec.getLsbD 1 || even o.d
  | .vextr o => o.sec != 2 || even o.a
  | .vld o | .vst o => (o.sec &&& 3) != 3 || even o.d
  | .vldg o | .vstg o => (o.imm >>> 8 &&& 3) != 3 || even o.d
  | .vatom o => !wideTy o.imm || (even o.d && even o.b)
  | .gatom o => !wideTy o.imm || even o.d
  | .vrdn o => o.imm != 2 || even o.d
  | .vwrn o => o.imm != 2 || even o.b
  | _ => true

/-- The rows that the map marks long-only (R49); the escape page is always long (R50). -/
def longOnly : Instr → Bool
  | .sliIns _ | .vmad _ | .ffma _ | .fcvt _ | .fcvti _ | .icvtf _ | .bfpack _ | .vmovStream _ | .tcfg _ | .tld _ | .tst _ | .mma _
  | .mloop _ | .mspan _ | .mspanSelf _ | .tbitsNone _ | .tbitsSeed _ | .tbitsTile _ | .tout _ | .vldg _ | .vstg _
  | .vatom _ | .gatom _ | .pst _ | .patom _ | .cpLd _ | .cpSt _ | .cpx _ | .cps _ | .cpred _ | .cpconv _
  | .cpstage _ | .moedisp _ | .kst _ | .qsig _ | .bgather _ | .brw _ | .wbind _ | .regang _ | .hand _ | .bara _
  | .barw _ | .wbar _ | .tickw _ | .setpl _ | .launch _ | .kand _ | .kor _ | .kxor _ | .knot _ | .kmov _ | .kpop _
  | .fdiv _ | .vdiv _ | .sysr _ | .sysrCtx _ | .sysw _ | .syswCtx _ | .tlbinvPage _ | .tlbinvCtx _ | .tlbinvAll _
  | .ecall _ | .flushw _ | .trap _ | .tretNext _ | .tretReplay _ | .tretReex _ | .laneinfo _ | .laneinfoV _
  | .laneinfoClr _ | .vrdn _ | .vwrn _ | .wmark _ | .wmarkDrop _ | .undo _ | .undoTeam _ | .tbegin _ | .tcommit _
  | .tabort _ | .brkpt _ | .rgne _ | .rgnl _ => true
  | _ => false

/-- HAND and the barriers carry ROLE 0 (R275). -/
def roleOk (role : BitVec 3) : Instr → Bool
  | .hand _ | .bara _ | .barw _ | .wbar _ => role == 0
  | _ => true

end WellFormed
end Sys2Proof
end

