-- ==== Sys2Proof/Machine/Regs.lean ====
section
/-! DEFINITION. Access to the registers of slices, to units, cores, teams, launches and contexts (03_state R18-R27). -/

namespace Sys2Proof.Machine

theorem reg_lt (r : Reg) : r.toNat < 64 := r.isLt

/-- Four lanes from a function. -/
def vec4 {α : Type} (f : Fin 4 → α) : Vector α 4 := #v[f 0, f 1, f 2, f 3]

/-- Width in bits of an element type (R93). -/
def widthOf : TCode → Nat
  | .f64 | .i64 | .n64 => 64
  | .f16 | .bf16 | .i16 | .n16 => 16
  | .i8 | .n8 | .e4m3 | .e5m2 => 8
  | .e2m1 => 4
  | _ => 32

/-- Signed integer types; the default of integer groups is i32. -/
def signedT : TCode → Bool
  | .i8 | .i16 | .i32 | .i64 | .dflt => true
  | _ => false

/-! ### Slices -/

namespace Slice

/-- A scalar register; s63 reads zero (R20). -/
def getS (t : Slice) (r : Reg) : W64 := if r = 63#6 then 0 else t.s[r.toNat]'(reg_lt r)
/-- A scalar register written; a write to s63 is discarded (R20). -/
def putS (t : Slice) (r : Reg) (x : W64) : Slice :=
  if r = 63#6 then t else { t with s := t.s.set r.toNat x (reg_lt r) }
/-- The full/empty bit of a scalar; s63 is always full (R20). -/
def fullS (t : Slice) (r : Reg) : Bool := r == 63#6 || t.sFull.getLsbD r.toNat
def emptyS (t : Slice) (r : Reg) : Slice :=
  if r = 63#6 then t else { t with sFull := t.sFull &&& ~~~(1#64 <<< r.toNat) }
def fillS (t : Slice) (r : Reg) : Slice := { t with sFull := t.sFull ||| 1#64 <<< r.toNat }

/-- A lane of a vector register. -/
def getV (t : Slice) (r : Reg) (l : Fin 4) : W32 := (t.v[r.toNat]'(reg_lt r))[l]
def putV (t : Slice) (r : Reg) (l : Fin 4) (x : W32) : Slice :=
  { t with v := t.v.set r.toNat ((t.v[r.toNat]'(reg_lt r)).set l.val x l.isLt) (reg_lt r) }
/-- The registers that a vector field holds: itself, or the even-odd pair (R19). -/
def pairMask (r : Reg) (pair : Bool) : W64 := 1#64 <<< r.toNat ||| (if pair then 1#64 <<< (r + 1).toNat else 0)
def fullV (t : Slice) (r : Reg) (pair : Bool) : Bool := t.vFull &&& pairMask r pair == pairMask r pair
def emptyV (t : Slice) (r : Reg) (pair : Bool) : Slice := { t with vFull := t.vFull &&& ~~~(pairMask r pair) }
def fillV (t : Slice) (r : Reg) (pair : Bool) : Slice := { t with vFull := t.vFull ||| pairMask r pair }

/-- The element of a lane read in a type (R93, R19). -/
def elem (t : Slice) (ty : TCode) (r : Reg) (l : Fin 4) : Nat :=
  if widthOf ty = 64 then (t.getV r l).toNat + 2 ^ 32 * (t.getV (r + 1) l).toNat
  else (t.getV r l).toNat % 2 ^ widthOf ty

/-- The 32-bit element that a value of a narrow type is written as: i8 and i16 sign-extended, the rest zero-extended. -/
def narrow (ty : TCode) (x : Nat) : W32 :=
  match ty with
  | .i8 => (BitVec.ofNat 8 x).signExtend 32
  | .i16 => (BitVec.ofNat 16 x).signExtend 32
  | _ => BitVec.ofNat 32 (x % 2 ^ widthOf ty)

/-- An element written (R93, R19). -/
def putElem (t : Slice) (ty : TCode) (r : Reg) (l : Fin 4) (x : Nat) : Slice :=
  if widthOf ty = 64 then
    (t.putV r l (BitVec.ofNat 32 x)).putV (r + 1) l (BitVec.ofNat 32 (x / 2 ^ 32))
  else t.putV r l (narrow ty x)

/-- A mask register; k0 reads the lane mask (R20). -/
def getK (t : Slice) (k : Nat) : BitVec 4 := if k = 0 then t.mask else t.k.toList.getD k 0
/-- A mask register written; a write to k0 is discarded (R20). -/
def putK (t : Slice) (k : Nat) (m : BitVec 4) : Slice :=
  if h : 0 < k ∧ k < 8 then { t with k := t.k.set k m h.2 } else t

def stream (t : Slice) (w : Nat) : Option Stream := t.w.toList.getD w none
def putStream (t : Slice) (w : Nat) (x : Option Stream) : Slice :=
  if h : w < 16 then { t with w := t.w.set w x h } else t

def stack (t : Slice) (l : Fin 4) : List W32 := t.opStacks[l]
def putStack (t : Slice) (l : Fin 4) (st : List W32) : Slice := { t with opStacks := t.opStacks.set l.val st l.isLt }

/-- FPSTAT flags raised: NV to NX, BFLUSH, SATD (R32). -/
def raise (t : Slice) (fl : BitVec 7) : Slice := { t with fpstat := t.fpstat ||| fl.setWidth 32 }

/-- A scalar given its value at once: nothing that was on its way there arrives any more. -/
def setNow (t : Slice) (r : Reg) (x : W64) : Slice :=
  let to_ : Result → Bool := fun y => match y with | .scalar d _ => d == r | .scalarWait d => d == r | _ => false
  { (t.putS r x).fillS r with results := t.results.filter (fun y => !to_ y) }

/-- A slice that still runs or waits. -/
def alive (t : Slice) : Bool := t.run != .exited
def isRunning (t : Slice) : Bool := t.run == .running

end Slice

/-! ### Units -/

namespace Unit

def slice? (u : Unit) (j : Nat) : Option Slice := u.slices.find? (fun t => t.idx == j)
/-- The slices named, in increasing order. -/
def pick (u : Unit) (js : List Nat) : List Slice := u.slices.filter (fun t => js.contains t.idx)
/-- A change to each slice named. -/
def mapSlices (u : Unit) (js : List Nat) (f : Slice → Slice) : Unit :=
  { u with slices := u.slices.map (fun t => if js.contains t.idx then f t else t) }
/-- A change to slices as they are and as checkpoints hold them: a result that is still on its way there arrives in each (R352). -/
def deliver (u : Unit) (js : List Nat) (f : Slice → Slice) : Unit :=
  let g (t : Slice) : Slice := if js.contains t.idx then f t else t
  { u with slices := u.slices.map g, txn := u.txn.map (fun x => { x with slices := x.slices.map g })
           checkpoints := u.checkpoints.map (fun c => { c with slices := c.slices.map g }) }
/-- The launched lane count W (R284). -/
def lanes (u : Unit) : Nat := 4 * u.slices.length
/-- The gang id (R34); for engine members, their core's with slot 0 (R352). -/
def gangId (u : Unit) : BitVec 18 :=
  BitVec.ofNat 18 (u.id.core * 16 + (if u.id.kind = .gang then u.id.slot else 0))
/-- ENG of a log entry (R352). -/
def eng (u : Unit) : BitVec 2 := match u.id.kind with | .sluice => 1 | .harrow => 2 | _ => 0
/-- Level S (R310). -/
def isS (u : Unit) : Bool := u.id.kind == .mgmt
/-- Outstanding operations of a class (R29). -/
def count (u : Unit) (cls : Nat) : Nat := (u.ops.filter (fun o => o.cls == cls)).length
/-- Every slice that still runs is in one issue group (R272). -/
def joined (u : Unit) : Bool :=
  match u.slices.filter (fun t => t.alive) with
  | [] => true
  | t :: ts => ts.all (fun x => x.grp == t.grp)

end Unit

/-! ### The package's tables -/

/-- A core that nothing has used: tiles and accumulators zero and full (log entry 3). -/
def Core.blank (n : Nat) : Core :=
  { num := n, tiles := Vector.replicate 8 [], tctl := Vector.replicate 8 0, tFull := 0xFF, tLost := 0
    accs := Vector.replicate 4 [], aFull := 0xF, aLost := 0, sluice := [], harrow := [], stepped := none
    lastCtx := none, power := .on }

namespace Core

def tile (c : Core) (t : Nat) : Mem := c.tiles.toList.getD t []
def putTile (c : Core) (t : Nat) (m : Mem) : Core := if h : t < 8 then { c with tiles := c.tiles.set t m h } else c
def ctl (c : Core) (t : Nat) : W32 := c.tctl.toList.getD t 0
def putCtl (c : Core) (t : Nat) (x : W32) : Core := if h : t < 8 then { c with tctl := c.tctl.set t x h } else c
def acc (c : Core) (a : Nat) : List (Nat × Acc) := c.accs.toList.getD a []
def putAcc (c : Core) (a : Nat) (m : List (Nat × Acc)) : Core := if h : a < 4 then { c with accs := c.accs.set a m h } else c
def fullT (c : Core) (t : Nat) : Bool := c.tFull.getLsbD t
def fullA (c : Core) (a : Nat) : Bool := c.aFull.getLsbD a
def emptyT (c : Core) (t : Nat) : Core := { c with tFull := c.tFull &&& ~~~(1#8 <<< t) }
def fillT (c : Core) (t : Nat) : Core := { c with tFull := c.tFull ||| 1#8 <<< t }
/-- Poison of a tile or an accumulator (R363). -/
def lostT (c : Core) (t : Nat) : Bool := c.tLost.getLsbD t
def lostA (c : Core) (a : Nat) : Bool := c.aLost.getLsbD a
def emptyA (c : Core) (a : Nat) : Core := { c with aFull := c.aFull &&& ~~~(1#4 <<< a) }
def fillA (c : Core) (a : Nat) : Core := { c with aFull := c.aFull ||| 1#4 <<< a }

end Core

namespace State

def unit? (s : State) (id : UnitId) : Option Unit := s.units.find? (fun u => u.id == id)
/-- The unit of the same name replaced. -/
def setUnit (s : State) (u : Unit) : State :=
  { s with units := s.units.map (fun x => if x.id == u.id then u else x) }
/-- A change to every unit that a test picks. -/
def mapUnits (s : State) (p : Unit → Bool) (f : Unit → Unit) : State :=
  { s with units := s.units.map (fun x => if p x then f x else x) }

/-- The same to every unit, those of saved teams too. -/
def mapEvery (s : State) (p : Unit → Bool) (f : Unit → Unit) : State :=
  let g (x : Unit) : Unit := if p x then f x else x
  { s with units := s.units.map g, saved := s.saved.map (fun y => { y with units := y.units.map g }) }

def coreAt (s : State) (n : Nat) : Core := (s.cores.find? (fun c => c.num == n)).getD (Core.blank n)
def setCore (s : State) (c : Core) : State :=
  { s with cores := if s.cores.any (fun x => x.num == c.num) then s.cores.map (fun x => if x.num == c.num then c else x)
      else s.cores ++ [c] }

def team? (s : State) (id : Nat) : Option Team := s.teams.find? (fun t => t.id == id)
def setTeam (s : State) (t : Team) : State := { s with teams := s.teams.map (fun x => if x.id == t.id then t else x) }
def launch? (s : State) (id : Nat) : Option Launch := s.launches.find? (fun l => l.id == id)
def setLaunch (s : State) (l : Launch) : State :=
  { s with launches := s.launches.map (fun x => if x.id == l.id then l else x) }
def ctx (s : State) (n : Nat) : Context := s.contexts.getD n .blank
def setCtx (s : State) (n : Nat) (c : Context) : State := { s with contexts := s.contexts.set n c }
def queue (s : State) (n : Nat) : Queue := s.queues.getD n .blank
def setQueue (s : State) (n : Nat) (q : Queue) : State := { s with queues := s.queues.set n q }
def peer (s : State) (n : Nat) : Peer := s.peers.getD n .blank
def setPeer (s : State) (n : Nat) (p : Peer) : State := { s with peers := s.peers.set n p }

/-- A value the spec leaves open, and the state with the counter advanced (log entry 5). -/
def free (s : State) : W64 × State := (Config.freeValue s.nonce, { s with nonce := s.nonce + 1 })
/-- A value left open that also depends on a key, so that several places met in one step have values of their own. -/
def freeAt (s : State) (k : Nat) : W64 := Config.freeValue (s.nonce + 2 ^ 64 * (k + 1))
/-- A fresh name. -/
def fresh (s : State) : Nat × State := (s.nextId, { s with nextId := s.nextId + 1 })

end State

/-! ### Coordinates (R33, R34) -/

/-- The die of a core; 16,384 and up number the management cores, four to a die (R310, log entry 26). -/
def coreDie (n : Nat) : Nat := if n < 16384 then n / 1024 else (n - 16384) / 4
def coreCluster (n : Nat) : Nat := n / 128 % 8
def coreIndex (n : Nat) : Nat := n % 128
/-- The cluster's number, 0-127. -/
def clusterOf (n : Nat) : Nat := n / 128

end Sys2Proof.Machine
end

