-- ==== Sys2Proof/Machine/Operands.lean ====
section
/-! DEFINITION. Which registers an instruction reads and writes, and what their full/empty bits do to its issue
(03_state R25-R27). -/

namespace Sys2Proof

/-- IB of the scalars and moves. -/
def WArgs.ib (o : WArgs) : Bool := o.xf.getLsbD 3
/-- .ORD of the sluice commands (R227). -/
def WArgs.ordBit (o : WArgs) : Bool := o.xf.getLsbD 3
/-- The C field of the memory instructions, long [31:26] (R202). -/
def WArgs.c (o : WArgs) : Reg := o.imm.extractLsb' 10 6
/-- TY of the atomics, long [25:23] (R202). -/
def WArgs.ty (o : WArgs) : BitVec 3 := o.imm.extractLsb' 7 3
/-- WD of gathers and scatters, long [25:24]; of VLD and VST, SEC[1:0] (R202). -/
def WArgs.wd (o : WArgs) : Nat := (o.imm.extractLsb' 8 2).toNat
def IArgs.wd (o : IArgs) : Nat := (o.sec.extractLsb' 0 2).toNat
/-- RET, ORD and OP of an ATOM value (R202). -/
def WArgs.retBit (o : WArgs) : Bool := o.sec.getLsbD 4
def WArgs.rel (o : WArgs) : Bool := o.sec.getLsbD 5
def WArgs.acq (o : WArgs) : Bool := o.sec.getLsbD 6
def WArgs.op (o : WArgs) : BitVec 4 := o.sec.extractLsb' 0 4
def WArgs.isCas (o : WArgs) : Bool := o.op == 7
/-- KM (R46). -/
def WArgs.km (o : WArgs) : Nat := (o.xf.extractLsb' 0 3).toNat
def PArgs.km (o : PArgs) : Nat := (o.xf.extractLsb' 0 3).toNat
def IArgs.km (o : IArgs) : Nat := (o.xf.extractLsb' 0 3).toNat

end Sys2Proof

namespace Sys2Proof.Machine

/-- A register with a full/empty bit. `low` names the copy of the group's lowest slice alone. -/
inductive RegRef where
  | s (r : Reg) (low : Bool)
  | v (r : Reg) (pair : Bool)
  | t (n : Nat)
  deriving DecidableEq, Repr

/-- A source field: its register, its policy bit (false where there is none), and whether it is field B (R26, R347). -/
structure Source where
  ref : RegRef
  policy : Bool
  isB : Bool
  deriving DecidableEq, Repr

namespace Source
def wait (r : RegRef) : Source := ⟨r, false, false⟩
def a (r : RegRef) (f : Bool) : Source := ⟨r, f, false⟩
def b (r : RegRef) (f : Bool) : Source := ⟨r, f, true⟩
end Source

/-- A scalar of each slice, and of the lowest slice. -/
def sEach (r : Reg) : RegRef := .s r false
def sLow (r : Reg) : RegRef := .s r true

open WellFormed (wideT wideTy convSrc)

/-- A vector instruction's A and B, in type T. -/
def srcAB (o : PArgs) (pairB : Bool) : List Source :=
  [.a (.v o.a (wideT o.t)) o.fa, .b (.v o.b pairB) o.fb]
def srcA (o : PArgs) : List Source := [.a (.v o.a (wideT o.t)) o.fa]
/-- A scalar instruction's A and, without IB, B (R96). -/
def srcScalar (o : WArgs) : List Source :=
  .a (sEach o.a) o.fa :: (if o.ib then [] else [.b (sEach o.b) o.fb])
/-- A gather's or scatter's address, index and bound (R202). -/
def srcIndexed (o : WArgs) : List Source :=
  [.a (sEach o.a) o.fa, .b (.v o.b false) o.fb, .wait (sEach o.c)]
/-- Scalar operands that a matrix or sluice instruction reads from the lowest slice (R136, R221). -/
def lowA (o : WArgs) : Source := .a (sLow o.a) o.fa
def lowB (o : WArgs) : Source := .b (sLow o.b) o.fb
def lowD (o : WArgs) : Source := .wait (sLow o.d)

/-- The sources that R26 holds back, by instruction. Registers that an instruction finds only by reading others (XV's
selectors, VRDN's number, key registers, the tiles of R139 step 7) are checked in its meaning. -/
def sources : Instr → List Source
  | .sadd o | .ssub o | .smul o | .smulh o | .sdiv o | .srem o | .sand o | .sor o | .sxor o | .sshl o | .sshr o
  | .ssra o | .smin o | .smax o | .sset o => srcScalar o
  | .sliIns o => [.wait (sEach o.a)]
  | .vadd o | .vsub o | .vmul o | .vmulh o | .vand o | .vor o | .vxor o | .vshl o | .vshr o | .vsra o | .vmin o
  | .vmax o | .vcmp o | .vsel o | .fadd o | .fsub o | .fmul o | .fmin o | .fmax o | .fsgn o | .fcmp o | .vcomb o =>
    srcAB o (wideT o.t)
  | .vmad o | .ffma o => srcAB o (wideT o.t) ++ [.wait (.v o.c (wideT o.t))]
  | .fscale o | .vshuf o => srcAB o false
  | .vabs o | .vclz o | .vpopc o | .fclass o | .frint o | .frcp o | .frsq o | .fsqrt o | .fexp2 o | .flog2 o | .fsin o
  | .fcos o | .ftanh o | .fsigm o | .ferf o | .vred o | .vscan o | .vconf o | .vcmprs o | .vexpnd o => srcA o
  | .fcvt o | .fcvti o | .icvtf o => [.a (.v o.a (o.sec != 0x10 && wideT (convSrc o))) o.fa]
  | .bfpack o => [.a (.v o.a false) o.fa, .b (sLow o.b) o.fb]
  | .vbcast o => srcA o ++ [.b (sEach o.b) o.fb]
  | .vmov o => [.a (.v o.a (o.sec == 2)) o.fa]
  | .vsplat o => if o.ib then [] else [.a (sEach o.a) o.fa]
  | .vextr o => .a (.v o.a (o.sec == 2)) o.fa :: (if o.ib then [] else [.b (sEach o.b) o.fb])
  | .xv o => [.a (.v o.a false) o.fa]
  | .xpush o => [.a (.v o.a false) o.fa]
  | .tcfg o => if 2 ≤ o.sec.toNat then [lowA o] else []
  | .tld o | .tst o => [lowA o]
  | .mma o => (if o.fa then [.a (.t o.a.toNat) true] else []) ++ (if o.fb then [.b (.t o.b.toNat) true] else [])
  | .mloop o | .tbitsSeed o | .tout o => [lowA o, lowB o]
  | .sld o | .brc o => [.wait (sEach o.a)]
  | .pref o => [.wait (sEach o.a)]
  | .sst o => [.wait (sEach o.a), .wait (sEach o.d)]
  | .vld o => [.wait (sEach o.a)]
  | .vst o => [.wait (sEach o.a), .wait (.v o.d (o.wd == 3))]
  | .vldg o => srcIndexed o
  | .vstg o => srcIndexed o ++ [.wait (.v o.d (o.wd == 3))]
  | .vatom o => [.a (sEach o.a) o.fa, .wait (.v o.d (wideTy o.imm))]
      ++ (if o.isCas then [.b (.v o.b (wideTy o.imm)) o.fb] else [])
  | .satom o => [.a (sEach o.a) o.fa, .b (sEach o.b) o.fb] ++ (if o.isCas then [.wait (sEach o.c)] else [])
  | .gatom o => srcIndexed o ++ [.wait (.v o.d (wideTy o.imm))]
  | .mwait o | .patom o => [.a (sEach o.a) o.fa, .b (sEach o.b) o.fb]
  | .pst o => [.a (sEach o.a) o.fa, .wait (sEach o.d)]
  | .cpLd o | .cpSt o => [lowD o, lowA o, lowB o]
  | .cpx o | .cps o | .cpred o | .moedisp o => [lowD o, lowA o, .b (.v o.b false) o.fb]
  | .cpconv o => [lowD o, lowA o, lowB o, .wait (sLow (o.imm.extractLsb' 0 6))]
  | .chwait o | .chrel o => [lowA o]
  | .qsig o => [lowA o, .b (.v o.b false) o.fb]
  | .rowbar o => [lowA o, lowB o]
  | .kst o => [lowA o, lowB o, .wait (.v o.d false)]
  | .bgather o => [lowA o, .b (.v o.b false) o.fb, .wait (sLow (o.imm.extractLsb' 0 6))]
  | .calli o => [.a (.v o.a false) o.fa, .wait (sEach 61)]
  | .ret o | .wbind o | .tickw o | .setpl o => [.a (sEach o.a) o.fa]
  | .sysw o => [if o.imm == 3 || o.imm == 4 then .a (sEach o.a) o.fa else lowA o]
  | .launch o | .tlbinvCtx o | .laneinfoClr o | .wmarkDrop o => [lowA o]
  | .kmov o => if o.xf == 2 then [.a (sEach o.a) o.fa] else []
  | .sysrCtx o => [lowB o]
  | .syswCtx o => [lowA o, lowB o]
  | .tlbinvPage o | .undo o | .undoTeam o => [lowA o, lowB o]
  | .ecall _ => (List.range 8).map (fun i => .wait (sLow (BitVec.ofNat 6 i)))
  | .vrdn o => [.a (sEach o.a) o.fa]
  | .vwrn o => .a (sEach o.a) o.fa ::
      (if o.imm.getLsbD 0 then .b (sEach o.b) o.fb :: (if o.imm.getLsbD 1 then [.b (sEach (o.b + 1)) o.fb] else [])
       else [.b (.v o.b (o.imm.getLsbD 1)) o.fb])
  | _ => []

/-- The destinations that R27 holds back. -/
def dests : Instr → List RegRef
  | .sadd o | .ssub o | .smul o | .smulh o | .sdiv o | .srem o | .sand o | .sor o | .sxor o | .sshl o | .sshr o
  | .ssra o | .smin o | .smax o | .sset o => [sEach o.d]
  | .sli o | .sliIns o => [sEach o.d]
  | .vadd o | .vsub o | .vmul o | .vmulh o | .vmad o | .vand o | .vor o | .vxor o | .vshl o | .vshr o | .vsra o | .vmin o
  | .vmax o | .vabs o | .vclz o | .vpopc o | .vsel o | .fadd o | .fsub o | .fmul o | .ffma o | .fmin o | .fmax o
  | .fsgn o | .fscale o | .frint o | .fcvt o | .fcvti o | .icvtf o | .frcp o | .frsq o | .fsqrt o | .fexp2 o
  | .flog2 o | .fsin o | .fcos o | .ftanh o | .fsigm o | .ferf o | .vshuf o | .vbcast o | .vred o | .vscan o | .vcomb o
  | .vcmprs o | .vexpnd o => [.v o.d (wideT o.t)]
  | .fclass o | .bfpack o | .vconf o | .xv o => [.v o.d false]
  | .vmov o => [.v o.d (o.sec == 2)]
  | .vsplat o => [.v o.d (o.sec.getLsbD 1)]
  | .vmovStream o | .vlane o | .xpop o | .xpeek o | .xdepth o | .laneinfoV o | .qsig o => [.v o.d false]
  | .vextr o | .satom o | .mwait o | .chwait o | .bgather o | .launch o | .kpop o | .sysr o | .sysrCtx o
  | .laneinfo o | .undo o | .undoTeam o => [sEach o.d]
  | .sld o => [sEach o.d]
  | .vld o => [.v o.d (o.wd == 3)]
  | .vldg o => [.v o.d (o.wd == 3)]
  | .kmov o => if o.xf == 1 then [sEach o.d] else []
  | .ecall _ => [sEach 0, sEach 1]
  | .call _ => [sEach 60]
  | .calli _ => [sEach 60]
  | .vrdn o => if o.imm.getLsbD 0 then sEach o.d :: (if o.imm.getLsbD 1 then [sEach (o.d + 1)] else [])
      else [.v o.d (o.imm.getLsbD 1)]
  | _ => []

/-- Whether a register is full in the slices that issue, the lowest first; tiles are the core's. -/
def isFull (c : Core) (ts : List Slice) : RegRef → Bool
  | .s r low => if low then (ts.head?.map (fun t => t.fullS r)).getD true else ts.all (fun t => t.fullS r)
  | .v r pair => ts.all (fun t => t.fullV r pair)
  | .t n => c.fullT n

/-- What full/empty bits do to an issue: nothing, class 6 with SUB 0 for A and 1 for B, or a wait (R26, R27). A source with
policy 1 decides first (log entry 8). -/
inductive Hold where
  | free
  | trap (isB : Bool)
  | wait
  deriving DecidableEq, Repr

/-- A register that awaits lanes of `m` counted as full. -/
def Slice.countFull (m : BitVec 4) (t : Slice) : Result → Slice
  | .vector d pair _ missing _ _ _ => if missing &&& m ≠ 0 then t.fillV d pair else t
  | _ => t

/-- A slice about to replay lanes: the register that awaits only them does not hold the replay back (R28, R132). -/
def Slice.replayable (t : Slice) : Slice :=
  match t.replay with
  | none => t
  | some m => t.results.foldl (Slice.countFull m) t

def holdBack (c : Core) (ts : List Slice) (i : Instr) : Hold :=
  let ts := ts.map Slice.replayable
  match (sources i).find? (fun x => x.policy && !isFull c ts x.ref) with
  | some x => .trap x.isB
  | none =>
    if (sources i).all (fun x => isFull c ts x.ref) && (dests i).all (fun r => isFull c ts r) then .free else .wait

end Sys2Proof.Machine
end

