-- ==== Sys2Proof/Machine/Translate.lean ====
section
/-! DEFINITION. Places, translation and its checks (09_memory_places R156-R160, 18_isolation R314-R320). -/

namespace Sys2Proof.Machine

/-- The places of R157: a stack, a die's weight store, a core's scratchpad, host memory, a peer. -/
inductive Place where
  | hbm (stack : Nat)
  | weight (die : Nat)
  | scratch (core : Nat)
  | host
  | peer (p : Nat)
  | hole
  deriving DecidableEq, Repr

/-- The interleaved window's names of HBM4 bytes become the stacked window's (R158). -/
def canonPa (pa : Nat) : Nat :=
  if 2 ^ 39 ≤ pa ∧ pa < 2 ^ 40 then
    let o := pa - 2 ^ 39
    field o 12 4 * 2 ^ 35 + field o 16 23 * 4096 + o % 4096
  else pa

/-- The window of a physical address (R157). -/
def placeOf (pa : Nat) : Place :=
  if pa < 2 ^ 40 then .hbm (canonPa pa / 2 ^ 35)
  else if 0x10000000000 ≤ pa ∧ pa < 0x10400000000 then
    if pa % 2 ^ 30 < 768 * 2 ^ 20 then .weight ((pa - 0x10000000000) / 2 ^ 30) else .hole
  else if Config.scratchWindow ≤ pa ∧ pa < Config.scratchWindow + 2 ^ 32 then
    .scratch ((pa - Config.scratchWindow) / 2 ^ 18)
  else if 0x8000000000000 ≤ pa ∧ pa < 0xC000000000000 then .host
  else if 0xC000000000000 ≤ pa ∧ pa < 0xD000000000000 then .peer ((pa - 0xC000000000000) / 2 ^ 42)
  else .hole

/-- Physical address of a scratchpad byte (R157). -/
def scratchPa (core off : Nat) : Nat := Config.scratchWindow + core * 2 ^ 18 + off

/-- Fields of a leaf's attributes (R159). -/
def attrWrite (a : BitVec 12) : Bool := a.getLsbD 1
def attrExec (a : BitVec 12) : Bool := a.getLsbD 2
def attrUser (a : BitVec 12) : Bool := a.getLsbD 3
def attrTrace (a : BitVec 12) : Bool := a.getLsbD 4
def attrScope (a : BitVec 12) : Nat := (a >>> 5 &&& 7).toNat
def attrMemside (a : BitVec 12) : Bool := a.getLsbD 8
def attrWeight (a : BitVec 12) : Bool := a.getLsbD 9

/-- A CORE or CLUSTER page: the direct regime (R161). -/
def isDirect (a : BitVec 12) : Bool := attrScope a ≤ 1

/-- A translation found: the page's virtual base and size, its frame, its attributes. -/
structure Leaf where
  va : Nat
  size : Nat
  frame : Nat
  attrs : BitVec 12
  deriving DecidableEq, Repr

/-- The physical address of a virtual one within a leaf. -/
def Leaf.pa (l : Leaf) (va : Nat) : Nat := l.frame + (va - l.va)

/-- One page-table entry, read whole at its performing point (R318). -/
def tableEntry (m : Mem) (frame idx : Nat) : Nat := fromLe (m.readBytes (canonPa (frame + 8 * idx)) 8)

/-- The page size of a leaf at level 0-2 (R315). -/
def pageSize (level : Nat) : Nat := 4096 * 512 ^ level

/-- The leaf that entry `e` at index `idx` of level `l` describes: a page, or the `whole` group of its sixteen (R317). -/
def leafOf (va l idx e : Nat) (whole : Bool) : Leaf :=
  let sz := pageSize l
  let frame := field e 12 40 * 4096
  if whole then
    { va := va / (16 * sz) * (16 * sz), size := 16 * sz, frame := frame - idx % 16 * sz, attrs := BitVec.ofNat 12 e }
  else { va := va / sz * sz, size := sz, frame := frame, attrs := BitVec.ofNat 12 e }

/-- The entry form of R316 at a level: `none` if well-formed. -/
def entryForm (l e : Nat) : Bool :=
  if field e 54 10 ≠ 0 then false
  else if field e 52 1 = 0 then field e 1 11 = 0 && field e 53 1 = 0
  else l < 3 && field e 12 40 * 4096 % pageSize l = 0

/-- The index of a group's entry that translates: the address's own while the sixteen agree, otherwise any (R317). -/
def groupIndex (s : State) (frame l idx : Nat) : Nat :=
  let own := tableEntry s.mem frame idx
  let base := idx / 16 * 16
  let agree := (List.range 16).all (fun i =>
    decide (tableEntry s.mem frame (base + i) + idx % 16 * pageSize l = own + i * pageSize l))
  if agree && decide (field (tableEntry s.mem frame base) 12 40 * 4096 % (16 * pageSize l) = 0) then idx
  else base + (Config.freeValue s.nonce).toNat % 16

/-- Whether an entry is a leaf of a group. -/
def grouped (l e : Nat) : Bool := e % 2 == 1 && entryForm l e && field e 52 1 == 1 && field e 53 1 == 1

/-- The walk of R315-R318, from a table frame at the head of the levels left. Errors are the causes of R319. The entry that a broken
group puts in the place of an address's own is judged as that one would be. -/
def walk (s : State) (va : Nat) : List Nat → Nat → Except Nat Leaf
  | [], _ => .error 4
  | l :: ls, frame =>
    let idx := if l = 4 then field va 48 8 else field va (12 + 9 * l) 9
    match placeOf frame with
    | .hbm _ =>
      let whole := grouped l (tableEntry s.mem frame idx)
      let i := if whole then groupIndex s frame l idx else idx
      let e := tableEntry s.mem frame i
      if e % 2 = 0 then .error (if field e 1 1 = 1 then 1 else 2)
      else if !entryForm l e then .error 4
      else if field e 52 1 = 0 then walk s va ls (field e 12 40 * 4096)
      else .ok (leafOf va l i e whole)
    | _ => .error 5

/-- Whether an entry translates an address of a context. -/
def TlbEntry.covers (e : TlbEntry) (ctx a : Nat) : Bool := e.ctx == ctx && e.va ≤ a && a < e.va + e.size

/-- The entry of one TLB for an address. -/
def tlbFind (s : State) (at_ : TlbPlace) (ctx a : Nat) : Option TlbEntry :=
  (s.tlb.find? (fun e => e.1 == at_ && e.2.covers ctx a)).map (fun e => e.2)

/-- The entry that a core uses: its own TLB's, else its cluster's. -/
def tlbHit (s : State) (ctx core a : Nat) : Option TlbEntry :=
  match tlbFind s (.l1 core) ctx a with
  | some e => some e
  | none => tlbFind s (.l2 (clusterOf core)) ctx a

/-- The translation of an address in a context, by a core: a TLB entry if one holds it, else the walk (R314, R320). -/
def findLeaf (s : State) (ctx core : Nat) (va : W64) : Except Nat Leaf :=
  let a := va.toNat
  if 2 ^ 56 ≤ a then .error 3
  else match tlbHit s ctx core a with
    | some e => .ok { va := e.va, size := e.size, frame := e.frame, attrs := e.attrs }
    | none => walk s a [4, 3, 2, 1, 0] ((s.ctx ctx).root * 4096)

/-- What an access does, for the checks of R160 and R163: `engine` for a sluice command's, `device` for one of the log, the
trace or the distributor. -/
inductive AccessOp where
  | plain
  | device
  | atomic (op : BitVec 4) (ty : BitVec 3)
  | reduce (op : BitVec 4) (ty : BitVec 3)
  | peer
  | engine
  | matrix
  deriving DecidableEq, Repr

/-- Who accesses and how. `weight` holds for engine writes of a weight-load launch (R166). -/
structure Requester where
  ctx : Nat
  core : Nat
  levelS : Bool
  access : Access
  op : AccessOp
  weight : Bool
  deriving DecidableEq, Repr

/-- R159: a leaf whose form is refused at first use (cause 4). -/
def leafForm (l : Leaf) : Bool :=
  let hbm := match placeOf l.frame with | .hbm _ => true | _ => false
  let wt := decide (0x10000000000 ≤ l.frame ∧ l.frame < 0x10400000000)
  (l.attrs >>> 10) == 0 && attrScope l.attrs ≤ 4 && (!attrMemside l.attrs || hbm) && (attrWeight l.attrs == wt)
    && !(attrWrite l.attrs && attrExec l.attrs)

/-- R159: the permissions of a leaf. -/
def permitted (r : Requester) (place : Place) (a : BitVec 12) : Bool :=
  (attrUser a || r.levelS) && (match r.access with
    | .read => true
    | .fetch => attrExec a
    | .write => attrWrite a && (match place with | .weight _ => r.weight | _ => true))

/-- R160: scope against the accessing core, the place and the page's extent; peers and matrix addresses as R319 has them. -/
def scopeOk (r : Requester) (l : Leaf) (pa : Nat) : Bool :=
  let place := placeOf pa
  let within (n : Nat) := l.frame / n == (l.frame + l.size - 1) / n
  (match attrScope l.attrs, place with
    | 0, .scratch c => c == r.core && within (2 ^ 18)
    | 1, .scratch c => clusterOf c == clusterOf r.core && within (2 ^ 25)
    | 2, .hbm st => st == coreDie r.core && pa < 2 ^ 39
    | 2, .weight d => d == coreDie r.core
    | 3, .hbm _ => true
    | 3, .weight _ => true
    | 4, .host => true
    | 4, .peer _ => true
    | _, _ => false)
  && (match r.op, place with
    | .peer, .peer _ => true
    | .peer, _ => false
    | .engine, _ => true
    | .reduce _ _, _ => true
    | .matrix, .scratch c => c == r.core
    | .matrix, _ => false
    | _, .peer _ => false
    | _, _ => true)

/-- Cause 9: a scratchpad without a team of the accessing context (R319). -/
def teamHere (s : State) (r : Requester) (place : Place) : Bool :=
  match place with
  | .scratch c => s.teams.any (fun t => t.ctx == r.ctx && t.cores.contains c)
  | _ => true

/-- Width in bytes of an atomic type (R202). -/
def tyBytes (ty : BitVec 3) : Nat := WellFormed.tySize ty.toNat

/-- R212: whether the performing point accepts an atomic; the host takes FetchAdd, Swap and CAS on 32 or 64 bits, and a
peer none of CPRED's (R230). -/
def atomicOk (r : Requester) (place : Place) : Bool :=
  match r.op, place with
  | .atomic op ty, .host => (op == 0 && ty.toNat < 4) || ((op == 6 || op == 7) && tyBytes ty != 2)
  | .reduce op ty, .host => op == 0 && decide (ty.toNat < 4)
  | .atomic _ _, .weight _ => false
  | .reduce _ _, .weight _ => false
  | .reduce _ _, .peer _ => false
  | _, _ => true

/-- The window through which each core of a context reaches its own scratchpad, on a CORE-scope page (R17, R399). The rules give the scope
alone; that the window stands before the TLBs and the page tables, as one leaf of 256 KiB with WRITE and USER and without TRACE, is the
model's (DESIGN CHOICE, log entry 12). -/
def windowLeaf (s : State) (ctx core : Nat) (va : W64) : Option Leaf :=
  (s.refs.find? (fun r => r.ctx == ctx && r.spadVa.toNat ≤ va.toNat && va.toNat < r.spadVa.toNat + Config.scratchBytes)).map
    (fun r => { va := r.spadVa.toNat, size := Config.scratchBytes, frame := scratchPa core 0, attrs := 0x00B })

/-- The translation of an address for a core; bits [63:56] stand before any page (R314). -/
def leafFor (s : State) (ctx core : Nat) (va : W64) : Except Nat Leaf :=
  if 2 ^ 56 ≤ va.toNat then .error 3
  else match windowLeaf s ctx core va with
    | some l => .ok l
    | none => findLeaf s ctx core va

/-- The page that translates an address for a core. -/
def spanOf (s : State) (ctx core : Nat) (va : W64) : PageSpan :=
  match leafFor s ctx core va with
  | .ok l => (l.va, l.size)
  | .error _ => (va.toNat / 4096 * 4096, 4096)

/-- The whole check of an access: the physical address, stacked for HBM4, with its attributes; or the lowest cause of R319
that applies. -/
def translate (s : State) (r : Requester) (va : W64) : Except Nat (Nat × BitVec 12) :=
  match leafFor s r.ctx r.core va with
  | .error c => .error c
  | .ok l =>
    let pa := l.pa va.toNat
    let place := placeOf pa
    if !leafForm l then .error 4
    else if place = .hole then .error 6
    else if !permitted r place l.attrs then .error 7
    else if !scopeOk r l pa then .error 8
    else if !teamHere s r place then .error 9
    else if !atomicOk r place then .error 10
    else .ok (canonPa pa, l.attrs)

/-- An entry that a TLB holds from now on. -/
def keepEntry (s : State) (at_ : TlbPlace) (e : TlbEntry) : State :=
  if s.tlb.contains (at_, e) then s else { s with tlb := (at_, e) :: s.tlb }

/-- The TLBs after an access of a core: the leaf found is kept in its own, and a walked one in its cluster's (R320). -/
def fillTlb (s : State) (ctx core : Nat) (va : W64) : State :=
  match findLeaf s ctx core va with
  | .error _ => s
  | .ok l =>
    let e : TlbEntry := { ctx := ctx, va := l.va, size := l.size, frame := l.frame, attrs := l.attrs }
    let s' := keepEntry s (.l1 core) e
    if (tlbHit s ctx core va.toNat).isSome then s' else keepEntry s' (.l2 (clusterOf core)) e

end Sys2Proof.Machine
end

