-- ==== Sys2Proof/Machine/Store.lean ====
section
/-! DEFINITION. Reads and writes under the two regimes, publication, outstanding operations, and the bittern log
(09_memory_places R161-R163, 10_ordering_axioms R178-R182, 20_recovery R352-R355). -/

namespace Sys2Proof.Machine

/-! ### Poison (R363) -/

/-- The unit of poison that holds a byte: an aligned 8-byte word of scratchpad, a 128-byte line elsewhere. -/
def poisonUnit (pa : Nat) : Nat × Nat :=
  match placeOf pa with
  | .scratch _ => (pa / 8 * 8, 8)
  | _ => (pa / 128 * 128, 128)

/-- Whether a read of `n` bytes meets poison. -/
def poisoned (s : State) (pa n : Nat) : Bool :=
  s.poison.any (fun a => let (b, k) := poisonUnit a; pa < b + k && b < pa + n)

/-- A write of the whole unit clears its poison. -/
def clearPoison (s : State) (pa n : Nat) : State :=
  { s with poison := s.poison.filter (fun a => let (b, k) := poisonUnit a; !(pa ≤ b && b + k ≤ pa + n)) }

/-! ### Reads -/

/-- The core whose scratchpad holds a place. -/
def scratchCore (pa : Nat) : Option Nat := match placeOf pa with | .scratch c => some c | _ => none

/-- Whether a pending direct store holds a byte. -/
def DirectStore.covers (d : DirectStore) (pa : Nat) : Bool := d.pa ≤ pa && pa < d.pa + d.bytes.length

/-- A byte of a direct word as a slice reads it (R178): its own latest store not yet performed, else the scratchpad. -/
def readDirect (s : State) (u : Unit) (j pa : Nat) : Byte :=
  match (u.direct.filter (fun d => d.slice == j && d.covers pa)).getLast? with
  | some d => d.bytes.getD (pa - d.pa) 0
  | none => s.mem.read pa

/-- A byte of a snapshot word as a gang reads it (R179): its stores since its last PHASE, newest first, then engine writes
that a Wait covers, then the snapshot. What a TCOMMIT has published stands over the older stores that it left (R185). -/
def readSnapshot (u : Unit) (pa : Nat) : Byte :=
  match (u.txn.bind (fun t => Overlay.find t.own pa)), Overlay.find u.committed pa, Overlay.find u.own pa, Overlay.find u.engineSeen pa with
  | some b, _, _, _ => b
  | _, some b, _, _ => b
  | _, _, some b, _ => b
  | _, _, _, some b => b
  | _, _, _, _ => u.snapshot.read pa

/-- Bytes as a slice of a unit reads them. An engine member keeps no snapshot and reads what is published (R177). -/
def readView (s : State) (u : Unit) (j : Nat) (direct : Bool) (pa n : Nat) : List Byte :=
  (List.range n).map (fun i =>
    if direct then readDirect s u j (pa + i)
    else if u.id.kind = .gang ∨ u.id.kind = .mgmt then readSnapshot u (pa + i)
    else s.mem.read (pa + i))

/-! ### Outstanding operations (R29, R30) -/

/-- Operations whose work is complete leave once every older one of their class has completed (R30). -/
def retireOps : List Nat → List Outstanding → List Outstanding
  | _, [] => []
  | held, o :: os =>
    if o.left = 0 ∧ !held.contains o.cls then retireOps held os else o :: retireOps (o.cls :: held) os

/-- An operation counted in its class (R29): `left` parts of it are still to complete. -/
def addOp (u : Unit) (cls id left : Nat) (store : Bool) : Unit :=
  let o : Outstanding := { cls := cls, id := id, left := left, store := store }
  { u with ops := u.ops ++ [o] }

/-- One part of operation `id` completes. -/
def completeOp (u : Unit) (id : Nat) : Unit :=
  { u with ops := retireOps [] (u.ops.map (fun o => if o.id == id then { o with left := o.left - 1 } else o)) }

/-! ### Publication (R176, R185) -/

/-- The 4 KiB page of an address. -/
def pageOf (va : W64) : Nat := va.toNat / 4096 * 4096

/-- Lines, or pages, that join a list. -/
def addLines {α : Type} [BEq α] (set lines : List α) : List α := lines.foldl (fun m l => if m.contains l then m else m ++ [l]) set

/-- A unit that lines published by another reach: it notes them until its next PHASE, and a transaction that has read one is
doomed (R185, R359). -/
def Unit.reached (lines : List Nat) (x : Unit) : Unit :=
  { x with
    published := addLines x.published lines
    txn := x.txn.map (fun t => { t with doomed := t.doomed || lines.any (fun l => t.reads.contains l) }) }

/-- Lines published by a unit reach every other one, those of saved teams too. -/
def doom (s : State) (by_ : UnitId) (lines : List Nat) : State :=
  { s.mapUnits (fun x => x.id != by_) (Unit.reached lines) with
    saved := s.saved.map (fun y => { y with units := y.units.map (Unit.reached lines) }) }

/-- Bytes published at one point: memory takes them, poison of whole units clears, readers in transactions are doomed. -/
def publishAt (s : State) (by_ : UnitId) (pa : Nat) (bs : List Byte) : State :=
  let s := clearPoison { s with mem := s.mem.writeBytes pa bs } pa bs.length
  doom s by_ ((List.range bs.length).map (fun i => (pa + i) / 128))

/-! ### The log -/

/-- WIN of an entry: a gang's own window; for an engine member the lowest among its team's gangs (R354). -/
def windowOf (s : State) (u : Unit) : W32 :=
  if u.eng = 0 then u.winno
  else
    match s.units.filter (fun x => x.team == u.team && x.id.kind == .gang && !x.exited) with
    | [] => u.winno
    | x :: xs => xs.foldl (fun w y => if y.winno.toNat < w.toNat then y.winno else w) x.winno

/-- A log entry of a unit; `pa` and `direct` place its word, `held` marks a store not yet published or performed. -/
def entryOf (s : State) (u : Unit) (kind : BitVec 4) (va : W64) (n : Nat) (old : W64) (pa : Nat) (direct held : Bool) :
    LogEntry :=
  { id := s.nextId, va := va, lsz := BitVec.ofNat 2 (if n = 0 then 0 else Nat.log2 n), eng := u.eng, old := old, win := windowOf s u
    gang := u.gangId, owner := u.gangId, kind := kind, core := u.id.core, ctx := u.ctx, team := u.team, ring := u.logbase
    ringSize := u.logsz, pa := pa, direct := direct, order := if held then none else some s.nextId, edge := u.edges, spilled := none }

/-- An entry appended to the log (R352). -/
def append (s : State) (e : LogEntry) : State := { s with log := s.log ++ [e], nextId := s.nextId + 1 }

/-- The entry of a write about to happen, with the value overwritten (R206). -/
def logWrite (s : State) (u : Unit) (kind : BitVec 4) (va : W64) (old : List Byte) (pa : Nat) (direct held : Bool) : State :=
  append s (entryOf s u kind va old.length (BitVec.ofNat 64 (fromLe old)) pa direct held)

/-- A mark: ADDR is the PC of the action (R352). -/
def logMark (s : State) (u : Unit) (kind : BitVec 4) (pc : W64) : State := append s (entryOf s u kind pc 0 0 0 false false)

/-- The 32 bytes of an entry (R352). -/
def entryBytes (e : LogEntry) : List Byte :=
  leBytes (e.va.toNat % 2 ^ 56 + e.lsz.toNat * 2 ^ 56 + e.eng.toNat * 2 ^ 58) 8 ++ leBytes e.old.toNat 8
    ++ leBytes e.win.toNat 4 ++ leBytes (e.gang.toNat + e.kind.toNat * 2 ^ 18) 4 ++ leBytes 0 8

/-- An access of the log or of the trace to a context's own memory (R333). -/
def regionRequester (ctx core : Nat) : Requester :=
  { ctx := ctx, core := core, levelS := false, access := .write, op := .device, weight := false }

/-- The place of an address in such a region, on a page with WRITE, USER and TRACE (R333). -/
def regionPlace (s : State) (ctx core : Nat) (va : W64) : Option (Nat × BitVec 12) :=
  match translate s (regionRequester ctx core) va with
  | .ok (pa, a) => if attrTrace a then some (pa, a) else none
  | .error _ => none

/-- The parts of a range that lie in one 4 KiB page each: offset and length. -/
def pageParts : Nat → Nat → Nat → Nat → List (Nat × Nat)
  | 0, _, _, _ => []
  | fuel + 1, a, n, off =>
    if n = 0 then []
    else
      let k := min n (4096 - a % 4096)
      (off, k) :: pageParts fuel (a + k) (n - k) (off + k)

/-- Where the parts of a range of such a region lie: place, offset and length; none if one of them cannot be written. -/
def regionParts (s : State) (ctx core : Nat) (va : W64) (n : Nat) : Option (List (Nat × Nat × Nat)) :=
  (pageParts (n / 4096 + 2) va.toNat n 0).foldr (fun p acc =>
    match regionPlace s ctx core (va + BitVec.ofNat 64 p.1), acc with
    | some (pa, _), some ps => some ((pa, p.1, p.2) :: ps)
    | _, _ => none) (some [])

/-- Bytes at such parts. -/
def readParts (s : State) (ps : List (Nat × Nat × Nat)) : List Byte := ps.flatMap (fun p => s.mem.readBytes p.1 p.2.2)

/-- Bytes published there. -/
def writeParts (s : State) (by_ : UnitId) (ps : List (Nat × Nat × Nat)) (bs : List Byte) : State :=
  ps.foldl (fun s p => publishAt s by_ p.1 ((bs.drop p.2.1).take p.2.2)) s

/-- The physical address of a ring's header, when its page can be written (R352). -/
def ringHeader (s : State) (ctx core : Nat) (base : W64) : Option Nat := (regionPlace s ctx core base).map (fun p => p.1)

/-- Where entry byte number `p` of a ring lies (R352). -/
def ringByte (base size : W64) (p : Nat) : W64 := base + BitVec.ofNat 64 (64 + p % (size.toNat - 64))

/-- HEAD, TAIL and the capacity in entries of a ring; an unusable one has none (R333, R352). -/
def ringState (s : State) (ctx core : Nat) (base size : W64) : Nat × Nat × Nat :=
  match ringHeader s ctx core base with
  | none => (0, 0, 0)
  | some pa => (fromLe (s.mem.readBytes pa 8), fromLe (s.mem.readBytes (pa + 8) 8), (size.toNat - 64) / 32)

/-- Of `k` positions from byte number `p` on, how many can be written before one that cannot (R333). -/
def writable (s : State) (ctx core : Nat) (base size : W64) (p k : Nat) : Nat :=
  ((List.range k).takeWhile (fun i => (regionParts s ctx core (ringByte base size (p + 32 * i)) 32).isSome)).length

/-- Positions for `k` further entries that a ring has free and whose pages can be written. -/
def ringRoom (s : State) (ctx core : Nat) (base size : W64) (k : Nat) : Nat :=
  let (head, tail, cap) := ringState s ctx core base size
  writable s ctx core base size head (min k (cap - (head - tail) / 32))

/-- The log as a unit that writes to memory of its own: no unit has this name. -/
def logWriter (core : Nat) : UnitId := { core := core, kind := .gang, slot := 64 }

/-- Eight bytes of a ring's header written (R352). -/
def writeHeader (s : State) (core pa off x : Nat) : State := publishAt s (logWriter core) (pa + off) (leBytes x 8)

/-! ### Rings that cannot be written (R159, R333) -/

/-- Tracing of a context suspends (R159, R333). -/
def suspendTrace (s : State) (ctx : Nat) : State :=
  let c := s.ctx ctx
  s.setCtx ctx { c with trstat := c.trstat ||| 2 }

/-- A log write to a page without TRACE also suspends tracing (R159). -/
def meetUntraced (s : State) (ctx core : Nat) (va : W64) : State :=
  match translate s (regionRequester ctx core) va with
  | .ok (_, a) => if attrTrace a then s else suspendTrace s ctx
  | .error _ => s

/-- Whether a spill has found a ring unusable (R333). -/
def ringLost (s : State) (ctx : Nat) (base : W64) : Bool := s.ringsLost.contains (ctx, base)

/-- A ring found unusable, or usable again (log entry 21). -/
def setRingLost (s : State) (ctx : Nat) (base : W64) (lost : Bool) : State :=
  let rest := s.ringsLost.filter (fun r => r != (ctx, base))
  { s with ringsLost := if lost then (ctx, base) :: rest else rest }

/-- Entries of a core that its log slice still holds. -/
def unspilled (s : State) (core : Nat) : List LogEntry := s.log.filter (fun e => e.core == core && e.spilled == none)

/-- Entries that a core's log slice holds, or that its pending atomics and its units' harrow commands will append. -/
def heldEntries (s : State) (core : Nat) : Nat :=
  let rows := s.cores.foldl (fun n c => c.harrow.foldl (fun n k => if k.unit.core = core then n + k.room else n) n) 0
  s.units.foldl (fun n u => if u.id.core = core then n + u.atomics.length else n) ((unspilled s core).length + rows)

/-- Whether `k` further entries of a unit find room in the slice or the ring (R355). With its ring unusable the log is as good as full
(R333). -/
def logFits (s : State) (u : Unit) (k : Nat) : Bool :=
  let n := heldEntries s u.id.core + k
  let more := n - Config.logSliceEntries
  k = 0 || !ringLost s u.ctx u.logbase && (more = 0 || decide (more ≤ ringRoom s u.ctx u.id.core u.logbase u.logsz more))

/-- The owner of an entry: a window of one gang of one team. -/
def LogEntry.key (e : LogEntry) : Nat × BitVec 18 × BitVec 2 × W32 := (e.team, e.owner, e.eng, e.win)

/-- Entries of a unit's own log. -/
def LogEntry.of (e : LogEntry) (u : Unit) : Bool := e.team == u.team && e.owner == u.gangId && e.eng == u.eng

/-- The entries that DROP-OLDEST loses to make room for `k` more (R355): the oldest of the ring, then of the slice; and the
ring's TAIL behind them. With the ring unusable, which counts as a full log, each further entry takes the place of an older one
(R333). -/
def lostEntries (s : State) (u : Unit) (k : Nat) : List LogEntry × Nat :=
  let (head, tail, cap) := ringState s u.ctx u.id.core u.logbase u.logsz
  let more := heldEntries s u.id.core + k - Config.logSliceEntries
  let need := if ringLost s u.ctx u.logbase then max k more else more
  let fit := writable s u.ctx u.id.core u.logbase u.logsz head (min need cap)
  let tail' := max tail (head + 32 * fit - 32 * cap)
  (s.log.filter (fun e => e.ctx == u.ctx && e.ring == u.logbase && (match e.spilled with | some p => p < tail' | none => false))
    ++ (unspilled s u.id.core).take (need - fit), tail')

/-- E of a gang past the windows that lost entries (R355). -/
def pastLost (keys : List (Nat × BitVec 18 × BitVec 2 × W32)) (x : Unit) : Unit :=
  { x with earliest := keys.foldl (fun e k =>
      if k.1 == x.team && k.2.1 == x.gangId && k.2.2.1 == x.eng then max e (k.2.2.2.toNat + 1) else e) x.earliest }

/-- A window lost to DROP-OLDEST is discarded whole and its gang's E advances past it, saved gangs' too (R355). -/
def discardWindows (s : State) (lost : List LogEntry) : State :=
  let keys := lost.map LogEntry.key
  { s with
    log := s.log.filter (fun e => !keys.contains e.key)
    units := s.units.map (pastLost keys)
    saved := s.saved.map (fun y => { y with units := y.units.map (pastLost keys) }) }

/-- Whether entries belong to windows of a running transaction, which are never discarded (R355). -/
def txnKeeps (s : State) (lost : List LogEntry) : Bool :=
  s.units.any (fun x => match x.txn with
    | some t => lost.any (fun e => e.of x && decide (t.win.toNat ≤ e.win.toNat))
    | none => false)

/-- What an append of `k` entries meets (R355, R360). -/
inductive Room where
  | room (s : State)
  | trap
  | abort
  | wait
  deriving DecidableEq, Repr

/-- Room for `k` entries of a unit: there, made under DROP-OLDEST, refused under TRAP, or short of a running transaction. -/
def makeRoom (s : State) (u : Unit) (k : Nat) : Room :=
  if logFits s u k then .room s
  else if u.txn.isSome then .abort
  else if u.logpol.getLsbD 0 then .trap
  else
    let (lost, tail') := lostEntries s u k
    if txnKeeps s lost then .wait
    else
      let s := discardWindows s lost
      match ringHeader s u.ctx u.id.core u.logbase with
      | some pa => .room (writeHeader s u.id.core pa 8 tail')
      | none => .room (meetUntraced s u.ctx u.id.core u.logbase)

/-! ### Writes -/

/-- Poison that an overlay covers whole is cleared by its publication (R363). -/
def clearCovered (s : State) (o : Overlay) : State :=
  { s with poison := s.poison.filter (fun a =>
      let (b, k) := poisonUnit a
      !(List.range k).all (fun i => (Overlay.find o (b + i)).isSome)) }

/-- An overlay published at one point of the publication order. -/
def publishOverlay (s : State) (by_ : UnitId) (o : Overlay) : State :=
  doom (clearCovered { s with mem := Overlay.publish o s.mem } o) by_ (o.map (fun c => c.1 / 128))

/-- Whether a scratchpad write reaches its core: after the last member of the footprint's team has exited it is discarded
(R365). -/
def footprintLive (s : State) (pa : Nat) : Bool :=
  match placeOf pa with
  | .scratch c => s.teams.any (fun t => t.cores.contains c && !t.ended)
  | _ => true

/-- The launch of a unit. -/
def launchOf (s : State) (u : Unit) : Option Launch := (s.team? u.team).bind (fun t => s.launch? t.launch)

/-- Whether a physical address lies in a weight store (R166). -/
def onWeight (pa : Nat) : Bool := match placeOf pa with | .weight _ => true | _ => false

/-- Whether an address lies in a weight store in its refresh window (R166). -/
def inRefresh (s : State) (pa : Nat) : Bool :=
  match placeOf pa with
  | .weight d => s.refresh.any (fun w => w.1 == d)
  | _ => false

/-- Bytes of a weight store written by a weight-load launch: held until its completion publishes them (R166). -/
def holdWeights (s : State) (u : Unit) (pa : Nat) (bs : List Byte) : State :=
  match launchOf s u with
  | some l => s.setLaunch { l with weights := Overlay.putBytes l.weights pa bs }
  | none => s

/-- A byte as an engine of a launch finds it: a weight it has written, else memory. -/
def weightByte (s : State) (u : Unit) (pa : Nat) : Byte :=
  match (launchOf s u).bind (fun l => Overlay.find l.weights pa) with
  | some b => b
  | none => s.mem.read pa

/-- Weights given back by an undo are no longer held. -/
def dropWeights (s : State) (pa n : Nat) : State :=
  if onWeight pa then { s with launches := s.launches.map (fun l => { l with weights := Overlay.dropBytes l.weights pa n }) } else s

/-- A direct write performed. -/
def performAt (s : State) (pa : Nat) (bs : List Byte) : State :=
  if footprintLive s pa then clearPoison { s with mem := s.mem.writeBytes pa bs } pa bs.length else s

/-- Queued commands of a unit that the direct store at place `i` held back (R215). -/
def passDirect (s : State) (id : UnitId) (i : Nat) : State :=
  { s with cores := s.cores.map (fun c => { c with sluice := c.sluice.map (fun k =>
      if k.unit == id && decide (i < k.fencedDirect) then { k with fencedDirect := k.fencedDirect - 1 } else k) }) }

/-- The entry of a unit's oldest pending store to a direct word takes its place in the order of performings (R175). -/
def orderDirect (s : State) (u : Unit) (pa : Nat) : State :=
  let mine (e : LogEntry) : Bool := e.of u && e.pa == pa && e.direct && e.order == none
  { s with log := s.log.mapIdx (fun i e => if i == s.log.findIdx mine && mine e then { e with order := some s.nextId } else e)
           nextId := s.nextId + 1 }

/-- The oldest direct store of a unit to a destination core, performed (R161), unless an atomic of the unit on that core
was issued before it (R178, R213). -/
def performDirect (s : State) (u : Unit) (dest : Nat) : State × Unit :=
  match u.direct.find? (fun d => d.dest == dest) with
  | none => (s, u)
  | some d =>
    if (u.atomics.take d.after).any (fun a => scratchCore a.pa == some dest) then (s, u) else
    let i := u.direct.findIdx (fun d => d.dest == dest)
    (passDirect (performAt (orderDirect s u d.pa) d.pa d.bytes) u.id i,
     { u with direct := u.direct.eraseIdx i, fencedDirect := if i < u.fencedDirect then u.fencedDirect - 1 else u.fencedDirect })

/-- One store of a slice (R161, R162, R206): logged with the value it overwrites, then pending on a direct page, or held
unpublished, in the transaction's write set if one runs. Stores to host pages leave an irreversible mark (R206). DESIGN CHOICE (log
entry 25): a vector store, which calls this once for each lane that stores, counts each in GLOBAL (R29, R205). -/
def storeBytes (s : State) (u : Unit) (j : Nat) (pc va : W64) (pa : Nat) (a : BitVec 12) (bs : List Byte) : State × Unit :=
  let old := readView s u j (isDirect a) pa bs.length
  let win := windowOf s u
  let page := spanOf s u.ctx u.id.core va
  let u := { u with autoCount := u.autoCount + 1 }
  let s := match placeOf pa with
    | .host => logMark s u 3 pc
    | _ => logWrite s u 0 va old pa (isDirect a) true
  if isDirect a then
    let dest := match placeOf pa with | .scratch c => c | _ => 0
    let d : DirectStore := { slice := j, dest := dest, pa := pa, va := va, page := page, bytes := bs, win := win, after := u.atomics.length }
    (s, { u with direct := u.direct ++ [d] })
  else
    let (id, s) := s.fresh
    let u := addOp u 2 id 1 true
    match u.txn with
    | some t =>
      let ws := if t.writes.contains (pa / 128) then t.writes else t.writes ++ [pa / 128]
      (s, { u with txn := some { t with own := Overlay.putBytes t.own pa bs, pages := addLines t.pages [page], writes := ws } })
    | none => (s, { u with ownPages := addLines u.ownPages [page], own := Overlay.putBytes u.own pa bs, committed := Overlay.dropBytes u.committed pa bs.length })

/-! ### Windows and checkpoints (R352, R353) -/

/-- The numbers of the registers a mask names. -/
def regsOf (m : W64) : List Reg := (List.range 64).filterMap (fun i => if m.getLsbD i then some (BitVec.ofNat 6 i) else none)

/-- KIND 8 data of one slice: the block's length and its free contents, then the live registers (R352). -/
def checkpointData (nonce : Nat) (t : Slice) (liveS liveV : W64) : List W64 :=
  Config.blockEntries.setWidth 64 :: (List.range Config.blockEntries.toNat).map (fun i => Config.freeValue (nonce + i))
    ++ (regsOf liveS).map (fun r => t.getS r)
    ++ (regsOf liveV).flatMap (fun r => [t.getV r 1 ++ t.getV r 0, t.getV r 3 ++ t.getV r 2])

/-- Entries that a checkpoint of the unit's slices takes, the opening entry included. -/
def checkpointSize (u : Unit) (liveS liveV : W64) : Nat :=
  1 + (u.slices.filter Slice.alive).length * (1 + Config.blockEntries.toNat + (regsOf liveS).length + 2 * (regsOf liveV).length)

/-- A result that has arrived: the register holds it and is full. -/
def landResult (t : Slice) : Result → Slice
  | .scalar r x => (t.putS r x).fillS r
  | .scalarWait r => t.fillS r
  | .vector r pair lanes _ lo hi _ =>
    let t := (lanesOf lanes).foldl (fun t l =>
      let t := t.putV r l lo[l]
      if pair then t.putV (r + 1) l hi[l] else t) t
    t.fillV r pair

/-- Whether a result can land now. -/
def Result.ready : Result → Bool
  | .scalar _ _ => true
  | .scalarWait _ => false
  | .vector _ _ _ missing _ _ _ => missing == 0

/-- The results that are ready have landed. -/
def landReady (t : Slice) : Slice :=
  { (t.results.filter Result.ready).foldl landResult t with results := t.results.filter (fun r => !r.ready) }

/-- The register that a parked instruction has emptied, which it will empty anew when it issues again. -/
def Slice.waitReg (t : Slice) : Option Reg :=
  match t.run with
  | .parked (.mwait _ _ _ _ _ d) _ _ | .parked (.chwait _ _ d) _ _ => some d
  | _ => none

/-- The wait of a slice given up: the register of its instruction keeps what it held. -/
def Slice.unwait (t : Slice) : Slice :=
  match t.waitReg with
  | some d => { t.fillS d with results := t.results.filter (fun r => r != .scalarWait d) }
  | none => t

/-- A slice as a checkpoint holds it: at the instruction that it issues next, with the results that are there; those that are
not yet there reach it later (R352, R353). -/
def Slice.captured (t : Slice) : Slice := landReady t.unwait

/-- A checkpoint taken: its mark (window open 4, region edge 6, transaction begin 7), its data, and the unit's record of it. -/
def takeCheckpoint (s : State) (u : Unit) (kind : BitVec 4) (pc : W64) (liveS liveV : W64) : State × Unit :=
  let s := logMark s u kind pc
  let s := (u.slices.filter Slice.alive).foldl (fun s t =>
    let s' := (checkpointData s.nonce t.captured liveS liveV).foldl (fun s x => append s (entryOf s u 8 pc 0 x 0 false false)) s
    { s' with nonce := s'.nonce + Config.blockEntries.toNat }) s
  let c : Checkpoint :=
    { win := u.winno, edge := u.edges, liveS := liveS, liveV := liveV, slices := u.slices.map Slice.captured }
  (s, { u with checkpoints := u.checkpoints ++ [c] })

/-- Window n + 1 opens (R353): LOGPOL and LOGBASE written since take effect (R337), region edges are counted anew. At the
last window number nothing opens (R376). -/
def openWindow (s : State) (u : Unit) (kind : BitVec 4) (pc : W64) (liveS liveV : W64) : State × Unit :=
  if u.winno = 0xFFFFFFFF#32 then (s, u)
  else takeCheckpoint s { u with winno := u.winno + 1, edges := 0, logpol := u.nextLogpol, logbase := u.nextLogbase } kind pc liveS liveV

/-- Every v and s register is live. -/
def allLive : W64 := ~~~0

/-- A unit's queued sluice commands no longer hold stores that a PHASE has published (R215). -/
def forgetHeld (s : State) (id : UnitId) : State :=
  { s with cores := s.cores.map (fun c =>
      { c with sluice := c.sluice.map (fun k => if k.unit == id then { k with held := [], may := [] } else k) }) }

/-- The gang's PHASE takes its place (R214, R354): its stores are published at one point, its snapshot is the memory there,
the context's seed is seen (R337), and a phase mark is appended. The window that PHW opens comes after the instruction
(R353). -/
def doPhase (s : State) (u : Unit) (pc : W64) : State × Unit :=
  let s := publishOverlay s u.id u.own
  let s := { s with log := s.log.map (fun e =>
                      if e.of u && !e.direct && e.order == none then { e with order := some s.nextId } else e)
                    nextId := s.nextId + 1 }
  let u := { u with published := [], own := [], ownPages := [], committed := [], engineSeen := [], fenced := [], snapshot := s.mem
                    srseed := (s.ctx u.ctx).srseed }
  (logMark (forgetHeld s u.id) u 5 pc, u)

end Sys2Proof.Machine
end

