-- ==== Sys2Proof/Machine/Pending.lean ====
section
/-! DEFINITION. What a unit has issued and not yet performed: its atomics, their results and its direct stores, performed in their order
(03_state R25, R30, 09_memory_places R161-R163, 10_ordering_axioms R178, 11_memory_instructions R210-R213). -/

namespace Sys2Proof.Machine

/-! ### Frames (R346) -/

/-- The unit as the state holds it now, for after a change to every unit. -/
def refresh (s : State) (u : Unit) : Unit := (s.unit? u.id).getD u

/-- Where the frame of a gang's slot lies (R346). -/
def framePa (u : Unit) : Nat := scratchPa u.id.core (Config.frameBase + Config.frameBytes * u.id.slot)

/-- Byte offsets in a frame of scalar and of vector register 56 + i of slice j (R346). -/
def savesOff (j i : Nat) : Nat := 256 + 64 * j + 8 * i

def savevOff (j i : Nat) : Nat := 768 + 128 * j + 16 * i

/-- Pieces of a frame written; the poison of words that are written whole clears (R363). -/
def writePieces (s : State) (base : Nat) (ps : List (Nat × List Byte)) : State :=
  ps.foldl (fun s p => clearPoison { s with mem := s.mem.writeBytes (base + p.1) p.2 } (base + p.1) p.2.length) s

/-! ### Operations and results (R25, R30, R211) -/

/-- One part of an operation of a unit completes, and what it allows to retire (R30). -/
def retireOp (s : State) (id : UnitId) (op : Option Nat) : State :=
  match s.unit? id, op with
  | some u, some n => s.setUnit (completeOp u n)
  | _, _ => s

/-- A scalar that a wait was to write: its value on the way. -/
def giveScalar (d : Reg) (x : W64) (t : Slice) : Slice :=
  { t with results := t.results.map (fun r => if r = .scalarWait d then .scalar d x else r) }

/-- The element type of an atomic's TY (R202). -/
def atomT (ty : BitVec 3) : TCode :=
  match ty.toNat with
  | 0 => .n64 | 1 => .i64 | 2 => .n32 | 3 => .i32 | 4 => .f64 | 5 => .f32 | _ => .f16

/-- The new value of an atomic (R210): integers wrap, float ADD rounds under RNE, no flags. -/
def atomNew (op : BitVec 4) (ty : BitVec 3) (old d cmp : Nat) : Nat :=
  let t := atomT ty
  let w := widthOf t
  let f := formatOf t
  let float := WellFormed.floatT t
  let rd (x : Nat) : Int := if signedT t then toInt w x else x % 2 ^ w
  match op.toNat with
  | 0 => if float then (f.deliver .rne false ((f.decode old).add .rne (f.decode d))).1 else (old + d) % 2 ^ w
  | 1 => if float then (fminmax f false old d).1 else if rd d < rd old then d % 2 ^ w else old
  | 2 => if float then (fminmax f true old d).1 else if rd old < rd d then d % 2 ^ w else old
  | 3 => old &&& (d % 2 ^ w)
  | 4 => old ||| (d % 2 ^ w)
  | 5 => old ^^^ (d % 2 ^ w)
  | 6 => d % 2 ^ w
  | _ => if old = cmp % 2 ^ w then d % 2 ^ w else old

/-- What SATOM's sD receives (R211): i32 is sign-extended. -/
def atomResult (ty : BitVec 3) (old : Nat) : W64 :=
  if ty = 3 then (BitVec.ofNat 32 old).signExtend 64 else BitVec.ofNat 64 old

/-- A lane's old value noted in the result that waits for it (R211). -/
def fillLane (d : Reg) (l : Fin 4) (ty : TCode) (old : Nat) (t : Slice) : Slice :=
  let hit (r : Result) : Bool := match r with
    | .vector e _ _ missing _ _ _ => e == d && missing.getLsbD l.val
    | _ => false
  let i := t.results.findIdx hit
  { t with results := t.results.mapIdx (fun k r =>
      if k = i then (match r with
        | .vector e pair lanes missing lo hi xv =>
          if hit r then
            .vector e pair lanes (missing &&& ~~~(laneBit l))
              (lo.set l.val (if pair then BitVec.ofNat 32 old else Slice.narrow ty old) l.isLt)
              (hi.set l.val (BitVec.ofNat 32 (old / 2 ^ 32)) l.isLt) xv
          else r
        | r => r)
      else r) }

/-- What an atomic returns, to its slice and to the checkpoints that await it (R211, R352). -/
def returnAtomic (a : PendingAtomic) (old : Nat) (u : Unit) : Unit :=
  match a.ret, a.lane with
  | none, _ => u
  | some d, none => u.deliver [a.slice] (giveScalar d (atomResult a.ty old))
  | some d, some l => u.deliver [a.slice] (fillLane d l (atomT a.ty) old)

/-- What it returns to a register that its gang's frame holds meanwhile (R346). -/
def returnToFrame (s : State) (u : Unit) (a : PendingAtomic) (old : Nat) : State :=
  match a.ret, a.lane with
  | none, _ => s
  | some d, none => writePieces s (framePa u) [(savesOff a.slice (d.toNat - 56), leBytes (atomResult a.ty old).toNat 8)]
  | some d, some l =>
    let at_ (r : Reg) : Nat := savevOff a.slice (r.toNat - 56) + 4 * l.val
    if widthOf (atomT a.ty) = 64 then
      writePieces s (framePa u) [(at_ d, leBytes (old % 2 ^ 32) 4), (at_ (d + 1), leBytes (old / 2 ^ 32) 4)]
    else writePieces s (framePa u) [(at_ d, leBytes (Slice.narrow (atomT a.ty) old).toNat 4)]

/-! ### Atomics and direct stores in their order (R161, R163, R178, R210, R213) -/

/-- The entry of an atomic (R206, R352): an irreversible mark on a host page. -/
def atomicEntry (s : State) (u : Unit) (a : PendingAtomic) (bs : List Byte) (direct : Bool) : LogEntry :=
  match placeOf a.pa with
  | .host => { entryOf s u 3 a.pc 0 0 a.pa false false with win := a.win }
  | _ => { entryOf s u 1 a.va bs.length (BitVec.ofNat 64 (fromLe bs)) a.pa direct false with win := a.win }

/-- Commands that the atomic at place `i` held back (R215). -/
def passAtomic (s : State) (id : UnitId) (i : Nat) : State :=
  { s with cores := s.cores.map (fun c => { c with sluice := c.sluice.map (fun k =>
      if k.unit == id && decide (i < k.fencedAtomics) then { k with fencedAtomics := k.fencedAtomics - 1 } else k) }) }

/-- The direct stores of a unit to a core that were issued before its atomic at place `i`, performed; `n` bounds them. -/
def performEarlier : Nat → Nat → Nat → State → Unit → State × Unit
  | 0, _, _, s, u => (s, u)
  | n + 1, dest, i, s, u =>
    match u.direct.find? (fun d => d.dest == dest) with
    | none => (s, u)
    | some d =>
      if d.after ≤ i then
        let (s, u) := performDirect s u dest
        performEarlier n dest i s u
      else (s, u)

/-- Two atomics of a unit that are performed in issue order: to one word, or to one core's scratchpad (R163, R178). -/
def inOrder (a b : PendingAtomic) : Bool :=
  a.pa / 8 == b.pa / 8 || (match scratchCore a.pa, scratchCore b.pa with | some c, some d => c == d | _, _ => false)

/-- The places of the atomics of a unit that may be performed next: those that no earlier one must precede (R163, R302). -/
def nextAtomics (u : Unit) : List Nat :=
  (List.range u.atomics.length).filter (fun i => match u.atomics[i]? with
    | some a => !(u.atomics.take i).any (inOrder a)
    | none => false)

/-- A unit's atomic at place `i` performed at its performing point (R163, R210); on a scratchpad after the unit's earlier direct
stores to that core (R178, R213). -/
def performAtomic (s : State) (u : Unit) (i : Nat) (a : PendingAtomic) : State :=
  let (s, u) := match scratchCore a.pa with
    | some dest => performEarlier u.direct.length dest i s u
    | none => (s, u)
  let n := tyBytes a.ty
  let bs := s.mem.readBytes a.pa n
  let old := fromLe bs
  let new := leBytes (atomNew a.op a.ty old (a.data.toNat % 2 ^ (8 * n)) a.cmp.toNat) n
  let direct := match placeOf a.pa with | .scratch _ => true | _ => false
  let s := append (s.setUnit u) (atomicEntry s u a bs direct)
  let s := if direct then performAt s a.pa new else publishAt s u.id a.pa new
  let s := if a.frame then returnToFrame s u a old else s
  let u := if a.frame then refresh s u else returnAtomic a old (refresh s u)
  let u := { u with atomics := u.atomics.eraseIdx i, fencedAtomics := if i < u.fencedAtomics then u.fencedAtomics - 1 else u.fencedAtomics
                    direct := u.direct.map (fun d => { d with after := if i < d.after then d.after - 1 else d.after }) }
  retireOp (passAtomic (s.setUnit u) u.id i) u.id a.retireId

/-- Every direct store of a unit performed, in issue order, behind what comes before each on its core: an atomic that was issued earlier is
performed first (R178, R213). `n` bounds the stores and atomics. -/
def performDirects : Nat → UnitId → State → State
  | 0, _, s => s
  | n + 1, id, s =>
    match s.unit? id with
    | none => s
    | some u => match u.direct with
      | [] => s
      | d :: _ =>
        let i := u.atomics.findIdx (fun a => scratchCore a.pa == some d.dest)
        match u.atomics[i]? with
        | some a => if i < d.after then performDirects n id (performAtomic s u i a)
            else let (s, u) := performDirect s u d.dest; performDirects n id (s.setUnit u)
        | none => let (s, u) := performDirect s u d.dest; performDirects n id (s.setUnit u)

/-- A unit with none of its direct stores pending. -/
def settleDirects (s : State) (u : Unit) : State := performDirects (u.direct.length + u.atomics.length) u.id (s.setUnit u)

end Sys2Proof.Machine
end

