-- ==== Sys2Proof/Machine/Ops.lean ====
section
/-! DEFINITION. The shared operations of instructions: who issues, what an issue ends in, parking, PHASE, aborts, taking a
trap and returning from one (11 R204-R214, 14 R272, 18 R321-R322, 20 R343-R348, R359-R360, 21 R371). -/

namespace Sys2Proof.Machine

/-! ### The issuing group -/

/-- An issue group at its instruction: the unit, the group's slices with the lowest first, and the words. -/
structure Issue where
  unit : Unit
  low : Slice
  rest : List Slice
  word0 : W32
  word1 : W32
  deriving DecidableEq, Repr

namespace Issue

def slices (x : Issue) : List Slice := x.low :: x.rest
def js (x : Issue) : List Nat := x.slices.map (fun t => t.idx)
def pc (x : Issue) : W64 := x.low.pc
/-- Bytes of the instruction (R38). -/
def size (x : Issue) : W64 := if x.word0.getLsbD 0 then 8 else 4

end Issue

/-- The group that State.focus names. -/
def State.issuer (s : State) : Option Issue :=
  match s.focus with
  | none => none
  | some f =>
    match s.unit? f.unit with
    | none => none
    | some u =>
      match u.pick f.slices with
      | [] => none
      | t :: ts => some { unit := u, low := t, rest := ts, word0 := f.word0, word1 := f.word1 }

/-- The active lanes of a slice under mask operand `km` (R21), or those that a replay re-executes (R132). -/
def actOf (t : Slice) (km : Nat) : BitVec 4 :=
  match t.replay with
  | some m => m
  | none => t.mask &&& t.getK km

/-- A gang view assembled from slices (R21). -/
def gangView (ts : List Slice) (f : Slice → BitVec 4) : LaneSet := ts.foldl (fun m t => m ||| laneView (f t) t.idx) 0

/-! ### What an issue ends in -/

/-- A trap to be taken: its class and SUB (R347), the address of classes 3 to 5, the lanes, and for class 3 the pages, and the
vector register that the instruction has emptied. -/
structure Trap where
  cls : Nat
  sub : Nat
  addr : W64 := 0
  active : LaneSet := 0
  replay : LaneSet := 0
  faulted : LaneSet := 0
  lcause : BitVec 128 := 0
  seq : W32 := 0
  ecause : Byte := 0
  async : Bool := false
  pages : List Nat := []
  kind : Access := .read
  queued : Option Reg := none
  deriving DecidableEq, Repr

/-- Class 14, uncorrectable (R363). -/
def poisonTrap (lanes : LaneSet) : Trap := { cls := 14, sub := 1, replay := lanes, faulted := lanes }

/-- The end of an instruction's issue. -/
inductive Done where
  /-- Done; on to the next instruction. -/
  | seq (s : State) (u : Unit)
  /-- Done, with stores or atomics; `phased` when an implied PHASE was part of it. Windows of LOGPOL open here (R353). -/
  | stored (s : State) (u : Unit) (phased : Bool)
  /-- The effect set the PCs. -/
  | jump (s : State) (u : Unit)
  /-- The group stays at the instruction (parked). -/
  | stay (s : State) (u : Unit)
  /-- The instruction ends in a PHASE (R173). -/
  | phase (s : State) (u : Unit) (after : After)
  /-- It does not issue yet. -/
  | stall
  /-- A trap before any effect. -/
  | trap (t : Trap)
  /-- A trap beside the effects of what committed (R131), or after the effect (R382). -/
  | trapAfter (t : Trap) (s : State) (u : Unit)
  /-- The running transaction aborts: cause, trap class, code (R381). -/
  | abort (cause cls code : Nat)
  /-- The whole next state. -/
  | raw (s : State)

/-! ### Moving on -/

/-- On to the next instruction in sequence (R38). -/
def Unit.advance (u : Unit) (js : List Nat) (size : W64) : Unit :=
  u.mapSlices js (fun t => { t with pc := t.pc + size, seqF := true, replay := none })

/-- A control transfer (R271). -/
def Slice.jumpTo (t : Slice) (pc : W64) : Slice := { t with pc := pc, seqF := false, replay := none }

/-- The fetch block of an address. -/
def blockOf (pc : W64) : W64 := pc &&& ~~~63

/-- A slice that has passed the blocks before that of its PC (R58, R261). -/
def Slice.entered (t : Slice) : Slice :=
  if t.blk = blockOf t.pc then t else { t with blk := blockOf t.pc, pos := t.pos + 1 }

/-- Slices of a group that have one next PC stay in one group; others form groups of their own (R272). -/
def Unit.regroup (u : Unit) (js : List Nat) : Unit :=
  let ts := (u.pick js).filter Slice.alive
  u.mapSlices js (fun t =>
    { t with grp := match ts.find? (fun x => x.pc == t.pc) with | some x => x.idx | none => t.idx })

/-- Slices parked at the instruction (R253). -/
def Unit.park (u : Unit) (js : List Nat) (w : Wait) (size : W64) : Unit :=
  u.mapSlices js (fun t => { t with run := .parked w size.toNat false })

/-! ### PHASE (R214) -/

/-- Nothing of the unit is left for a PHASE to wait for (R214 steps 1 and 2). -/
def Unit.quiet (u : Unit) : Bool := u.direct.isEmpty && u.atomics.isEmpty && u.count 2 == 0

/-- The window that LOGPOL opens at the boundary after an instruction (R353). -/
def boundary (s : State) (u : Unit) (pc : W64) (phased : Bool) : State × Unit :=
  let auto := field u.logpol.toNat 8 20
  let due := auto != 0 && auto ≤ u.autoCount
  let u := if due then { u with autoCount := 0 } else u
  if due || (phased && u.logpol.getLsbD 1) then openWindow s u 4 pc allLive allLive else (s, u)

/-- A slice that waits at a WMARK. -/
def atWmark (t : Slice) : Bool := match t.run with | .parked .wmark _ _ => true | _ => false

/-- With every slice that is left at a WMARK, an exit has completed the gathering: one group executes its WMARK again, and
so completes it (R376). -/
def Unit.gathered (u : Unit) : Unit :=
  let live := u.slices.filter Slice.alive
  match live with
  | t :: _ => if live.all atWmark then u.mapSlices ((live.filter (fun y => y.grp == t.grp)).map (fun y => y.idx))
      (fun y => { y with run := .running }) else u
  | [] => u

/-- Slices that execute EXIT end with their tokens (R282). -/
def Unit.exitSlices (u : Unit) (js : List Nat) : Unit :=
  let u := u.mapSlices js (fun t => { t with run := .exited, tokens := [], retStack := [], retSpilled := [] })
  Unit.gathered { u with exited := u.slices.all (fun t => !t.alive) }

/-- The team ends when its last member has exited (R282). -/
def endTeam (s : State) (team : Nat) : State :=
  if s.units.all (fun x => x.team != team || x.exited) then
    { s with teams := s.teams.map (fun t => if t.id == team then { t with ended := true } else t) }
  else s

/-! ### Arrivals at barriers (R290) -/

/-- A count kept by key. -/
def countOf (xs : List (Nat × Nat)) (k : Nat) : Nat := ((xs.find? (fun e => e.1 == k)).map (fun e => e.2)).getD 0
/-- One more. -/
def countUp (xs : List (Nat × Nat)) (k : Nat) : List (Nat × Nat) :=
  (k, countOf xs k + 1) :: xs.filter (fun e => e.1 != k)

/-- A group of a team. -/
def Team.group? (t : Team) (g : Nat) : Option GroupState := t.groups.find? (fun b => b.num == g)
def Team.setGroup (t : Team) (b : GroupState) : Team := { t with groups := t.groups.map (fun x => if x.num == b.num then b else x) }

/-- Passes of a group's BARA that every slice of a member that still runs has made. -/
def memberPasses (u : Unit) (g : Nat) : Nat :=
  match u.slices.filter Slice.alive with
  | [] => countOf u.arrived g
  | t :: ts => ts.foldl (fun n y => min n (countOf y.barPass g)) (countOf t.barPass g)

/-- The arrival of a member whose last slice has made its pass (R290). -/
def arriveAt (s : State) (t : Team) (b : GroupState) (u : Unit) : State × Unit :=
  if countOf u.arrived b.num < memberPasses u b.num ∧ !b.arrived.contains u.id then
    (s.setTeam (t.setGroup { b with arrived := b.arrived ++ [u.id] }), { u with arrived := countUp u.arrived b.num })
  else (s, u)

/-- Slices that exit leave their member's arrivals to the slices that are left (R290). -/
def arriveWithout (s : State) (team : Nat) (id : UnitId) : State :=
  match s.team? team with
  | none => s
  | some t => (t.groups.filter (fun b => b.members.contains id)).foldl (fun s b =>
      match s.team? team, s.unit? id with
      | some t, some u => let (s, u) := arriveAt s t b u; s.setUnit u
      | _, _ => s) s

/-- A PHASE whose waits are over, at the end of an instruction of slices `js`; a WBAR ends only with its round. -/
def completePhase (s : State) (u : Unit) (js : List Nat) (pc size : W64) (after : After) : State :=
  let (s, u) := doPhase s u pc
  let u := match after with
    | .next => (u.advance js size).mapSlices js (fun t => { t with run := .running })
    | .exit => u.exitSlices js
    | .wbar => u.park js .wbar size
  let (s, u) := if after = .wbar then (s, u) else boundary s u pc true
  let s := s.setUnit u
  if after = .exit then endTeam (arriveWithout s u.team u.id) u.team else s

/-! ### Aborts (R359) -/

/-- A slice put back as a checkpoint holds it, with the results that have reached it since; what a checkpoint does not cover
stays (R352, R357). -/
def Slice.restore (cur old : Slice) : Slice :=
  landReady { old with
    pos := cur.pos, blk := cur.blk, age := cur.age, served := cur.served, withheld := cur.withheld, demand := cur.demand
    handPass := cur.handPass, barPass := cur.barPass, replay := none, behind := none, run := if old.alive then .running else old.run }

/-- Every slice put back from a checkpoint's slices. -/
def Unit.restoreSlices (u : Unit) (olds : List Slice) : Unit :=
  { u with slices := u.slices.map (fun t => match olds.find? (fun o => o.idx == t.idx) with
      | some o => t.restore o
      | none => t) }

/-- Where an undo finds the word of an entry, and whether on a direct page: its address is translated anew in the entry's context, for the
core whose scratchpad holds it or for the gang's own (R314, R320, R334). An address that does not translate then is left alone (log entry
29). -/
def undoPlace (s : State) (e : LogEntry) : Option (Nat × Bool) :=
  let r : Requester :=
    { ctx := e.ctx, core := if e.direct then (scratchCore e.pa).getD e.core else e.core, levelS := decide (16384 ≤ e.core)
      access := .write, op := .device, weight := true }
  match translate s r e.va with
  | .ok (pa, a) => some (pa, isDirect a)
  | .error _ => none

/-- A word of an entry given back OLD (R357). -/
def giveBack (s : State) (e : LogEntry) : State :=
  let n := 2 ^ e.lsz.toNat
  match undoPlace s e with
  | some (pa, _) => performAt (dropWeights s pa n) pa (leBytes e.old.toNat n)
  | none => s

/-- What an abort leaves of a unit's log and takes from it: entries of the transaction's windows, but for what its TBEGIN appended
(R359, R360). -/
def Txn.entry (t : Txn) (u : Unit) (e : LogEntry) : Bool :=
  e.of u && (decide (t.win.toNat < e.win.toNat) || (e.win == t.win && e.kind != 7 && e.kind != 8))

/-- R359: the running transaction aborts. Its direct stores are performed, in their order among what the gang has issued before (R178), and
undone, its write set is discarded, the TBEGIN checkpoint comes back, s59 says why (R381), and every slice continues at the abort label. -/
def abortTxn (s : State) (u : Unit) (cause cls code : Nat) : State × Unit :=
  let (s, u) := if u.txn.isNone || u.direct.isEmpty then (s, u) else (let s := settleDirects s u; (s, refresh s u))
  match u.txn with
  | none => (s, u)
  | some t =>
    let s := ((s.log.filter (fun e => t.entry u e && e.direct)).reverse).foldl giveBack s
    let s := { s with log := s.log.filter (fun e => !t.entry u e) }
    let why := BitVec.ofNat 64 (cause + cls * 2 ^ 8 + code * 2 ^ 16)
    let u := u.restoreSlices t.slices
    (s, { u with
      txn := none, slices := u.slices.map (fun x => (x.setNow 59 why).jumpTo t.label), edges := if u.winno == t.win then 0 else u.edges
      checkpoints := u.checkpoints.filter (fun c => decide (c.win.toNat < t.win.toNat) || (c.win == t.win && c.edge == 0)) })

/-! ### Requests to S (R321) -/

/-- The fault requests of one die. -/
def dieRequests (s : State) (die : Nat) : Nat := (s.requests.filter (fun r => r.die == die)).length

/-- A request of kind `a` covers a fault of kind `b` (R321). -/
def Access.covers (a b : Access) : Bool := a == b || (a == .write && b == .read)

/-- The outstanding request that covers a fault. -/
def requestFor (s : State) (ctx page : Nat) (kind : Access) : Option FaultRequest :=
  s.requests.find? (fun r => r.ctx == ctx && r.page == page && r.kind.covers kind)

/-- A request for a page: it joins one that covers it, or is posted if the die has room (R321). -/
def postRequest (s : State) (ctx page : Nat) (kind : Access) (die : Nat) : State :=
  if (requestFor s ctx page kind).isSome then s
  else if Config.faultRequestsPerDie ≤ dieRequests s die then s
  else
    let r : FaultRequest := { ctx := ctx, page := page, kind := kind, die := die }
    { s with requests := s.requests ++ [r] }

/-! ### Traps (R343-R347) -/

/-- The scopes of R343. -/
inductive Scope where
  | gang | team | set
  deriving DecidableEq, Repr

def scopeOf (cls : Nat) : Scope :=
  if cls = 10 ∨ cls = 11 ∨ cls = 12 then .gang else if cls = 4 ∨ cls = 14 then .set else .team

/-- Classes that DELEG can delegate (R343). -/
def delegable (cls : Nat) : Bool := cls == 0 || cls == 1 || (5 ≤ cls && cls ≤ 13)

/-- The teams of the co-scheduled set of a team (R250). -/
def setTeams (s : State) (team : Nat) : List Nat :=
  match s.team? team with
  | none => [team]
  | some t => (s.teams.filter (fun x => x.launch == t.launch && x.set == t.set)).map (fun x => x.id)

/-- The halt broadcast of a trap: the other units of the scope stop within the skid (R344). A gang that runs a handler of its
own goes on with it (R345), but for a halt of the set. -/
def broadcastHalt (s : State) (u : Unit) (scope : Scope) (cause : Nat) : State :=
  let teams := match scope with | .gang => [] | .team => [u.team] | .set => setTeams s u.team
  s.mapUnits (fun x => teams.contains x.team && x.id != u.id && x.halt == .none && !x.exited
      && (x.handler.isNone || scope == .set))
    (fun x => { x with halt := .pending u.gangId.toNat cause 0 })

/-- CAUSE (R347). -/
def causeWord (t : Trap) (halted intx : Bool) (origin : Nat) : Nat :=
  t.cls + bit01 halted * 2 ^ 4 + bit01 intx * 2 ^ 5 + bit01 t.async * 2 ^ 6 + t.sub * 2 ^ 8 + origin * 2 ^ 32

/-- PCS of a frame. -/
def framePcs (u : Unit) : List Byte :=
  (List.range 8).flatMap (fun j => leBytes (((u.slice? j).map (fun t => t.pc.toNat)).getD 0) 8)

/-- The gang view of a frame's LMASK (R346). -/
def lmaskOf (u : Unit) : LaneSet := gangView u.slices (fun t => t.mask)

/-- SLICES of a frame. -/
def slicesField (js : List Nat) : Nat := js.foldl (fun m j => m + 2 ^ j) 0

/-- SAVES and SAVEV of a frame, by their byte offsets (R346). -/
def frameRegs (u : Unit) : List (Nat × List Byte) :=
  u.slices.flatMap (fun t => (List.range 8).flatMap (fun i =>
    let r : Reg := BitVec.ofNat 6 (56 + i)
    [(savesOff t.idx i, leBytes (t.getS r).toNat 8),
     (savevOff t.idx i,
       leBytes (t.getV r 0).toNat 4 ++ leBytes (t.getV r 1).toNat 4 ++ leBytes (t.getV r 2).toNat 4
         ++ leBytes (t.getV r 3).toNat 4)]))

/-! ### Results on their way to registers that a frame holds (R346, R371) -/

/-- A register that a trap frame holds. -/
def inSaves (r : Reg) : Bool := decide (56 ≤ r.toNat)

/-- The register of a result. -/
def Result.reg : Result → Reg
  | .scalar r _ | .scalarWait r | .vector r _ _ _ _ _ _ => r

/-- A result as far as it has come: the lanes still missing keep what the register holds. -/
def Result.soFar : Result → Result
  | .vector r pair lanes missing lo hi xv => .vector r pair (lanes &&& ~~~missing) 0 lo hi xv
  | r => r

/-- A slice at a trap: what is there lands; what is still on its way to a register of the frame goes to the frame. -/
def Slice.divert (t : Slice) : Slice :=
  let t := landReady t
  { (t.results.filter (fun r => inSaves r.reg)).foldl (fun t r => landResult t r.soFar) t with
    results := t.results.filter (fun r => !inSaves r.reg) }

/-- The register that a queued command writes. -/
def SluiceOp.dest : SluiceOp → Option Reg
  | .qsig _ _ d _ | .bgather _ _ _ _ _ d _ => some d
  | _ => none

/-- The same command, whose result reaches no slice. -/
def SluiceOp.toNone : SluiceOp → SluiceOp
  | .qsig head q d _ => .qsig head q d []
  | .bgather head sig near dense chan d _ => .bgather head sig near dense chan d []
  | o => o

/-- Commands of a unit whose result goes to its frame, or no longer does; what a handler has left on its way to a register of the frame
then arrives nowhere (R371). -/
def State.commandsToFrame (s : State) (id : UnitId) (on : Bool) : State :=
  { s with cores := s.cores.map (fun c => { c with sluice := c.sluice.map (fun k =>
      if k.unit == id && (k.op.dest.map inSaves).getD false then
        { k with toFrame := on, op := if on || k.toFrame then k.op else k.op.toNone }
      else k) }) }

/-- A gang at a trap: results on their way to v56-v63 and s56-s63 will reach the frame, where these registers are saved. -/
def Unit.divert (u : Unit) : Unit :=
  { u with slices := u.slices.map Slice.divert
           atomics := u.atomics.map (fun a => if (a.ret.map inSaves).getD false then { a with frame := true } else a) }

/-- The commands of a unit whose result its frame awaits. -/
def frameCommands (s : State) (id : UnitId) : List SluiceCommand :=
  s.cores.flatMap (fun c => c.sluice.filter (fun k => k.unit == id && k.toFrame))

/-- A slice behind its handler: its registers await again what has not yet reached the frame (R371). -/
def Slice.undivert (s : State) (u : Unit) (t : Slice) : Slice :=
  let mine := u.atomics.filter (fun a => a.frame && a.slice == t.idx)
  let zeros : Vector W32 4 := Vector.replicate 4 0
  let await (t : Slice) (a : PendingAtomic) : Slice :=
    match a.ret, a.lane with
    | some d, none => { t.emptyS d with results := t.results ++ [.scalarWait d] }
    | some d, some _ =>
      if t.results.any (fun r => r.reg == d && (match r with | .vector _ _ _ _ _ _ _ => true | _ => false)) then t
      else
        let m : BitVec 4 := (mine.filter (fun b => b.ret == some d)).foldl (fun m b =>
          match b.lane with | some l => m ||| (1#4 <<< l.val) | none => m) 0
        let pair := decide (widthOf (match a.ty.toNat with | 0 => .n64 | 1 => .i64 | 4 => .f64 | _ => .n32) = 64)
        { t.emptyV d pair with results := t.results ++ [.vector d pair m m zeros zeros false] }
    | none, _ => t
  let t := mine.foldl await t
  (frameCommands s u.id).foldl (fun t k => match k.op with
    | .qsig _ _ d js =>
      if js.contains t.idx then { t.emptyV d false with results := t.results ++ [.vector d false 0xF 0xF zeros zeros false] } else t
    | .bgather _ _ _ _ _ d js =>
      if js.contains t.idx then { t.emptyS d with results := t.results ++ [.scalarWait d] } else t
    | _ => t) t

/-- An atomic behind the handler: the trapped program's returns to its register again; one that the handler has left on its way to a
register of the frame returns nowhere (R371). -/
def PendingAtomic.behind (a : PendingAtomic) : PendingAtomic :=
  if a.frame then { a with frame := false } else if (a.ret.map inSaves).getD false then { a with ret := none } else a

/-- The gang behind its handler. -/
def Unit.undivert (s : State) (u : Unit) : Unit :=
  { u with slices := u.slices.map (Slice.undivert s u), atomics := u.atomics.map PendingAtomic.behind }

/-- A frame of zeros (R346). -/
def zeroFrame (s : State) (base : Nat) : State :=
  clearPoison { s with mem := s.mem.clear base (base + Config.frameBytes) } base Config.frameBytes

/-- The frame of a gang that traps (R346). -/
def writeFrame (s : State) (u : Unit) (js : List Nat) (pc : W64) (w0 w1 : W32) (t : Trap) (intx : Bool) : State :=
  let head := leBytes pc.toNat 8 ++ leBytes w0.toNat 4 ++ leBytes (if w0.getLsbD 0 then w1.toNat else 0) 4
    ++ leBytes (causeWord t false intx u.gangId.toNat) 8 ++ leBytes t.active.toNat 4 ++ leBytes t.replay.toNat 4
    ++ leBytes (if t.cls = 3 ∨ t.cls = 4 ∨ t.cls = 5 then t.addr.toNat else 0) 8 ++ leBytes (slicesField js) 4
    ++ leBytes 0 4 ++ leBytes (lmaskOf u).toNat 4 ++ leBytes s.gtick.toNat 8 ++ leBytes 0 4
  writePieces (zeroFrame s (framePa u)) (framePa u) ((0, head) :: (64, framePcs u) :: frameRegs u)

/-- What a stopped sibling writes: CAUSE, LMASK, PCS, SKID and HTICK (R346). -/
def writeSiblingFrame (s : State) (u : Unit) (cause : Nat) (intx : Bool) (origin skid : Nat) : State :=
  let t : Trap := { cls := cause % 16, sub := cause / 2 ^ 8 }
  writePieces s (framePa u) [(16, leBytes (causeWord t true intx origin) 8), (44, leBytes skid 4),
    (48, leBytes (lmaskOf u).toNat 4), (52, leBytes s.gtick.toNat 8), (64, framePcs u)]

/-- The side-buffer record of a trap (R372). -/
def sideOf (t : Trap) : SideBuffer :=
  { replay := t.replay, faulted := t.faulted, lcause := t.lcause, seq := t.seq, ecause := t.ecause
    cls := BitVec.ofNat 4 t.cls }

/-- Entry to the handler: the trapping group at TRAPBASE + class × 0x40 with every launched lane (R346). -/
def enterHandler (s : State) (u : Unit) (js : List Nat) (cls : Nat) : Unit :=
  let pc := (s.ctx u.ctx).trapbase + BitVec.ofNat 64 (cls * 0x40)
  let g := js.foldl min 7
  let u := u.mapSlices js (fun t => { t.entered.jumpTo pc with mask := 0xF, grp := g, run := .running })
  { u with handler := some js, halt := .none }

/-- A report to the management cores (R310). -/
def report (s : State) (u : Unit) (t : Trap) (pc : W64) : State :=
  let r : Report := { unit := u.id, cls := t.cls, sub := t.sub, pc := pc }
  { s with reports := s.reports ++ [r] }

/-- A slice at a trap: an asynchronous one puts off the replay that the slice was about to issue (R132, R224). -/
def Slice.putOff (async : Bool) (t : Slice) : Slice :=
  { t with behind := if async then t.replay.map (fun m => (t.pc, m)) else none }

/-- A trap that stops the gang, with no transaction running (R343-R346). One of an instruction of the handler itself is
class 14, nested (R345); one of a command is not. -/
def stopGang (s : State) (u : Unit) (js : List Nat) (pc : W64) (w0 w1 : W32) (t : Trap) (intx : Bool) : State :=
  let nested := !t.async && (match u.handler with | some hs => js.any (fun j => hs.contains j) | none => false)
  let t := if nested then { t with cls := 14, sub := 3 } else t
  let deleg := !nested && delegable t.cls && (s.ctx u.ctx).deleg.getLsbD t.cls
  let u := { u.divert.mapSlices js (Slice.putOff t.async) with side := sideOf t }
  let s := writeFrame (s.commandsToFrame u.id true) u js pc w0 w1 t intx
  let u := if deleg then enterHandler s u js t.cls else { u with halt := .trapped t.cls }
  let s := s.setUnit u
  let s := if deleg then s else report s u t pc
  broadcastHalt s u (scopeOf t.cls) (t.cls + t.sub * 2 ^ 8)

/-- A trap of an engine member or of a management core: it stops where it is and S is told, whatever DELEG holds (R265). -/
def stopMember (s : State) (u : Unit) (t : Trap) (pc : W64) : State :=
  let s := report (s.setUnit { u with halt := .trapped (t.cls + 16 * bit01 t.async) }) u t pc
  broadcastHalt s u (match scopeOf t.cls with | .gang => .team | sc => sc) (t.cls + t.sub * 2 ^ 8)

/-- The register of a faulted replayable load or atomic stays empty until the replay of its faulted lanes (R28, R132): they are
missing in the result that the instruction has just queued. -/
def Slice.awaitReplay (d : Reg) (lanes : BitVec 4) (t : Slice) : Slice :=
  { t with results := t.results.map (fun y => match y with
      | .vector r pair done missing lo hi xv => .vector r pair done (if r = d then missing ||| lanes else missing) lo hi xv
      | y => y) }

/-- A recoverable fault parks the gang and posts its requests (R321, R322); faulted lanes are replayed alone (R132, R133). The record
of a handler's trap stays for its TRET (R133). -/
def parkOnPages (s : State) (u : Unit) (js : List Nat) (t : Trap) : State :=
  let (s, u, js) : State × Unit × List Nat := match u.txn with
    | none =>
      let again (x : Slice) : Slice :=
        if t.faulted = 0 then x
        else
          let m := laneBits t.replay x.idx
          { (match t.queued with | some d => x.awaitReplay d m | none => x) with replay := some m }
      (s, u.mapSlices js again, js)
    | some _ =>
      let (s, u) := abortTxn s u 10 0 0
      (s, u, (u.slices.filter Slice.alive).map (fun x => x.idx))
  let u := { u with side := if u.handler.isSome then u.side else sideOf t }
  let s := s.setUnit (u.park js (.page t.pages t.kind) 0)
  t.pages.foldl (fun s p => postRequest s u.ctx p t.kind (coreDie u.id.core)) s

/-- Taking a trap: class 3 parks, a transaction aborts first (R360), and any other trap stops its scope. -/
def takeTrap (s : State) (u : Unit) (js : List Nat) (pc : W64) (w0 w1 : W32) (t : Trap) : State :=
  if t.cls = 3 then parkOnPages s u js t
  else if u.id.kind ≠ .gang then stopMember s u t pc
  else if u.txn.isSome then
    if t.cls = 2 ∨ t.cls = 4 ∨ t.cls = 14 then
      let (s, u) := abortTxn s u 8 0 0
      stopGang s u js pc w0 w1 t true
    else
      let (s, u) := abortTxn s u 6 t.cls 0
      s.setUnit u
  else stopGang s u js pc w0 w1 t false

/-! ### Returning from a trap (R348, R371) -/

/-- The continuations of TRET. -/
inductive TretMode where
  | next | replay | reex
  deriving DecidableEq, Repr

/-- The registers s56-s63 and v56-v63 of a slice from the frame; nothing that the handler left on its way to them arrives
(R371). -/
def restoreHandlerRegs (m : Mem) (base : Nat) (t : Slice) : Slice :=
  (List.range 8).foldl (fun t i =>
    let r : Reg := BitVec.ofNat 6 (56 + i)
    let t := (t.putS r (BitVec.ofNat 64 (fromLe (m.readBytes (base + savesOff t.idx i) 8)))).fillS r
    let lane (l : Fin 4) : W32 := BitVec.ofNat 32 (fromLe (m.readBytes (base + savevOff t.idx i + 4 * l.val) 4))
    let t := [0, 1, 2, 3].foldl (fun t l => t.putV r l (lane l)) t
    t.fillV r false) { t with results := t.results.filter (fun r => !inSaves r.reg) }

/-- Where one slice named in SLICES goes on (R371); a resolving call token is popped by NEXT and REEX (R281). After an asynchronous trap a
replay that was put off issues now (R132). -/
def continueSlice (t : Slice) (mode : TretMode) (async : Bool) (pc own : W64) (size : W64) (replay : LaneSet) : Slice :=
  if async then
    { t.jumpTo own with behind := none
                        replay := match t.behind with | some (at_, m) => if at_ = own then some m else none | none => none }
  else
    let resolving := match t.tokens with | .call _ _ _ cpc _ calling :: _ => !calling && cpc == pc | _ => false
    match mode, replay == 0 with
    | .replay, false => { t.jumpTo pc with replay := some (laneBits replay t.idx) }
    | m, _ =>
      match resolving, t.tokens with
      | true, .call saved _ _ _ _ _ :: ts => { t.jumpTo (pc + size) with mask := saved, tokens := ts }
      | _, _ => if m = .reex then t.jumpTo pc else t.jumpTo (pc + size)

/-- A trap by which another gang stops this one's team, as CAUSE and ORIGIN have it (R344): it runs its handler, or waits for S. -/
def stoppingTrap (s : State) (u : Unit) : Option (Nat × Nat) :=
  (s.units.find? (fun x => x.team == u.team && x.id != u.id && scopeOf x.side.cls.toNat != .gang
      && (x.handler.isSome || (match x.halt with | .trapped _ => true | _ => false)))).map
    (fun x => (x.gangId.toNat, x.side.cls.toNat))

/-- Halt of a gang whose handler has ended: one on its way goes on, and the trap of another gang stops it now (R344, R345). -/
def haltBehind (s : State) (u : Unit) : Halt :=
  match u.halt, stoppingTrap s u with
  | .pending o c k, _ => .pending o c k
  | _, some (o, c) => .pending o c 0
  | _, none => .none

/-- The slices that a frame names. -/
def frameSlices (s : State) (u : Unit) : List Nat :=
  (List.range 8).filter (fun j => fromLe (s.mem.readBytes (framePa u + 40) 1) / 2 ^ j % 2 = 1)

/-- The return of a gang from its trap by its frame (R371): registers back, the named slices on their way, each in the fetch block in which it
trapped (R261), the handler ended. -/
def trapReturn (s : State) (u : Unit) (mode : TretMode) : Unit :=
  let base := framePa u
  let rd (off n : Nat) : Nat := fromLe (s.mem.readBytes (base + off) n)
  let size : W64 := if rd 8 4 % 2 = 1 then 8 else 4
  let js := frameSlices s u
  let lmask : LaneSet := BitVec.ofNat 32 (rd 48 4)
  let u := { u with slices := u.slices.map (restoreHandlerRegs s.mem base), handler := none, halt := haltBehind s u
                    errorHold := u.errorHold && rd 16 8 / 2 ^ 6 % 2 = 0 }
  let u := (Unit.undivert s u).mapSlices js (fun t =>
    let own : W64 := BitVec.ofNat 64 (rd (64 + 8 * t.idx) 8)
    let t := { t with mask := laneBits lmask t.idx, blk := blockOf own, run := if t.alive then .running else t.run }
    continueSlice t mode (rd 16 8 / 2 ^ 6 % 2 = 1) (BitVec.ofNat 64 (rd 0 8)) own size u.side.replay)
  u.regroup js

/-- The state after that return. -/
def afterReturn (s : State) (u : Unit) (mode : TretMode) : State :=
  (s.commandsToFrame u.id false).setUnit (trapReturn s u mode)

/-! ### The issue of an instruction -/

/-- Instructions that abort a running transaction (R152, R220, R223, R295, R340, R377, R379). Stores to host and peer pages
abort where they are translated. -/
def abortsTxn : Instr → Bool
  | .satom _ | .vatom _ | .gatom _ | .patom _ | .mwait _ | .phase _ => true
  | .tcfg _ | .tld _ | .tst _ | .tzero _ | .mma _ | .mloop _ | .mspan _ | .mspanSelf _ | .tbitsNone _ | .tbitsSeed _
  | .tbitsTile _ | .tout _ => true
  | .cpLd _ | .cpSt _ | .cpx _ | .cps _ | .cpred _ | .cpconv _ | .cpstage _ | .moedisp _ | .kst _ | .qsig _
  | .bgather _ => true
  | .exit _ | .hand _ | .bara _ | .barw _ | .wbar _ | .launch _ | .ecall _ | .wmark _ | .wmarkDrop _ | .tbegin _ => true
  | _ => false

/-- The mask operand of an instruction (R46); k0 where it has none. -/
def kmOf : Instr → Nat
  | .vadd o | .vsub o | .vmul o | .vmulh o | .vmad o | .vand o | .vor o | .vxor o | .vshl o | .vshr o | .vsra o | .vmin o
  | .vmax o | .vabs o | .vclz o | .vpopc o | .vcmp o | .vsel o | .fadd o | .fsub o | .fmul o | .ffma o | .fmin o
  | .fmax o | .fsgn o | .fcmp o | .fclass o | .fscale o | .frint o | .fcvt o | .fcvti o | .icvtf o | .bfpack o
  | .frcp o | .frsq o | .fsqrt o | .fexp2 o | .flog2 o | .fsin o | .fcos o | .ftanh o | .fsigm o | .ferf o | .vshuf o
  | .vbcast o | .vred o | .vscan o | .vconf o | .vcomb o | .vcmprs o | .vexpnd o | .xv o | .fdiv o | .vdiv o => o.km
  | .vmov o | .vmovStream o | .vsplat o | .vextr o | .vlane o | .xpush o | .xpop o | .xpeek o | .xdepth o | .xclr o
  | .vldg o | .vstg o | .vatom o | .gatom o | .cpx o | .cps o | .cpred o | .moedisp o | .calli o | .laneinfoV o
  | .vrdn o | .vwrn o => o.km
  | .vld o | .vst o => o.km
  | _ => 0

/-- Loads of lanes, stream reads, and atomics of lanes that return (R208, R211, R284): they empty a vector register. -/
def emptiedVector : Instr → Option Reg
  | .vld o => some o.d
  | .vldg o | .vmovStream o => some o.d
  | .vatom o | .gatom o => if o.retBit then some o.d else none
  | _ => none

/-- A trap with the active lanes of its instruction (R346). -/
def Trap.at (t : Trap) (i : Instr) (x : Issue) : Trap :=
  { t with active := gangView x.slices (fun y => actOf y (kmOf i)), queued := emptiedVector i }

/-- The state after an issue. -/
def finish (i : Instr) (s : State) (x : Issue) : Done → State
  | .seq s' u => s'.setUnit (u.advance x.js x.size)
  | .stored s' u phased =>
    let (s', u) := boundary s' (u.advance x.js x.size) x.pc phased
    s'.setUnit u
  | .jump s' u => s'.setUnit (u.regroup x.js)
  | .stay s' u => s'.setUnit u
  | .phase s' u after =>
    if u.quiet then completePhase s' u x.js x.pc x.size after
    else s'.setUnit (u.park x.js (.phase after) x.size)
  | .stall => s
  | .trap t => takeTrap s x.unit x.js x.pc x.word0 x.word1 (t.at i x)
  | .trapAfter t s' u => takeTrap s' u x.js x.pc x.word0 x.word1 (t.at i x)
  | .abort c k d =>
    let (s', u) := abortTxn s x.unit c k d
    s'.setUnit u
  | .raw s' => s'

/-- The issue of an instruction (R26, R27, R52, R204): a listed one aborts a running transaction; full/empty bits hold it
back or raise class 6; then its own effect. -/
def issue (i : Instr) (s : State) (body : Issue → Done) : Host.Outcome State Fault Refusal :=
  match s.issuer with
  | none => .fault .noIssuer
  | some x =>
    if x.unit.txn.isSome && abortsTxn i then .next (finish i s x (.abort 5 0 0))
    else match holdBack (s.coreAt x.unit.id.core) x.slices i with
      | .trap isB => .next (finish i s x (.trap { cls := 6, sub := bit01 isB }))
      | .wait => .next s
      | .free => .next (finish i s x (body x))

/-- The issue of an instruction that level S alone may run: class 2 at level U, before anything else (R52 step 7). -/
def issueS (i : Instr) (s : State) (body : Issue → Done) : Host.Outcome State Fault Refusal :=
  match s.issuer with
  | none => .fault .noIssuer
  | some x => if x.unit.isS then issue i s body else .next (finish i s x (.trap { cls := 2, sub := 0 }))

/-- The issue of an instruction that traps by its words alone (R51). -/
def issueTrap (i : Instr) (s : State) (t : Trap) : Host.Outcome State Fault Refusal :=
  match s.issuer with
  | none => .fault .noIssuer
  | some x => .next (finish i s x (.trap t))

/-- Room in the log for `k` entries, or what its lack brings (R355). -/
def withRoom (s : State) (u : Unit) (k : Nat) (go : State → Unit → Done) : Done :=
  if k = 0 then go s u
  else match makeRoom s u k with
  | .room s' => go s' (refresh s' u)
  | .trap => .trap { cls := 12, sub := 0 }
  | .abort => .abort 7 0 0
  | .wait => .stall

end Sys2Proof.Machine
end

