-- ==== Sys2Proof/Machine/Flags.lean ====
section
/-! DEFINITION. Rounding modes, FPSTAT and the exceptions of class 7, and the lane-by-lane shape of vector instructions
(03_state R32, 05_numbers R64-R69, 06_arithmetic_instructions R93-R94). -/

namespace Sys2Proof.Machine

/-- The rounding mode in force: FPCTL.RM for the dynamic code (R45). -/
def rmFor (fpctl : W32) : RmCode → Rm
  | .rne => .rne
  | .rtz => .rtz
  | .rup => .rup
  | .rdn => .rdn
  | .rna => .rna
  | _ =>
    match field fpctl.toNat 0 3 with
    | 1 => .rtz
    | 2 => .rup
    | 3 => .rdn
    | 4 => .rna
    | _ => .rne

def ftzOf (fpctl : W32) : Bool := fpctl.getLsbD 3
/-- The raised exceptions that FPCTL.EN enables: NV, DZ, OF, UF, NX from bit 0 (R32). -/
def enabled (fpctl : W32) (fl : Flags) : BitVec 5 := if fpctl.extractLsb' 4 5 = 0 then 0 else fpctl.extractLsb' 4 5 &&& fl.setWidth 5

/-- The results of a slice's active lanes. -/
def laneResults (t : Slice) (km : Nat) (f : Slice → Fin 4 → Nat × Flags) : List (Fin 4 × Nat × Flags) :=
  (lanesOf (actOf t km)).map (fun l => (l, f t l))

/-- The enabled exceptions that a group's lanes raise, each slice under its own FPCTL (R65, R94). -/
def groupHits (ts : List Slice) (km : Nat) (f : Slice → Fin 4 → Nat × Flags) : BitVec 5 :=
  ts.foldl (fun h t => if t.fpctl.extractLsb' 4 5 = 0 then h
    else (laneResults t km f).foldl (fun h r => h ||| enabled t.fpctl r.2.2) h) 0

/-- The lanes that raise an enabled exception. -/
def hitLanes (ts : List Slice) (km : Nat) (f : Slice → Fin 4 → Nat × Flags) : LaneSet :=
  gangView ts (fun t => (laneResults t km f).foldl
    (fun m r => if enabled t.fpctl r.2.2 = 0 then m else m ||| laneBit r.1) 0)

/-- Class 7 for arithmetic: SUB holds the exceptions, the record the lanes (R65, R347). -/
def arithTrap (hit : BitVec 5) (lanes : LaneSet) : Trap :=
  { cls := 7, sub := hit.toNat, replay := lanes, faulted := lanes }

/-- The shape of a vector instruction: each active lane's value and flags; class 7 with nothing written when an enabled
exception is raised (R94); otherwise each slice is written and its flags set. -/
def lanewise (s : State) (x : Issue) (km : Nat) (f : Slice → Fin 4 → Nat × Flags)
    (write : Slice → List (Fin 4 × Nat) → Slice) : Done :=
  let hit := groupHits x.slices km f
  if hit = 0 then
    .seq s (x.unit.mapSlices x.js (fun t =>
      let rs := laneResults t km f
      (write t (rs.map (fun r => (r.1, r.2.1)))).raise (rs.foldl (fun m r => m ||| r.2.2) 0)))
  else .trap (arithTrap hit (hitLanes x.slices km f))

/-- Elements of a type written to a vector register (R93). -/
def writeElems (ty : TCode) (r : Reg) (t : Slice) (rs : List (Fin 4 × Nat)) : Slice :=
  rs.foldl (fun t v => t.putElem ty r v.1 v.2) t

/-- A mask register set from lanes: the other lanes of the slice are cleared (R99). -/
def writeMask (k : Nat) (t : Slice) (rs : List (Fin 4 × Nat)) : Slice :=
  t.putK k (rs.foldl (fun m v => if v.2 = 0 then m else m ||| laneBit v.1) 0)

/-- A vector result on its way; a replay's joins what its first issue left for the lanes that it replays (R132). -/
def Slice.pushVector (t : Slice) (r : Reg) (pair : Bool) (lanes missing : BitVec 4) (lo hi : Vector W32 4) (xv : Bool) : Slice :=
  let again := t.replay.getD 0
  let left (y : Result) : Bool := match y with
    | .vector d _ _ m _ _ _ => d == r && m &&& again != 0
    | _ => false
  if t.results.any left then
    { t with results := t.results.map (fun y => match y with
        | .vector d p l0 m0 lo0 hi0 x =>
          if left y then .vector d p (l0 ||| lanes) ((m0 &&& ~~~again) ||| missing)
            (vec4 (fun l => if lanes.getLsbD l.val then lo[l] else lo0[l])) (vec4 (fun l => if lanes.getLsbD l.val then hi[l] else hi0[l])) x
          else y
        | y => y) }
  else { t.emptyV r pair with results := t.results ++ [.vector r pair lanes missing lo hi xv] }

/-- Elements on their way to an emptied vector register (R25); values as narrow types are written (R93). -/
def queueElems (ty : TCode) (r : Reg) (pair xv : Bool) (t : Slice) (rs : List (Fin 4 × Nat)) : Slice :=
  let mask := rs.foldl (fun m v => m ||| laneBit v.1) 0
  let val (l : Fin 4) : Nat := match rs.find? (fun v => v.1 == l) with | some v => v.2 | none => 0
  let lo := vec4 (fun l => if widthOf ty = 64 then BitVec.ofNat 32 (val l) else Slice.narrow ty (val l))
  let hi := vec4 (fun l => BitVec.ofNat 32 (val l / 2 ^ 32))
  t.pushVector r pair mask 0 lo hi xv

end Sys2Proof.Machine
end

