-- ==== Sys2Proof/Machine/Access.lean ====
section
/-! DEFINITION. The access checks of memory, matrix and sluice instructions (11_memory_instructions R203, R204, R209;
18_isolation R319). -/

namespace Sys2Proof.Machine

/-- An access of a unit. -/
def requester (u : Unit) (acc : Access) (op : AccessOp) : Requester :=
  { ctx := u.ctx, core := u.id.core, levelS := u.isS, access := acc, op := op, weight := false }

/-- The trap of a translation cause: class 3 for a page not present (cause 1), class 4 for the others (R319). -/
def accessTrap (va : W64) (acc : Access) (cause : Nat) : Trap :=
  if cause = 1 then { cls := 3, sub := 1, addr := va, pages := [pageOf va], kind := acc }
  else { cls := 4, sub := cause, addr := va }

/-- Class 5 (R203). -/
def alignTrap (va : W64) : Trap := { cls := 5, sub := 0, addr := va }

/-- Class 13 with a cause (R139, R226). -/
def engineTrap (cause : Nat) : Trap := { cls := 13, sub := cause, ecause := BitVec.ofNat 8 cause }

/-- Class 0 with a subclass (R51, R369). -/
def illegal (sub : Nat) : Trap := { cls := 0, sub := sub }

/-- The place and attributes of an access, or its cause. -/
def place (s : State) (u : Unit) (acc : Access) (op : AccessOp) (va : W64) : Except Nat (Nat × BitVec 12) :=
  translate s (requester u acc op) va

/-- The TLB keeps the leaves of addresses that were accessed (R320). -/
def tlbAfter (s : State) (u : Unit) (vas : List W64) : State := vas.foldl (fun s va => fillTlb s u.ctx u.id.core va) s

/-- Aligned pieces of 8, 4, 2 or 1 bytes that a range divides into: offset and size (R173). -/
def pieces (fuel : Nat) (a n : Nat) (off : Nat) : List (Nat × Nat) :=
  match fuel with
  | 0 => []
  | fuel + 1 =>
    if n = 0 then []
    else
      let k := if a % 8 = 0 ∧ 8 ≤ n then 8 else if a % 4 = 0 ∧ 4 ≤ n then 4 else if a % 2 = 0 ∧ 2 ≤ n then 2 else 1
      (off, k) :: pieces fuel (a + k) (n - k) (off + k)

/-- The word events of a range. -/
def wordPieces (a n : Nat) : List (Nat × Nat) := pieces n a n 0

/-- Bytes `[off, off+n)` of a list. -/
def slice (bs : List Byte) (off n : Nat) : List Byte := (bs.drop off).take n

/-! ### Writes of engines (R206, R354) -/

/-- The log entry of an engine write. A gang's carries the window current when its command issued (R354). -/
def engineEntry (s : State) (u : Unit) (win : W32) (va : W64) (old : List Byte) (pa : Nat) (direct : Bool) : LogEntry :=
  { entryOf s u 2 va old.length (BitVec.ofNat 64 (fromLe old)) pa direct false with
    win := if u.eng = 0 then win else windowOf s u }

/-- An operation of a launch that a peer has not taken (R414). -/
def failLaunch (s : State) (launch : Nat) : State :=
  { s with launches := s.launches.map (fun l => if l.id == launch && l.status == 0 then { l with status := 4 } else l) }

/-- The launch of a unit's team. -/
def launchIdOf (s : State) (u : Unit) : Nat := ((s.team? u.team).map (fun t => t.launch)).getD 0

/-- An engine write on its way to a peer, which the launch's completion awaits (R186, R414). -/
def peerWrite (s : State) (u : Unit) (k pa : Nat) (bs : List Byte) : State :=
  let (id, s) := s.fresh
  let q : PeerOp :=
    { id := id, unit := u.id, launch := launchIdOf s u, peer := k, pa := pa % 2 ^ 42, op := none, bytes := bs
      data := BitVec.ofNat 64 (fromLe bs), issued := s.gtick, tmo := (s.peer k).tmo.toNat }
  if (s.peer k).en then { s with peerOps := s.peerOps ++ [q] } else failLaunch s (launchIdOf s u)

/-- One word event of an engine: logged with the value overwritten, then performed or published (R176, R178). Host and peer
pages take an irreversible mark (R206); a peer's memory lies outside the package, and the write is sent there; weights are
held (R166). -/
def engineWord (s : State) (u : Unit) (win : W32) (pc va : W64) (pa : Nat) (direct : Bool) (bs : List Byte) : State :=
  match placeOf pa with
  | .host => publishAt (append s { engineEntry s u win pc [] 0 false with kind := 3 }) u.id pa bs
  | .peer k => peerWrite (append s { engineEntry s u win pc [] 0 false with kind := 3 }) u k pa bs
  | .weight _ =>
    let old := (List.range bs.length).map (fun i => weightByte s u (pa + i))
    holdWeights (append s (engineEntry s u win va old pa false)) u pa bs
  | _ =>
    let s := append s (engineEntry s u win va (s.mem.readBytes pa bs.length) pa direct)
    if direct then performAt s pa bs else publishAt s u.id pa bs

/-- An atomic of an engine, performed at its word's performing point (R163, R167, R230, R235, R238). -/
def engineAtomic (s : State) (u : Unit) (win : W32) (pc va : W64) (pa : Nat) (direct : Bool) (bs : List Byte) : State :=
  let e := { engineEntry s u win va (s.mem.readBytes pa bs.length) pa direct with kind := 1 }
  match placeOf pa with
  | .host => publishAt (append s { engineEntry s u win pc [] 0 false with kind := 3 }) u.id pa bs
  | _ => if direct then performAt (append s e) pa bs else publishAt (append s e) u.id pa bs

/-- A range written by an engine, word by word from its lowest address. -/
def engineWrite (s : State) (u : Unit) (win : W32) (pc va : W64) (pa : Nat) (direct : Bool) (bs : List Byte) : State :=
  clearPoison ((wordPieces pa bs.length).foldl
    (fun s p => engineWord s u win pc (va + BitVec.ofNat 64 p.1) (pa + p.1) direct (slice bs p.1 p.2)) s) pa bs.length

/-- A sluice's work that appends `k` entries, once the log has room (R355): a full log under TRAP leaves it as `full` has it, and a
running transaction of the gang aborts (R360). -/
def withEngineRoom (s : State) (u : Unit) (k : Nat) (full : State) (go : State → State) : State :=
  match makeRoom s u k with
  | .room s' => go s'
  | .abort => let (s', u') := abortTxn s u 7 0 0; s'.setUnit u'
  | _ => full

/-- Bytes that an engine command of a unit reads on the issuing core: performed ones, and the gang's own direct stores still
pending (R151). A store that follows the command in program order, which may be seen or not, is always seen once it has issued
(DESIGN CHOICE, log entry 24). -/
def engineByte (s : State) (u : Unit) (pa : Nat) : Byte :=
  match (u.direct.filter (fun d => d.covers pa)).getLast? with
  | some d => d.bytes.getD (pa - d.pa) 0
  | none => s.mem.read pa

end Sys2Proof.Machine
end

