-- ==== Sys2Proof/Machine/Scalar.lean ====
section
/-! DEFINITION. Scalar integer instructions (06_arithmetic_instructions R92, R96, R97). -/

namespace Sys2Proof.Machine

/-- U and SAT of a scalar's SEC (R96). -/
def uBit (o : WArgs) : Bool := o.sec.getLsbD 4
def satBit (o : WArgs) : Bool := o.sec.getLsbD 5

/-- The second operand: sB, or sext(imm16) with IB (R96). -/
def scalarB (o : WArgs) (t : Slice) : W64 := if o.ib then o.imm.signExtend 64 else t.getS o.b

/-- An operand as i64, or n64 when U = 1. -/
def asInt (u : Bool) (x : W64) : Int := if u then x.toNat else x.toInt

/-- An exact result wrapped to 64 bits, or clamped when SAT = 1, with SATD (R96). -/
def clamp64 (u sat : Bool) (y : Int) : W64 × Bool :=
  let lo : Int := if u then 0 else -(2 ^ 63)
  let hi : Int := if u then 2 ^ 64 - 1 else 2 ^ 63 - 1
  if sat then
    if y < lo then (word64 lo, true) else if hi < y then (word64 hi, true) else (word64 y, false)
  else (word64 y, false)

/-- One slice after a scalar instruction whose row is `f`. -/
def scalarSlice (o : WArgs) (f : W64 → W64 → W64 × Bool) (t : Slice) : Slice :=
  let r := f (t.getS o.a) (scalarB o t)
  (t.putS o.d r.1).raise (if r.2 then Flags.satd else 0)

/-- A scalar instruction: in each executing slice, on its own registers (R92, R96). -/
def scalarOp (i : Instr) (o : WArgs) (f : W64 → W64 → W64 × Bool) (s : State) : Host.Outcome State Fault Refusal :=
  issue i s (fun x => .seq s (x.unit.mapSlices x.js (scalarSlice o f)))

/-- A row with an exact integer result. -/
def exactRow (o : WArgs) (f : Int → Int → Int) (a b : W64) : W64 × Bool :=
  clamp64 (uBit o) (satBit o) (f (asInt (uBit o) a) (asInt (uBit o) b))

/-- Quotient truncated toward zero; by zero all ones (R86, R96). -/
def quotient (a b : Int) : Int := if b = 0 then -1 else a.tdiv b
/-- Remainder with the sign of a; by zero a (R86, R96). -/
def remainder (a b : Int) : Int := if b = 0 then a else a.tmod b

/-- The conditions of SSET and VCMP (R96). -/
def condition (cc : Nat) (a b : Int) : Bool :=
  match cc with
  | 0 => a == b
  | 1 => a != b
  | 2 => a < b
  | 3 => a ≤ b
  | 4 => b < a
  | _ => b ≤ a

def execSadd (o : WArgs) (s : State) := scalarOp (.sadd o) o (exactRow o (· + ·)) s
def execSsub (o : WArgs) (s : State) := scalarOp (.ssub o) o (exactRow o (· - ·)) s
def execSmul (o : WArgs) (s : State) := scalarOp (.smul o) o (exactRow o (· * ·)) s
/-- Bits [127:64] of the 128-bit product: its floor by 2^64. -/
def execSmulh (o : WArgs) (s : State) := scalarOp (.smulh o) o (exactRow o (fun a b => (a * b) / 2 ^ 64)) s
def execSdiv (o : WArgs) (s : State) := scalarOp (.sdiv o) o (exactRow o quotient) s
def execSrem (o : WArgs) (s : State) := scalarOp (.srem o) o (exactRow o remainder) s
def execSand (o : WArgs) (s : State) := scalarOp (.sand o) o (fun a b => (a &&& b, false)) s
def execSor (o : WArgs) (s : State) := scalarOp (.sor o) o (fun a b => (a ||| b, false)) s
def execSxor (o : WArgs) (s : State) := scalarOp (.sxor o) o (fun a b => (a ^^^ b, false)) s
def execSshl (o : WArgs) (s : State) := scalarOp (.sshl o) o (fun a b => (a <<< (b.toNat % 64), false)) s
def execSshr (o : WArgs) (s : State) := scalarOp (.sshr o) o (fun a b => (a >>> (b.toNat % 64), false)) s
def execSsra (o : WArgs) (s : State) := scalarOp (.ssra o) o (fun a b => (a.sshiftRight (b.toNat % 64), false)) s
def execSmin (o : WArgs) (s : State) := scalarOp (.smin o) o (exactRow o (fun a b => if a < b then a else b)) s
def execSmax (o : WArgs) (s : State) := scalarOp (.smax o) o (exactRow o (fun a b => if a < b then b else a)) s
def execSset (o : WArgs) (s : State) :=
  scalarOp (.sset o) o (exactRow o (fun a b => if condition (o.sec.toNat % 16) a b then 1 else 0)) s

/-- SLI (R97): sext of the immediate, shifted left by 16 × HW. -/
def execSli (o : IArgs) (s : State) : Host.Outcome State Fault Refusal :=
  issue (.sli o) s (fun x => .seq s (x.unit.mapSlices x.js (fun t =>
    t.putS o.d (o.imm.signExtend 64 <<< (16 * (o.sec.toNat % 4))))))

/-- SLI with INS (R97): 16 bits of sA replaced. -/
def execSliIns (o : IArgs) (s : State) : Host.Outcome State Fault Refusal :=
  issue (.sliIns o) s (fun x => .seq s (x.unit.mapSlices x.js (fun t =>
    let sh := 16 * (o.sec.toNat % 4)
    t.putS o.d ((t.getS o.a &&& ~~~(0xFFFF#64 <<< sh)) ||| o.imm.setWidth 64 <<< sh))))

end Sys2Proof.Machine
end

