-- ==== Sys2Proof/Machine/VecInt.lean ====
section
/-! DEFINITION. Vector integer instructions (06_arithmetic_instructions R98, R99). -/

namespace Sys2Proof.Machine

/-- An element read in an integer type (R93). -/
def intElem (ty : TCode) (t : Slice) (r : Reg) (l : Fin 4) : Int :=
  if signedT ty then toInt (widthOf ty) (t.elem ty r l) else t.elem ty r l

/-- The range of an integer type. -/
def loOf (ty : TCode) : Int := if signedT ty then -(2 ^ (widthOf ty - 1)) else 0
def hiOf (ty : TCode) : Int := if signedT ty then 2 ^ (widthOf ty - 1) - 1 else 2 ^ widthOf ty - 1

/-- An exact result wrapped into T, or clamped when S = 1, with SATD (R98). -/
def fitInt (ty : TCode) (sat : Bool) (y : Int) : Nat × Flags :=
  if sat ∧ y < loOf ty then (wrapNat (widthOf ty) (loOf ty), Flags.satd)
  else if sat ∧ hiOf ty < y then (wrapNat (widthOf ty) (hiOf ty), Flags.satd)
  else (wrapNat (widthOf ty) y, 0)

/-- A vector integer instruction whose row is exact: `f` of the elements of A, B and C. -/
def vintOp (i : Instr) (o : PArgs) (f : Int → Int → Int → Int) (s : State) : Host.Outcome State Fault Refusal :=
  issue i s (fun x => lanewise s x o.km
    (fun t l => fitInt o.t o.s (f (intElem o.t t o.a l) (intElem o.t t o.b l) (intElem o.t t o.c l)))
    (writeElems o.t o.d))

/-- A row on the bits of the elements. -/
def vbitOp (i : Instr) (o : PArgs) (f : Nat → Nat → Nat) (s : State) : Host.Outcome State Fault Refusal :=
  issue i s (fun x => lanewise s x o.km (fun t l => (f (t.elem o.t o.a l) (t.elem o.t o.b l), 0)) (writeElems o.t o.d))

/-- The shift amount: the low log2(width) bits of b (R98). -/
def shiftOf (ty : TCode) (b : Nat) : Nat := b % widthOf ty

def execVadd (o : PArgs) (s : State) := vintOp (.vadd o) o (fun a b _ => a + b) s
def execVsub (o : PArgs) (s : State) := vintOp (.vsub o) o (fun a b _ => a - b) s
def execVmul (o : PArgs) (s : State) := vintOp (.vmul o) o (fun a b _ => a * b) s
/-- The high width(T) bits of the double-width product. -/
def execVmulh (o : PArgs) (s : State) := vintOp (.vmulh o) o (fun a b _ => (a * b) / 2 ^ widthOf o.t) s
def execVmad (o : PArgs) (s : State) := vintOp (.vmad o) o (fun a b c => a * b + c) s
def execVand (o : PArgs) (s : State) := vbitOp (.vand o) o (· &&& ·) s
def execVor (o : PArgs) (s : State) := vbitOp (.vor o) o (· ||| ·) s
def execVxor (o : PArgs) (s : State) := vbitOp (.vxor o) o (· ^^^ ·) s
def execVshl (o : PArgs) (s : State) := vbitOp (.vshl o) o (fun a b => a * 2 ^ shiftOf o.t b % 2 ^ widthOf o.t) s
def execVshr (o : PArgs) (s : State) := vbitOp (.vshr o) o (fun a b => a / 2 ^ shiftOf o.t b) s
/-- The sign of the width(T)-bit pattern is shifted in, for every T. -/
def execVsra (o : PArgs) (s : State) :=
  vbitOp (.vsra o) o (fun a b => wrapNat (widthOf o.t) (toInt (widthOf o.t) a / 2 ^ shiftOf o.t b)) s
def execVmin (o : PArgs) (s : State) := vintOp (.vmin o) o (fun a b _ => if a < b then a else b) s
def execVmax (o : PArgs) (s : State) := vintOp (.vmax o) o (fun a b _ => if a < b then b else a) s
/-- |a|; for an unsigned T, a. -/
def execVabs (o : PArgs) (s : State) := vintOp (.vabs o) o (fun a _ _ => a.natAbs) s
def execVclz (o : PArgs) (s : State) := vbitOp (.vclz o) o (fun a _ => leadingZeros (widthOf o.t) a) s
def execVpopc (o : PArgs) (s : State) := vbitOp (.vpopc o) o (fun a _ => popcount a (widthOf o.t)) s

/-- VCMP (R99): kD set from the active lanes, cleared in the others. -/
def execVcmp (o : PArgs) (s : State) : Host.Outcome State Fault Refusal :=
  issue (.vcmp o) s (fun x => lanewise s x o.km
    (fun t l => (bit01 (condition o.sec.toNat (intElem o.t t o.a l) (intElem o.t t o.b l)), 0))
    (writeMask o.d.toNat))

/-- VSEL (R99): a where kS is 1, b elsewhere; kS = k0 selects a in every active lane. -/
def execVsel (o : PArgs) (s : State) : Host.Outcome State Fault Refusal :=
  issue (.vsel o) s (fun x => lanewise s x o.km
    (fun t l =>
      let pickA := o.sec.toNat == 0 || (t.getK o.sec.toNat).getLsbD l.val
      (t.elem o.t (if pickA then o.a else o.b) l, 0))
    (writeElems o.t o.d))

end Sys2Proof.Machine
end

