-- ==== Sys2Proof/Machine/VecFloat.lean ====
section
/-! DEFINITION. Vector float instructions and the emulation page (06_arithmetic_instructions R100, R101, R118, R119). -/

namespace Sys2Proof.Machine

/-- The format that T names. -/
def PArgs.format (o : PArgs) : Format := formatOf o.t

/-- An operand of a float instruction, with FTZ (R66, R100). -/
def floatElem (ty : TCode) (t : Slice) (r : Reg) (l : Fin 4) : Val :=
  (formatOf ty).decode ((formatOf ty).flushIn (ftzOf t.fpctl) (t.elem ty r l))

/-- A rounded result under a slice's FPCTL: saturated, then flushed (R64, R66, R67). -/
def roundFor (ty : TCode) (rm : RmCode) (sat : Bool) (t : Slice) (v : Val) : Nat × Flags :=
  (formatOf ty).flushOut (ftzOf t.fpctl) ((formatOf ty).deliver (rmFor t.fpctl rm) sat v)

/-- A vector float instruction with one rounding: `f` of the operands under the mode in force. -/
def vfloatOp (i : Instr) (o : PArgs) (f : Rm → Val → Val → Val → Val) (s : State) : Host.Outcome State Fault Refusal :=
  issue i s (fun x => lanewise s x o.km
    (fun t l => roundFor o.t o.rm o.s t
      (f (rmFor t.fpctl o.rm) (floatElem o.t t o.a l) (floatElem o.t t o.b l) (floatElem o.t t o.c l)))
    (writeElems o.t o.d))

def execFadd (o : PArgs) (s : State) := vfloatOp (.fadd o) o (fun rm a b _ => a.add rm b) s
def execFsub (o : PArgs) (s : State) := vfloatOp (.fsub o) o (fun rm a b _ => a.add rm b.neg) s
def execFmul (o : PArgs) (s : State) := vfloatOp (.fmul o) o (fun _ a b _ => a.mul b) s
def execFfma (o : PArgs) (s : State) := vfloatOp (.ffma o) o (fun rm a b c => Val.fma rm a b c) s

/-- The flushed bits of an operand. -/
def floatBits (ty : TCode) (t : Slice) (r : Reg) (l : Fin 4) : Nat := (formatOf ty).flushIn (ftzOf t.fpctl) (t.elem ty r l)

/-- FMIN and FMAX (R100). -/
def minmaxOp (i : Instr) (o : PArgs) (wantMax : Bool) (s : State) : Host.Outcome State Fault Refusal :=
  issue i s (fun x => lanewise s x o.km
    (fun t l => fminmax (formatOf o.t) wantMax (floatBits o.t t o.a l) (floatBits o.t t o.b l)) (writeElems o.t o.d))

def execFmin (o : PArgs) (s : State) := minmaxOp (.fmin o) o false s
def execFmax (o : PArgs) (s : State) := minmaxOp (.fmax o) o true s

/-- FSGN on bits: the magnitude of a with the sign that the mode names; a NaN in a gives the canonical NaN, and a signalling NaN
in either operand raises NV (R62, R100). -/
def copySign (f : Format) (mode a b : Nat) : Nat × Flags :=
  let fl := if sigOf (f.decode a) || sigOf (f.decode b) then Flags.nv else 0
  if isNan (f.decode a) then (f.qnan, fl)
  else
    let half := 2 ^ (f.ebits + f.fbits)
    let sa := a / half % 2
    let sb := b / half % 2
    let sg := if mode = 0 then sb else if mode = 1 then 1 - sb else (sa + sb) % 2
    (a % half + sg * half, fl)

def execFsgn (o : PArgs) (s : State) : Host.Outcome State Fault Refusal :=
  issue (.fsgn o) s (fun x => lanewise s x o.km
    (fun t l => copySign (formatOf o.t) o.sec.toNat (floatBits o.t t o.a l) (floatBits o.t t o.b l)) (writeElems o.t o.d))

/-- FCMP (R101). -/
def execFcmp (o : PArgs) (s : State) : Host.Outcome State Fault Refusal :=
  issue (.fcmp o) s (fun x => lanewise s x o.km
    (fun t l =>
      let r := fcmp o.sec.toNat (floatElem o.t t o.a l) (floatElem o.t t o.b l)
      (bit01 r.1, r.2))
    (writeMask o.d.toNat))

/-- The class of a value, one bit of ten (R101). -/
def classOf (f : Format) (a : Nat) : Nat :=
  match f.decode a with
  | .nan sg => if sg then 8 else 9
  | .inf n => if n then 0 else 7
  | .num n m _ _ =>
    if m = 0 then (if n then 3 else 4) else if f.isSubnormal a then (if n then 2 else 5) else (if n then 1 else 6)

/-- FCLASS applies no FTZ and raises nothing; its result is an i32 (R101, R19). -/
def execFclass (o : PArgs) (s : State) : Host.Outcome State Fault Refusal :=
  issue (.fclass o) s (fun x => lanewise s x o.km
    (fun t l => (2 ^ classOf (formatOf o.t) (t.elem o.t o.a l), 0)) (writeElems .i32 o.d))

/-- `a × 2^b`. -/
def Val.scale (a : Val) (b : Int) : Val := match a with | .num n m e st => .num n m (e + b) st | v => v

/-- The exponent of FSCALE, clamped to where every result is already decided: beyond ±4,400 an f64 has left every range. -/
def clampScale (b : Int) : Int := max (-4400) (min 4400 b)

/-- FSCALE: a × 2^b with one rounding, b the i32 element of vB (R100). -/
def execFscale (o : PArgs) (s : State) : Host.Outcome State Fault Refusal :=
  issue (.fscale o) s (fun x => lanewise s x o.km
    (fun t l => roundFor o.t o.rm o.s t ((floatElem o.t t o.a l).scale (clampScale (intElem .i32 t o.b l))))
    (writeElems o.t o.d))

/-- A value rounded to an integral value of its format: NX when it changes, the sign kept (R100). -/
def toIntegral (f : Format) (rm : Rm) (v : Val) : Nat × Flags :=
  match v with
  | .num n m e st =>
    let r := roundInt rm n m e st
    if r.1 = 0 then (f.signBit n, if r.2 then Flags.nx else 0)
    else
      let d := f.deliver rm false (.num n r.1.natAbs 0 false)
      (d.1, if r.2 then Flags.nx else 0)
  | v => f.deliver rm false v

def execFrint (o : PArgs) (s : State) : Host.Outcome State Fault Refusal :=
  issue (.frint o) s (fun x => lanewise s x o.km
    (fun t l => toIntegral (formatOf o.t) (rmFor t.fpctl o.rm) (floatElem o.t t o.a l)) (writeElems o.t o.d))

/-- FDIV and VDIV always raise class 0, subclass "emulate", before any source is read (R51, R119). -/
def execFdiv (o : PArgs) (s : State) : Host.Outcome State Fault Refusal := issueTrap (.fdiv o) s { cls := 0, sub := 1 }
def execVdiv (o : PArgs) (s : State) : Host.Outcome State Fault Refusal := issueTrap (.vdiv o) s { cls := 0, sub := 1 }

end Sys2Proof.Machine
end

