-- ==== Sys2Proof/Machine/Cross.lean ====
section
/-! DEFINITION. Cross-lane operations (06_arithmetic_instructions R107-R114). -/

namespace Sys2Proof.Machine

/-- The active lanes of a group in increasing order, each with its slice (R107). -/
def groupLanes (ts : List Slice) (km : Nat) : List (Slice × Fin 4) :=
  ts.flatMap (fun t => (lanesOf (actOf t km)).map (fun l => (t, l)))

/-- The lane of a gang that a slice's lane is. -/
def laneNo (t : Slice) (l : Fin 4) : Nat := 4 * t.idx + l.val

/-- A lane's element by gang lane number; 0 for a lane that is not active (R110). -/
def laneAt (ts : List Slice) (km : Nat) (ty : TCode) (r : Reg) (i : Nat) : Nat :=
  match (groupLanes ts km).find? (fun p => laneNo p.1 p.2 == i) with
  | some p => p.1.elem ty r p.2
  | none => 0

/-- An instruction that moves bits between lanes and raises nothing. -/
def moveLanes (s : State) (x : Issue) (km : Nat) (ty : TCode) (d : Reg) (f : Slice → Fin 4 → Nat) : Done :=
  lanewise s x km (fun t l => (f t l, 0)) (writeElems ty d)

def execVshuf (o : PArgs) (s : State) : Host.Outcome State Fault Refusal :=
  issue (.vshuf o) s (fun x => moveLanes s x o.km o.t o.d (fun t l => laneAt x.slices o.km o.t o.a (t.getV o.b l).toNat))

/-- VBCAST: the index is the sB of the lane's own slice, read as n32 (R110, R111). -/
def execVbcast (o : PArgs) (s : State) : Host.Outcome State Fault Refusal :=
  issue (.vbcast o) s (fun x => moveLanes s x o.km o.t o.d
    (fun t _ => laneAt x.slices o.km o.t o.a ((t.getS o.b).toNat % 2 ^ 32)))

/-- VCONF: the lower active lanes with an equal element, as a 32-bit mask (R110, R111). -/
def execVconf (o : PArgs) (s : State) : Host.Outcome State Fault Refusal :=
  issue (.vconf o) s (fun x => moveLanes s x o.km .n32 o.d (fun t l =>
    (groupLanes x.slices o.km).foldl (fun m p =>
      if laneNo p.1 p.2 < laneNo t l ∧ p.1.elem o.t o.a p.2 = t.elem o.t o.a l then m + 2 ^ laneNo p.1 p.2 else m) 0))

/-- VCMPRS: lane i of the executing slices receives the i-th active element, else 0 (R114). -/
def execVcmprs (o : PArgs) (s : State) : Host.Outcome State Fault Refusal :=
  issue (.vcmprs o) s (fun x =>
    let vals := (groupLanes x.slices o.km).map (fun p => p.1.elem o.t o.a p.2)
    .seq s (x.unit.mapSlices x.js (fun t =>
      writeElems o.t o.d t ([0, 1, 2, 3].map (fun l => (l, vals.getD (laneNo t l) 0))))))

/-- VEXPND: the i-th active lane receives lane i's element where its slice executes, else 0 (R110). -/
def execVexpnd (o : PArgs) (s : State) : Host.Outcome State Fault Refusal :=
  issue (.vexpnd o) s (fun x =>
    let act := (groupLanes x.slices o.km).map (fun p => laneNo p.1 p.2)
    let src (i : Nat) : Nat := match x.slices.find? (fun t => t.idx == i / 4) with
      | some t => t.elem o.t o.a (Fin.ofNat 4 i)
      | none => 0
    moveLanes s x o.km o.t o.d (fun t l => src ((act.findIdx? (· == laneNo t l)).getD 0)))

/-! ### The tree (R108) -/

/-- Neighbours combined; a node with one absent child passes the other on. -/
def pairUp {α : Type} (f : α → α → α) : List (Option α) → List (Option α)
  | [] => []
  | [a] => [a]
  | a :: b :: rest =>
    (match a, b with
      | some x, some y => some (f x y)
      | none, y => y
      | x, none => x) :: pairUp f rest

/-- The root of the tree over 32 positions. -/
def treeRoot {α : Type} (f : α → α → α) (xs : List (Option α)) : Option α :=
  ((pairUp f (pairUp f (pairUp f (pairUp f (pairUp f xs))))).head?).getD none

/-- A node's element with the flags raised below it. -/
abbrev Node := Nat × Flags

/-- The node function of an integer type: op 0 ADD, 1 MIN, 2 MAX, 3 AND, 4 OR, 5 XOR (R110). -/
def intNode (ty : TCode) (sat : Bool) (op : Nat) (a b : Nat) : Node :=
  let rd (x : Nat) : Int := if signedT ty then toInt (widthOf ty) x else x
  match op with
  | 0 => fitInt ty sat (rd a + rd b)
  | 1 => (if rd a < rd b then a else b, 0)
  | 2 => (if rd a < rd b then b else a, 0)
  | 3 => (a &&& b, 0)
  | 4 => (a ||| b, 0)
  | _ => (a ^^^ b, 0)

/-- The node function of a float type under the FPCTL of the whole tree (R108). -/
def floatNode (ty : TCode) (rm : Rm) (ftz : Bool) (op : Nat) (a b : Nat) : Node :=
  let f := formatOf ty
  if op = 0 then f.flushOut ftz (f.deliver rm false ((f.decode a).add rm (f.decode b)))
  else fminmax f (op == 2) a b

/-- The node function with flags gathered. -/
def treeNode (o : PArgs) (ctl : W32) (a b : Node) : Node :=
  let op := o.sec.toNat % 16
  let r := if WellFormed.floatT o.t then floatNode o.t (rmFor ctl o.rm) (ftzOf ctl) op a.1 b.1
    else intNode o.t o.s op a.1 b.1
  (r.1, r.2 ||| a.2 ||| b.2)

/-- The identity of an operation (R109). -/
def identityOf (ty : TCode) (op : Nat) : Nat :=
  if WellFormed.floatT ty then
    (if op = 0 then 0 else (formatOf ty).infBits (op == 2))
  else match op with
    | 1 => wrapNat (widthOf ty) (hiOf ty)
    | 2 => wrapNat (widthOf ty) (loOf ty)
    | 3 => 2 ^ widthOf ty - 1
    | _ => 0

/-- A float leaf: flushed under FTZ, and a NaN canonical, with NV where it signals (R62, R66). -/
def floatLeaf (f : Format) (ftz : Bool) (x : Nat) : Node :=
  match f.decode (f.flushIn ftz x) with
  | .nan sg => (f.qnan, if sg then Flags.nv else 0)
  | _ => (f.flushIn ftz x, 0)

/-- The leaves of the tree: register `r` in the active lanes. -/
def leaves (o : PArgs) (ts : List Slice) (ctl : W32) (r : Reg) : List (Option Node) :=
  let read (p : Slice × Fin 4) : Node :=
    let x := p.1.elem o.t r p.2
    if WellFormed.floatT o.t then floatLeaf (formatOf o.t) (ftzOf ctl) x else (x, 0)
  (List.range 32).map (fun i => ((groupLanes ts o.km).find? (fun p => laneNo p.1 p.2 == i)).map read)

/-- The flags that the leaves raise themselves. -/
def leafFlags (xs : List (Option Node)) : Flags := xs.foldl (fun m x => m ||| ((x.map (fun y => y.2)).getD 0)) 0

/-- The leaves at positions that a test keeps. -/
def keepLeaves (keep : Nat → Bool) (xs : List (Option Node)) : List (Option Node) :=
  xs.zipIdx.map (fun p => if keep p.2 then p.1 else none)

/-- A tree instruction over register `r`: each active lane's node by `f` from the tree's FPCTL; class 7 or flags as R108 has
them. An exception of a node belongs to no single lane, and the record of class 7 names every active lane (log entry 19). -/
def treeOp (i : Instr) (o : PArgs) (r : Reg) (f : Issue → W32 → Nat → Node) (s : State) : Host.Outcome State Fault Refusal :=
  issue i s (fun x =>
    let ctl := x.low.fpctl
    let lanes := (groupLanes x.slices o.km).map (fun p => laneNo p.1 p.2)
    let fl := lanes.foldl (fun m n => m ||| (f x ctl n).2) (leafFlags (leaves o x.slices ctl r))
    let hit := if WellFormed.floatT o.t then enabled ctl fl else 0
    let act := gangView x.slices (fun t => actOf t o.km)
    if hit = 0 then
      .seq s (x.unit.mapSlices x.js (fun t =>
        (writeElems o.t o.d t ((lanesOf (actOf t o.km)).map (fun l => (l, (f x ctl (laneNo t l)).1)))).raise fl))
    else .trap (arithTrap hit act))

/-- VRED: the root in every active lane. -/
def execVred (o : PArgs) (s : State) : Host.Outcome State Fault Refusal :=
  treeOp (.vred o) o o.a (fun x ctl _ => (treeRoot (treeNode o ctl) (leaves o x.slices ctl o.a)).getD (0, 0)) s

/-- VSCAN, inclusive or exclusive. -/
def execVscan (o : PArgs) (s : State) : Host.Outcome State Fault Refusal :=
  treeOp (.vscan o) o o.a (fun x ctl n =>
    let keep (i : Nat) : Bool := if o.sec.getLsbD 4 then i < n else i ≤ n
    (treeRoot (treeNode o ctl) (keepLeaves keep (leaves o x.slices ctl o.a))).getD (identityOf o.t (o.sec.toNat % 16), 0)) s

/-- VCOMB: A holds the keys, B the values; keys compare as bit patterns (R109, R111). -/
def execVcomb (o : PArgs) (s : State) : Host.Outcome State Fault Refusal :=
  treeOp (.vcomb o) o o.b (fun x ctl n =>
    let key (i : Nat) : Nat := laneAt x.slices o.km o.t o.a i
    let same (i : Nat) : Bool := key i == key n
    let vals := keepLeaves same (leaves o x.slices ctl o.b)
    if (vals.zipIdx.any (fun p => p.1.isSome && decide (p.2 < n))) then (identityOf o.t (o.sec.toNat % 16), 0)
    else (treeRoot (treeNode o ctl) vals).getD (identityOf o.t (o.sec.toNat % 16), 0)) s

end Sys2Proof.Machine
end

