-- ==== Sys2Proof/Machine/Memory.lean ====
section
/-! DEFINITION. Memory, atomic and synchronisation instructions (11_memory_instructions R202-R220). -/

namespace Sys2Proof.Machine

/-! ### Shared parts -/

/-- Entries that an instruction appends: its own, a mark for each implied PHASE, and the checkpoint of a window that it
makes LOGPOL open (R352, R353). -/
def entriesFor (u : Unit) (n phases : Nat) : Nat :=
  let auto := field u.logpol.toNat 8 20
  let opens := (auto != 0 && decide (auto ≤ u.autoCount + n)) || (decide (0 < phases) && u.logpol.getLsbD 1)
  n + phases + (if opens then checkpointSize u allLive allLive else 0)

/-- Bytes of a scalar width code (R202). -/
def swBytes (sw : Nat) : Nat := if sw = 0 then 8 else if sw ≤ 2 then 4 else if sw ≤ 4 then 2 else 1
/-- Bytes of a lane element code (R202). -/
def wdBytes (wd : Nat) : Nat := match wd with | 0 => 4 | 1 => 2 | 2 => 1 | _ => 8

/-- A number of `n` bytes, sign-extended or not, as a word. -/
def extend (signed : Bool) (n x : Nat) : W64 := if signed then word64 (toInt (8 * n) x) else BitVec.ofNat 64 x

/-- The trap of the causes that addresses of one instruction took: class 4 before class 3, which names every page (R204,
R209). -/
def placesTrap (acc : Access) (bad : List (W64 × Nat)) : Option Trap :=
  match bad.find? (fun b => b.2 != 1), bad with
  | some b, _ => some (accessTrap b.1 acc b.2)
  | none, b :: _ => some { accessTrap b.1 acc 1 with pages := (bad.map (fun b => pageOf b.1)).eraseDups }
  | none, [] => none

/-- The scalar accesses of a group: each slice's address in its place, in increasing slice order; or the trap, before any
slice changes anything (R204, R205, R322). -/
def scalarPlaces (s : State) (u : Unit) (acc : Access) (op : AccessOp) (vas : List (Slice × W64)) :
    Except Trap (List (Slice × W64 × Nat × BitVec 12)) :=
  let res := vas.map (fun v => (v, place s u acc op v.2))
  match placesTrap acc (res.filterMap (fun r => match r.2 with | .error c => some (r.1.2, c) | .ok _ => none)) with
  | some t => .error t
  | none => .ok (res.filterMap (fun r => match r.2 with | .ok (pa, a) => some (r.1.1, r.1.2, pa, a) | .error _ => none))

/-- The first misaligned address (R203). -/
def misaligned (n : Nat) (vas : List W64) : Option W64 := vas.find? (fun va => va.toNat % n != 0)

/-- The weight store of a die in its refresh window holds a read back (R166). -/
def refreshing (s : State) (pas : List Nat) : Bool := pas.any (inRefresh s)

/-- Reads, each by its slice and place, that wait: for a refresh window, or for an atomic of the slice itself on the same
word of a scratchpad, whose value the read returns (R178). -/
def readsHeld (s : State) (u : Unit) (rs : List (Nat × Nat)) : Bool :=
  refreshing s (rs.map (fun r => r.2))
    || rs.any (fun r => u.atomics.any (fun a => a.slice == r.1 && a.pa / 8 == r.2 / 8 && (scratchCore a.pa).isSome))

/-- The reads of a transaction joined by lines of snapshot pages; `none` at a 65th line. A line published since the
snapshot point dooms it (R185). -/
def joinReads (u : Unit) (lines : List Nat) : Option Unit :=
  match u.txn with
  | none => some u
  | some t =>
    let r := addLines t.reads lines
    if Config.txnLines < r.length then none else some { u with txn := some { t with reads := r, doomed := t.doomed || lines.any (fun l => u.published.contains l) } }

/-- Whether a transaction's write set has room for lines. -/
def writesFit (u : Unit) (lines : List Nat) : Bool :=
  match u.txn with
  | none => true
  | some t => (addLines t.writes lines).length ≤ Config.txnLines

/-- Lines of the accesses that lie on snapshot pages. -/
def snapshotLines (ps : List (Nat × BitVec 12)) : List Nat :=
  (ps.filter (fun p => !isDirect p.2)).map (fun p => p.1 / 128)

/-- Whether an access lies on a host page. -/
def onHost (pa : Nat) : Bool := match placeOf pa with | .host => true | _ => false

/-- Whether an address of a context lies on a peer page. -/
def onPeer (s : State) (u : Unit) (va : W64) : Bool :=
  match leafFor s u.ctx u.id.core va with
  | .ok l => (match placeOf (l.pa va.toNat) with | .peer _ => true | _ => false)
  | .error _ => false

/-- A store to a peer page ends a running transaction (R220). -/
def peerAborts (s : State) (u : Unit) (vas : List W64) : Bool := u.txn.isSome && vas.any (onPeer s u)

/-- So does a PST to a host page. -/
def hostAborts (s : State) (u : Unit) (vas : List W64) : Bool :=
  u.txn.isSome && vas.any (fun va => match leafFor s u.ctx u.id.core va with
    | .ok l => onHost (l.pa va.toNat)
    | .error _ => false)

/-- Stores of a group: slice, address, place, attributes and bytes, in issue order (R205, R208). -/
abbrev StoreList := List (Nat × W64 × Nat × BitVec 12 × List Byte)

/-- The stores of an instruction, or what holds them back: an abort in a transaction (R220, R379), the GLOBAL counter
(R30), or the log (R355). With `faulted`, the issue ends in a trap, behind which no window opens. -/
def performStores (s : State) (x : Issue) (faulted : Bool) (ps : StoreList) (go : State → Unit → Done) : Done :=
  let places := ps.map (fun p => (p.2.2.1, p.2.2.2.1))
  let global := (places.filter (fun p => !isDirect p.2)).length
  if x.unit.txn.isSome && places.any (fun p => onHost p.1) then .abort 5 0 0
  else if !writesFit x.unit (snapshotLines places) then .abort 4 0 0
  else if 255 < x.unit.count 2 + global then .stall
  else withRoom s x.unit (if faulted then ps.length else entriesFor x.unit ps.length 0) (fun s u =>
    let (s, u) := ps.foldl (fun (su : State × Unit) p =>
      storeBytes su.1 su.2 p.1 x.pc p.2.1 p.2.2.1 p.2.2.2.1 p.2.2.2.2) (s, u)
    go (tlbAfter s u (ps.map (fun p => p.2.1))) u)

/-! ### Scalar loads and stores (R207) -/

/-- Addresses of a scalar access: sA plus an offset, in each slice. -/
def scalarAddrs (x : Issue) (a : Reg) (off : W64) : List (Slice × W64) := x.slices.map (fun t => (t, t.getS a + off))

/-- A scalar's result on its way to an emptied register. -/
def queueScalar (r : Reg) (x : W64) (t : Slice) : Slice := { t.emptyS r with results := t.results ++ [.scalar r x] }

def execSld (o : IArgs) (s : State) : Host.Outcome State Fault Refusal :=
  issue (.sld o) s (fun x =>
    let sw := o.sec.toNat
    let n := swBytes sw
    let vas := scalarAddrs x o.a (offset16 o.imm)
    match misaligned n (vas.map (fun v => v.2)) with
    | some va => .trap (alignTrap va)
    | none =>
      match scalarPlaces s x.unit .read .plain vas with
      | .error t => .trap t
      | .ok ps =>
        if readsHeld s x.unit (ps.map (fun p => (p.1.idx, p.2.2.1))) then .stall
        else if ps.any (fun p => poisoned s p.2.2.1 n) then .trap (poisonTrap 0)
        else match joinReads x.unit (snapshotLines (ps.map (fun p => p.2.2))) with
          | none => .abort 3 0 0
          | some u =>
            let value (p : Slice × W64 × Nat × BitVec 12) : W64 :=
              extend (sw % 2 == 1) n (fromLe (readView s u p.1.idx (isDirect p.2.2.2) p.2.2.1 n))
            .seq (tlbAfter s u (vas.map (fun v => v.2)))
              (ps.foldl (fun u p => u.mapSlices [p.1.idx] (queueScalar o.d (value p))) u))

def execSst (o : IArgs) (s : State) : Host.Outcome State Fault Refusal :=
  issue (.sst o) s (fun x =>
    let n := swBytes o.sec.toNat
    let vas := scalarAddrs x o.a (offset16 o.imm)
    match misaligned n (vas.map (fun v => v.2)) with
    | some va => .trap (alignTrap va)
    | none =>
      if peerAborts s x.unit (vas.map (fun v => v.2)) then .abort 5 0 0
      else match scalarPlaces s x.unit .write .plain vas with
      | .error t => .trap t
      | .ok ps =>
        performStores s x false (ps.map (fun p => (p.1.idx, p.2.1, p.2.2.1, p.2.2.2, leBytes (p.1.getS o.d).toNat n)))
          (fun s u => .stored s u false))

/-! ### Lanes (R208, R209) -/

/-- An access of one lane: its slice and lane, its address, and its place or its cause (15 for a bound, 13 and 14 for a
link-table entry, 16 for poison, for which R373 has no code: log entry 29). -/
structure LaneAccess where
  t : Slice
  l : Fin 4
  va : W64
  res : Except Nat (Nat × BitVec 12)

/-- The accesses of the active lanes. `addr` gives a lane's address, or none beyond the bound. -/
def laneAccesses (s : State) (x : Issue) (km : Nat) (acc : Access) (op : AccessOp) (addr : Slice → Fin 4 → Option W64) :
    List LaneAccess :=
  (groupLanes x.slices km).map (fun p =>
    match addr p.1 p.2 with
    | none => { t := p.1, l := p.2, va := 0, res := .error 15 }
    | some va => { t := p.1, l := p.2, va := va, res := place s x.unit acc op va })

/-- Poison takes the lanes whose `n` bytes it covers (R363). -/
def markLost (s : State) (n : LaneAccess → Nat) (ls : List LaneAccess) : List LaneAccess :=
  ls.map (fun l => match l.res with
    | .ok (pa, _) => if poisoned s pa (n l) then { l with res := .error 16 } else l
    | .error _ => l)

/-- The accesses that found their place. -/
def laneOks (ls : List LaneAccess) : List (LaneAccess × Nat × BitVec 12) :=
  ls.filterMap (fun l => match l.res with | .ok p => some (l, p) | .error _ => none)

/-- The accesses that took a cause. -/
def laneBad (ls : List LaneAccess) : List (LaneAccess × Nat) :=
  ls.filterMap (fun l => match l.res with | .error c => some (l, c) | .ok _ => none)

/-- The lanes of a list of accesses, as a gang view. -/
def laneSet (ls : List LaneAccess) : LaneSet := ls.foldl (fun m l => m ||| laneView (laneBit l.l) l.t.idx) 0

/-- The trap of lanes that took causes: class 4, then 7 "bounds", 11, 3 (R209, R279), and after them 14 (log entry 29);
every faulted lane with its own cause in the record. -/
def laneFault (acc : Access) (bad : List (LaneAccess × Nat)) : Option Trap :=
  if bad.isEmpty then none
  else
    let lanes := laneSet (bad.map (fun b => b.1))
    let code (c : Nat) : Nat := if c = 16 then 0 else c
    let causes := bad.foldl (fun m b => m ||| (BitVec.ofNat 128 (code b.2) <<< (4 * laneNo b.1.t b.1.l))) (0 : BitVec 128)
    let t : Trap :=
      match bad.find? (fun b => b.2 != 1 && decide (b.2 < 13)), bad.find? (fun b => b.2 == 15),
          bad.find? (fun b => b.2 == 13 || b.2 == 14), bad.filter (fun b => b.2 == 1) with
      | some b, _, _, _ => { cls := 4, sub := b.2, addr := b.1.va }
      | _, some _, _, _ => { cls := 7, sub := 32 }
      | _, _, some b, _ => { cls := 11, sub := b.2 - 12 }
      | _, _, _, b :: bs =>
        { cls := 3, sub := 1, addr := b.1.va, pages := ((b :: bs).map (fun b => pageOf b.1.va)).eraseDups, kind := acc }
      | _, _, _, [] => poisonTrap 0
    some { t with replay := lanes, faulted := lanes, lcause := causes }

/-- The end of a per-lane instruction: its trap, if any lane took a cause, beside what the other lanes did (R131). -/
def laneEnd (acc : Access) (bad : List (LaneAccess × Nat)) (s : State) (u : Unit) (done : Done) : Done :=
  match laneFault acc bad with
  | none => done
  | some t => .trapAfter t s u

/-- The base of a per-lane access is aligned in every slice with an active lane (R203). -/
def laneMisaligned (x : Issue) (km n : Nat) (base : Slice → W64) : Option W64 :=
  misaligned n ((x.slices.filter (fun t => actOf t km != 0)).map base)

/-- The address of a lane: base plus index times the element size, unless the index is beyond the bound in sC (R208). -/
def indexedAddr (o : WArgs) (n : Nat) (t : Slice) (l : Fin 4) : Option W64 :=
  let i := (t.getV o.b l).toNat
  if o.c ≠ 63 ∧ (t.getS o.c).toNat ≤ i then none else some (t.getS o.a + BitVec.ofNat 64 (i * n))

/-- The address of a lane of a consecutive access. -/
def consecutiveAddr (base : W64) (n : Nat) (t : Slice) (l : Fin 4) : Option W64 :=
  some (base + BitVec.ofNat 64 (laneNo t l * n))

/-- A load of lanes: vD emptied in every executing slice, the lanes without a cause on their way (R208). -/
def laneLoad (i : Instr) (km : Nat) (d : Reg) (wd : Nat) (sx : Bool) (base : Slice → W64)
    (addr : Slice → Fin 4 → Option W64) (s : State) : Host.Outcome State Fault Refusal :=
  issue i s (fun x =>
    let n := wdBytes wd
    match laneMisaligned x km n base with
    | some va => .trap (alignTrap va)
    | none =>
      let found := laneAccesses s x km .read .plain addr
      if readsHeld s x.unit ((laneOks found).map (fun p => (p.1.t.idx, p.2.1))) then .stall
      else
        let ls := markLost s (fun _ => n) found
        let good := laneOks ls
        match joinReads x.unit (snapshotLines (good.map (fun p => p.2))) with
        | none => .abort 3 0 0
        | some u =>
          let value (p : LaneAccess × Nat × BitVec 12) : Nat :=
            (extend sx n (fromLe (readView s u p.1.t.idx (isDirect p.2.2) p.2.1 n))).toNat
          let u := u.mapSlices x.js (fun t => queueElems (if wd = 3 then .n64 else .n32) d (wd == 3) false t
            ((good.filter (fun p => p.1.t.idx == t.idx)).map (fun p => (p.1.l, value p))))
          let s := tlbAfter s u (good.map (fun p => p.1.va))
          laneEnd .read (laneBad ls) s u (.seq s u))

/-- A store of lanes, in increasing lane order (R208). -/
def laneStore (i : Instr) (km : Nat) (d : Reg) (wd : Nat) (base : Slice → W64) (addr : Slice → Fin 4 → Option W64)
    (s : State) : Host.Outcome State Fault Refusal :=
  issue i s (fun x =>
    let n := wdBytes wd
    match laneMisaligned x km n base with
    | some va => .trap (alignTrap va)
    | none =>
      let ls := laneAccesses s x km .write .plain addr
      let ty : TCode := if wd = 3 then .n64 else .n32
      if peerAborts s x.unit ((ls.filter (fun l => match l.res with | .error 15 => false | _ => true)).map (fun l => l.va)) then .abort 5 0 0
      else performStores s x (!(laneBad ls).isEmpty) ((laneOks ls).map (fun p =>
          (p.1.t.idx, p.1.va, p.2.1, p.2.2, leBytes (p.1.t.elem ty d p.1.l) n)))
        (fun s u => laneEnd .write (laneBad ls) s u (.stored s u false)))

def execVld (o : IArgs) (s : State) : Host.Outcome State Fault Refusal :=
  let base (t : Slice) : W64 := t.getS o.a + offset16 o.imm
  laneLoad (.vld o) o.km o.d o.wd (o.sec.getLsbD 2) base (fun t => consecutiveAddr (base t) (wdBytes o.wd) t) s

def execVst (o : IArgs) (s : State) : Host.Outcome State Fault Refusal :=
  let base (t : Slice) : W64 := t.getS o.a + offset16 o.imm
  laneStore (.vst o) o.km o.d o.wd base (fun t => consecutiveAddr (base t) (wdBytes o.wd) t) s

def execVldg (o : WArgs) (s : State) : Host.Outcome State Fault Refusal :=
  laneLoad (.vldg o) o.km o.d o.wd (o.imm.getLsbD 7) (fun t => t.getS o.a) (indexedAddr o (wdBytes o.wd)) s

def execVstg (o : WArgs) (s : State) : Host.Outcome State Fault Refusal :=
  laneStore (.vstg o) o.km o.d o.wd (fun t => t.getS o.a) (indexedAddr o (wdBytes o.wd)) s

/-! ### Atomics (R210-R213) -/

/-- An atomic queued for its performing point (R163); a result-less one off direct pages counts in GLOBAL (R29). -/
def queueAtomic (s : State) (u : Unit) (a : PendingAtomic) (attrs : BitVec 12) : State × Unit :=
  let u := { u with autoCount := u.autoCount + 1 }
  if a.ret.isSome || isDirect attrs then (s, { u with atomics := u.atomics ++ [a] })
  else
    let (id, s) := s.fresh
    let u := addOp u 2 id 1 false
    (s, { u with atomics := u.atomics ++ [{ a with retireId := some id }] })

/-- The implied PHASE of `.REL` (R213): once nothing is left for it to wait for, before the translation checks. -/
def releasePhase (s : State) (u : Unit) (pc : W64) (rel : Bool) : State × Unit := if rel then doPhase s u pc else (s, u)

/-- The end of an atomic instruction: `.ACQ` ends in a PHASE (R213). -/
def atomicEnd (acq rel : Bool) (s : State) (u : Unit) : Done := if acq then .phase s u .next else .stored s u rel

/-- An atomic instruction from its places on (R204, R213): with `.REL` once nothing is left for its PHASE to wait for, and
the GLOBAL counter (R30) and the log (R355) have room for what then commits. `look` gives the places and causes in the
state after that PHASE, `oks` the places among them that commit, `go` the instruction's effect there. -/
def performAtomics {α : Type} (s : State) (x : Issue) (rel acq returns : Bool) (look : State → Unit → α × Bool)
    (oks : α → List (Nat × BitVec 12)) (go : State → Unit → α → Done) : Done :=
  if rel && !x.unit.quiet then .stall
  else
    let (s', u') := releasePhase s x.unit x.pc rel
    let (found, faulted) := look s' u'
    let n := (oks found).length
    let global := if returns then 0 else ((oks found).filter (fun p => !isDirect p.2)).length
    if 255 < x.unit.count 2 + global then .stall
    else withRoom s x.unit (if faulted then n + bit01 rel else entriesFor x.unit n (bit01 rel + bit01 acq)) (fun s u =>
      let (s, u) := releasePhase s u x.pc rel
      go s u (look s u).1)

/-- A scalar atomic's queueing, slice by slice. -/
def queueScalarAtomics (o : WArgs) (pc : W64) (s : State) (u : Unit) (ps : List (Slice × W64 × Nat × BitVec 12)) : State × Unit :=
  ps.foldl (fun (su : State × Unit) p =>
    let a : PendingAtomic :=
      { slice := p.1.idx, lane := none, ret := if o.d = 63 then none else some o.d, pa := p.2.2.1, va := p.2.1
        page := spanOf s u.ctx u.id.core p.2.1, op := o.op
        ty := o.ty, data := p.1.getS o.b, cmp := p.1.getS o.c, win := su.2.winno, pc := pc, retireId := none, frame := false }
    queueAtomic su.1 su.2 a p.2.2.2) (s, u)

/-- The places of a scalar atomic; poison is class 14 (R363). -/
def atomicPlaces (s : State) (u : Unit) (o : WArgs) (op : AccessOp) (vas : List (Slice × W64)) :
    Except Trap (List (Slice × W64 × Nat × BitVec 12)) :=
  match scalarPlaces s u .write op vas with
  | .error t => .error t
  | .ok ps => if ps.any (fun p => poisoned s p.2.2.1 (tyBytes o.ty)) then .error (poisonTrap 0) else .ok ps

/-- The trap of a scalar atomic, beside the effect of its `.REL`. -/
def atomicTrap (rel : Bool) (t : Trap) (s : State) (u : Unit) : Done := if rel then .trapAfter t s u else .trap t

/-- The places found by a scalar instruction that commit: all or none (R322). -/
def foundPlaces (r : Except Trap (List (Slice × W64 × Nat × BitVec 12))) : List (Nat × BitVec 12) :=
  match r with
  | .ok ps => ps.map (fun p => p.2.2)
  | .error _ => []

def execSatom (o : WArgs) (s : State) : Host.Outcome State Fault Refusal :=
  issue (.satom o) s (fun x =>
    let vas := scalarAddrs x o.a 0
    match misaligned (tyBytes o.ty) (vas.map (fun v => v.2)) with
    | some va => .trap (alignTrap va)
    | none =>
      performAtomics s x o.rel o.acq (o.d != 63)
        (fun s u => let r := atomicPlaces s u o (.atomic o.op o.ty) vas; (r, match r with | .ok _ => false | .error _ => true))
        foundPlaces
        (fun s u r => match r with
          | .error t => atomicTrap o.rel t s u
          | .ok ps =>
            let (s, u) := queueScalarAtomics o x.pc s u ps
            let u := if o.d = 63 then u
              else u.mapSlices x.js (fun t => { t.emptyS o.d with results := t.results ++ [.scalarWait o.d] })
            atomicEnd o.acq o.rel (tlbAfter s u (vas.map (fun v => v.2))) u))

/-- A vector atomic's queueing, lane by lane: the data of lane L is its vD element, the compare its vB element (R211). -/
def queueLaneAtomics (o : WArgs) (pc : W64) (s : State) (u : Unit) (oks : List (LaneAccess × Nat × BitVec 12)) : State × Unit :=
  let ty : TCode := if WellFormed.wideTy o.imm then .n64 else .n32
  oks.foldl (fun (su : State × Unit) p =>
    let a : PendingAtomic :=
      { slice := p.1.t.idx, lane := some p.1.l, ret := if o.retBit then some o.d else none, pa := p.2.1, va := p.1.va
        page := spanOf s u.ctx u.id.core p.1.va, op := o.op, ty := o.ty, data := BitVec.ofNat 64 (p.1.t.elem ty o.d p.1.l)
        cmp := if o.isCas then BitVec.ofNat 64 (p.1.t.elem ty o.b p.1.l) else 0, win := su.2.winno, pc := pc, retireId := none, frame := false }
    queueAtomic su.1 su.2 a p.2.2) (s, u)

/-- The result of a vector atomic on its way to a slice: the lanes that commit are still to be computed. -/
def awaitLanes (o : WArgs) (oks : List (LaneAccess × Nat × BitVec 12)) (t : Slice) : Slice :=
  let wide := WellFormed.wideTy o.imm
  let mine : BitVec 4 := (oks.filter (fun p => p.1.t.idx == t.idx)).foldl (fun m p => m ||| laneBit p.1.l) 0
  t.pushVector o.d wide mine mine (Vector.replicate 4 0) (Vector.replicate 4 0) false

/-- A vector atomic (R211). -/
def laneAtomic (i : Instr) (o : WArgs) (addr : Slice → Fin 4 → Option W64) (s : State) :
    Host.Outcome State Fault Refusal :=
  issue i s (fun x =>
    let n := tyBytes o.ty
    match laneMisaligned x o.km n (fun t => t.getS o.a) with
    | some va => .trap (alignTrap va)
    | none =>
      performAtomics s x o.rel o.acq o.retBit
        (fun s u =>
          let ls := markLost s (fun _ => n) (laneAccesses s { x with unit := u } o.km .write (.atomic o.op o.ty) addr)
          (ls, !(laneBad ls).isEmpty))
        (fun ls => (laneOks ls).map (fun p => p.2))
        (fun s u ls =>
          let oks := laneOks ls
          let (s, u) := queueLaneAtomics o x.pc s u oks
          let u := if o.retBit then u.mapSlices x.js (awaitLanes o oks) else u
          let s := tlbAfter s u (oks.map (fun p => p.1.va))
          laneEnd .write (laneBad ls) s u (atomicEnd o.acq o.rel s u)))

def execVatom (o : WArgs) (s : State) : Host.Outcome State Fault Refusal :=
  laneAtomic (.vatom o) o (fun t => consecutiveAddr (t.getS o.a) (tyBytes o.ty) t) s

def execGatom (o : WArgs) (s : State) : Host.Outcome State Fault Refusal :=
  laneAtomic (.gatom o) o (indexedAddr o (tyBytes o.ty)) s

/-! ### PHASE, FENCE and waits (R214-R217) -/

def execPhase (o : WArgs) (s : State) : Host.Outcome State Fault Refusal :=
  issue (.phase o) s (fun x => withRoom s x.unit (entriesFor x.unit 0 1) (fun s u => .phase s u .next))

/-- FENCE (R215): later sluice commands see every store issued so far, and wait for the pending ones. -/
def execFence (o : WArgs) (s : State) : Host.Outcome State Fault Refusal :=
  issue (.fence o) s (fun x => .seq s { x.unit with
    fenced := Overlay.layer x.unit.own x.unit.fenced
    fencedDirect := x.unit.direct.length, fencedAtomics := x.unit.atomics.length })

/-- The engine writes of retired operations become visible to the gang: a Wait on SLUICE covers every older one, also those that
an earlier Wait has covered (R179, R181). -/
def Unit.cover (u : Unit) (cls : Nat) : Unit :=
  if cls ≠ 0 then u
  else
    let live (id : Nat) : Bool := u.ops.any (fun o => o.id == id)
    let all := (u.engineDone.filter (fun e => !live e.1)).foldl (fun o e => Overlay.layer e.2 o) u.engineCovered
    { u with engineDone := u.engineDone.filter (fun e => live e.1), engineCovered := all, engineSeen := Overlay.layer all u.engineSeen }

def execWaitc (o : IArgs) (s : State) : Host.Outcome State Fault Refusal :=
  issue (.waitc o) s (fun x =>
    let cls := o.d.toNat
    let n := o.imm.toNat
    if x.unit.count cls ≤ n then .seq s (x.unit.cover cls)
    else .stay s (x.unit.park x.js (.waitc cls n) x.size))

/-- The comparison of MWAIT (R217). -/
def mwaitHolds (w32 unsigned : Bool) (cond : BitVec 4) (word value : W64) : Bool :=
  let w := if w32 then 32 else 64
  let rd (v : W64) : Int := if unsigned then (v.toNat % 2 ^ w : Nat) else toInt w v.toNat
  condition cond.toNat (rd word) (rd value)

/-- The word that MWAIT's atomic read finds at its performing point, as sD receives it. -/
def mwaitWord (s : State) (pa : Nat) (w32 unsigned : Bool) : W64 :=
  if w32 then extend (!unsigned) 4 (fromLe (s.mem.readBytes pa 4)) else BitVec.ofNat 64 (fromLe (s.mem.readBytes pa 8))

/-- The cluster cache that holds a watched word's monitor (R164, R165). Of a weight-store word, for which they name none, it is the one that
address bits [9:7] select on its die (DESIGN CHOICE, log entry 22). -/
def monitorCluster (pa : Nat) : Nat :=
  match placeOf pa with
  | .scratch c => clusterOf c
  | .hbm st => st * 8 + field pa 7 3
  | .weight d => d * 8 + field pa 7 3
  | _ => field pa 10 4 * 8 + field pa 7 3

/-- A monitor placed, if the cluster cache has a free one (R165). -/
def placeMonitor (s : State) (id : UnitId) (j pa : Nat) : State :=
  let c := monitorCluster pa
  if (s.monitors.filter (fun m => m.cluster == c)).length < Config.monitorsPerCluster then
    let m : Monitor := { cluster := c, word := pa / 8 * 8, unit := id, slice := j }
    { s with monitors := s.monitors ++ [m] }
  else s

/-- The monitor of a slice released. -/
def dropMonitor (s : State) (id : UnitId) (j : Nat) : State :=
  { s with monitors := s.monitors.filter (fun m => !(m.unit == id && m.slice == j)) }

/-- A slice at MWAIT after an atomic read: its condition has held once, and the word stands in the wait, or it waits. -/
def mwaitPark (w : Wait) (size : Nat) (held : Bool) (t : Slice) : Slice := { t with run := .parked w size held }

/-- MWAIT's slices once each has held (R217 step 4): sD receives the word in each, and the PHASE follows. -/
def mwaitReturn (t : Slice) : Slice :=
  match t.run with
  | .parked (.mwait _ _ _ _ value d) size _ =>
    let landed := t.results.map (fun r => if r == .scalarWait d then .scalar d value else r)
    { t with results := landed, run := .parked (.phase .next) size false }
  | _ => t

def execMwait (o : WArgs) (s : State) : Host.Outcome State Fault Refusal :=
  issue (.mwait o) s (fun x =>
    let w32 := o.sec.getLsbD 5
    let uns := o.sec.getLsbD 4
    let cond := o.sec.extractLsb' 0 4
    let vas := scalarAddrs x o.a 0
    match misaligned (if w32 then 4 else 8) (vas.map (fun v => v.2)) with
    | some va => .trap (alignTrap va)
    | none =>
      match scalarPlaces s x.unit .read .plain vas with
      | .error t => .trap t
      | .ok ps =>
        if refreshing s (ps.map (fun p => p.2.2.1)) then .stall
        else if ps.any (fun p => poisoned s p.2.2.1 (if w32 then 4 else 8)) then .trap (poisonTrap 0)
        else withRoom s x.unit (entriesFor x.unit 0 1) (fun s u =>
        let word (p : Slice × W64 × Nat × BitVec 12) : W64 := mwaitWord s p.2.2.1 w32 uns
        let holds (p : Slice × W64 × Nat × BitVec 12) : Bool := mwaitHolds w32 uns cond (word p) (p.1.getS o.b)
        let u := if o.d = 63 then u
          else u.mapSlices x.js (fun t => { t.emptyS o.d with results := t.results ++ [.scalarWait o.d] })
        let u := ps.foldl (fun u p => u.mapSlices [p.1.idx] (mwaitPark
          (.mwait p.2.1 w32 uns cond (if holds p then word p else p.1.getS o.b) o.d) x.size.toNat (holds p))) u
        let u := { u with autoCount := u.autoCount + (ps.filter holds).length }
        let s := tlbAfter s u (vas.map (fun v => v.2))
        if ps.all holds then .phase s (u.mapSlices x.js mwaitReturn) .next
        else .stay ((ps.filter (fun p => !holds p)).foldl (fun s p => placeMonitor s u.id p.1.idx p.2.2.1) s) u))

/-! ### Peers (R218) and PREF (R219) -/

/-- Operations sent to peers: each an irreversible mark, counted in PEER, in issue order (R186, R206).
With EN 0 it retires as failed at once (R416). -/
def sendPeer (s : State) (x : Issue) (u : Unit) (ps : List (Slice × W64 × Nat × BitVec 12))
    (op : Option (BitVec 4 × BitVec 3)) (n : Nat) (data : Slice → W64) : State × Unit :=
  let launch := launchIdOf s u
  ps.foldl (fun (su : State × Unit) p =>
    let s := logMark su.1 su.2 3 x.pc
    let (id, s) := s.fresh
    let peer := match placeOf p.2.2.1 with | .peer k => k | _ => 0
    let q : PeerOp :=
      { id := id, unit := u.id, launch := launch, peer := peer, pa := p.2.2.1 % 2 ^ 42, op := op
        bytes := leBytes (data p.1).toNat n, data := data p.1, issued := s.gtick
        tmo := (s.peer peer).tmo.toNat }
    if (s.peer peer).en then ({ s with peerOps := s.peerOps ++ [q] }, addOp su.2 3 id 1 false)
    else (failLaunch s launch, completeOp (addOp su.2 3 id 1 false) id)) (s, u)

def execPst (o : WArgs) (s : State) : Host.Outcome State Fault Refusal :=
  issue (.pst o) s (fun x =>
    let n := swBytes o.sec.toNat
    let vas := scalarAddrs x o.a (offset16 o.imm)
    match misaligned n (vas.map (fun v => v.2)) with
    | some va => .trap (alignTrap va)
    | none =>
      if peerAborts s x.unit (vas.map (fun v => v.2)) || hostAborts s x.unit (vas.map (fun v => v.2)) then .abort 5 0 0
      else match scalarPlaces s x.unit .write .peer vas with
      | .error t => .trap t
      | .ok ps =>
        if 255 < x.unit.count 3 + ps.length then .stall
        else withRoom s x.unit (entriesFor x.unit ps.length 0) (fun s u =>
          let (s, u) := sendPeer s x u ps none n (fun t => t.getS o.d)
          .stored (tlbAfter s u (vas.map (fun v => v.2))) u false))

/-- PATOM (R218): an implied PHASE first with `.REL`, and room in PEER for what commits (R30). -/
def execPatom (o : WArgs) (s : State) : Host.Outcome State Fault Refusal :=
  issue (.patom o) s (fun x =>
    let vas := scalarAddrs x o.a 0
    match misaligned (tyBytes o.ty) (vas.map (fun v => v.2)) with
    | some va => .trap (alignTrap va)
    | none =>
      let look (s : State) (u : Unit) : Except Trap (List (Slice × W64 × Nat × BitVec 12)) :=
        scalarPlaces s u .write .peer vas
      if 255 < x.unit.count 3 + (foundPlaces (look s x.unit)).length then .stall
      else performAtomics s x o.rel false true
        (fun s u => let r := look s u; (r, match r with | .ok _ => false | .error _ => true))
        foundPlaces
        (fun s u r => match r with
          | .error t => atomicTrap o.rel t s u
          | .ok ps =>
            let (s, u) := sendPeer s x u ps (some (o.op, o.ty)) (tyBytes o.ty) (fun t => t.getS o.b)
            let u := { u with autoCount := u.autoCount + ps.length }
            .stored (tlbAfter s u (vas.map (fun v => v.2))) u o.rel))

/-- PREF changes nothing but the PC (R219). -/
def execPref (o : IArgs) (s : State) : Host.Outcome State Fault Refusal := issue (.pref o) s (fun x => .seq s x.unit)

end Sys2Proof.Machine
end

