-- ==== Sys2Proof/Machine/Channel.lean ====
section
/-! DEFINITION. The places that sluice commands read and write, and channels (09_memory_places R168-R171, 12_sluice
R221-R224, R233). -/

namespace Sys2Proof.Machine

/-! ### What a piece of work meets -/

/-- Why a piece of a command's work does not happen now: it waits (for a full channel, a refresh window); a page is not
present; class 4 at an address; class 13 with a cause (R224); its data is poisoned (R363). -/
inductive Snag where
  | wait
  | page (va : W64) (acc : Access)
  | fatal (va : W64) (cause : Nat)
  | stop (cause : Nat)
  | lost
  deriving DecidableEq, Repr

/-- What a snag found while an instruction issues comes to (R221, R233). -/
def Snag.done : Snag → Done
  | .page va acc => .trap (accessTrap va acc 1)
  | .fatal va c => .trap (accessTrap va .read c)
  | .stop c => .trap (engineTrap c)
  | .wait => .stall
  | .lost => .trap (poisonTrap 0)

/-- The words of an instruction of a unit at a PC, for a trap frame. -/
def wordsAt (s : State) (u : Unit) (pc : W64) : W32 × W32 :=
  let rd (va : W64) : W32 := match findLeaf s u.ctx u.id.core va with
    | .ok l => BitVec.ofNat 32 (fromLe (s.mem.readBytes (canonPa (l.pa va.toNat)) 4))
    | .error _ => 0
  (rd pc, rd (pc + 4))

/-! ### Places -/

/-- An access of a command that runs on a core's sluice. -/
def cmdRequester (s : State) (u : Unit) (core : Nat) (acc : Access) (op : AccessOp) : Requester :=
  { ctx := u.ctx, core := core, levelS := u.isS, access := acc, op := op
    weight := ((launchOf s u).map (fun l => l.record.wload)).getD false }

/-- The place of an address; `spad` where the entry requires scratchpad (class 4, cause 8, R230). -/
def cmdPlace (s : State) (u : Unit) (core : Nat) (acc : Access) (op : AccessOp) (spad : Bool) (va : W64) :
    Except Snag (Nat × BitVec 12) :=
  match translate s (cmdRequester s u core acc op) va with
  | .error c => .error (if c = 1 then .page va acc else .fatal va c)
  | .ok (pa, a) =>
    match spad, placeOf pa with
    | true, .scratch _ => .ok (pa, a)
    | true, _ => .error (.fatal va 8)
    | false, _ => .ok (pa, a)

/-- A part of a range in its place: its address, its length, where it lies. -/
structure Part where
  va : W64
  len : Nat
  off : Nat
  pa : Nat
  attrs : BitVec 12
  deriving DecidableEq, Repr

/-- The places of parts, or the first snag. -/
def partPlaces (s : State) (u : Unit) (core : Nat) (acc : Access) (op : AccessOp) (spad : Bool) (va : W64) :
    List (Nat × Nat) → Except Snag (List Part)
  | [] => .ok []
  | (off, len) :: rest =>
    match cmdPlace s u core acc op spad (va + BitVec.ofNat 64 off) with
    | .error e => .error e
    | .ok (pa, a) =>
      match partPlaces s u core acc op spad va rest with
      | .error e => .error e
      | .ok ps => .ok ({ va := va + BitVec.ofNat 64 off, len := len, off := off, pa := pa, attrs := a } :: ps)

/-- The places of a range of `n` bytes. -/
def cmdRange (s : State) (u : Unit) (core : Nat) (acc : Access) (op : AccessOp) (spad : Bool) (va : W64) (n : Nat) :
    Except Snag (List Part) :=
  partPlaces s u core acc op spad va (pageParts (n / 4096 + 2) va.toNat n 0)

/-! ### Engine reads -/

/-- Stores of its gang that a command reads: those that FENCE or .ORD orders before it, and others it may see or not; `grain` is
how many bytes are decided together: a word, or the 64 bytes of a layout record (R171, R180). -/
structure Seen where
  held : Overlay
  may : Overlay
  grain : Nat := 8

/-- A byte that a command reads (R178, R180): a direct word as performed; else, by one free choice for each grain, what is published under
the gang's stores that are ordered before the command, or under all its stores issued before it. Of several stores between the two the
model offers only the last (log entry 24). -/
def cmdByte (s : State) (seen : Seen) (direct : Bool) (pa : Nat) : Byte :=
  let under (o : Overlay) : Byte := (Overlay.find o pa).getD (s.mem.read pa)
  if direct then s.mem.read pa
  else if seen.held = seen.may then under seen.held
  else under (if (s.freeAt (pa / seen.grain)).getLsbD 0 then seen.may else seen.held)

/-- What a peer answers to a read (R414): its bytes, which lie outside the package, or a failure (cause 28). -/
def peerBytes (s : State) (p pa n : Nat) : Except Snag (List Byte) :=
  let t := s.peer p
  if t.en && t.up && (s.freeAt (2 * pa)).getLsbD 0 then
    .ok ((List.range n).map (fun i => (s.freeAt (2 * ((pa + i) / 8) + 1)).extractLsb' (8 * ((pa + i) % 8)) 8))
  else .error (.stop 28)

/-- Bytes of one part. -/
def partBytes (s : State) (seen : Seen) (p : Part) : Except Snag (List Byte) :=
  if poisoned s p.pa p.len then .error .lost
  else match placeOf p.pa with
  | .peer k => peerBytes s k p.pa p.len
  | _ => if inRefresh s p.pa then .error .wait
      else .ok ((List.range p.len).map (fun i => cmdByte s seen (isDirect p.attrs) (p.pa + i)))

/-- The bytes of parts in order. -/
def partsBytes (s : State) (seen : Seen) : List Part → Except Snag (List Byte)
  | [] => .ok []
  | p :: ps =>
    match partBytes s seen p, partsBytes s seen ps with
    | .error e, _ => .error e
    | _, .error e => .error e
    | .ok a, .ok b => .ok (a ++ b)

/-- `n` bytes that a command reads from an address. -/
def cmdRead (s : State) (u : Unit) (seen : Seen) (core : Nat) (spad : Bool) (va : W64) (n : Nat) : Except Snag (List Byte) :=
  match cmdRange s u core .read .engine spad va n with
  | .error e => .error e
  | .ok ps => partsBytes s seen ps

/-! ### Engine writes -/

/-- A write of a command, or an atomic, ready to be performed. -/
structure EngineStore where
  atomic : Bool
  va : W64
  pa : Nat
  direct : Bool
  bytes : List Byte
  deriving DecidableEq, Repr

/-- A range to be written. -/
def cmdWrite (s : State) (u : Unit) (core : Nat) (spad : Bool) (va : W64) (bs : List Byte) : Except Snag (List EngineStore) :=
  match cmdRange s u core .write .engine spad va bs.length with
  | .error e => .error e
  | .ok ps => .ok (ps.map (fun p =>
      { atomic := false, va := p.va, pa := p.pa, direct := isDirect p.attrs, bytes := slice bs p.off p.len }))

/-- Log entries of writes. -/
def storeEntries (ws : List EngineStore) : Nat :=
  ws.foldl (fun n w => n + if w.atomic then 1 else (wordPieces w.pa w.bytes.length).length) 0

/-- Writes performed in order. -/
def runStores (s : State) (u : Unit) (win : W32) (pc : W64) (ws : List EngineStore) : State :=
  ws.foldl (fun s w =>
    if w.atomic then engineAtomic s u win pc w.va w.pa w.direct w.bytes
    else engineWrite s u win pc w.va w.pa w.direct w.bytes) s

/-- The snapshot words among writes, for the issuer's later reads (R181). -/
def touchedBy (o : Overlay) (ws : List EngineStore) : Overlay :=
  ws.foldl (fun o w => if w.direct then o else Overlay.putBytes o w.pa w.bytes) o

/-! ### Channels (R168, R169) -/

/-- A channel descriptor as read, and where it lies. -/
structure Chan where
  va : W64
  pa : Nat
  base : W64
  slotsz : Nat
  nslot : Nat
  wptr : W32
  rptr : W32
  deriving DecidableEq, Repr

/-- Full slots. -/
def Chan.full (c : Chan) : Nat := (c.wptr - c.rptr).toNat

/-- The address of a slot. -/
def Chan.slot (c : Chan) (i : W32) : W64 := c.base + BitVec.ofNat 64 (i.toNat % c.nslot * c.slotsz)

/-- The fields of a descriptor, as R168 lays them out. -/
def chanOf (va : W64) (pa : Nat) (bs : List Byte) : Chan :=
  let x := fromLe bs
  { va := va, pa := pa, base := BitVec.ofNat 64 x, slotsz := field x 64 32, nslot := field x 96 16
    wptr := BitVec.ofNat 32 (field x 128 32), rptr := BitVec.ofNat 32 (field x 160 32) }

/-- R168, R169: the fields in range, reserved bits zero, the count within NSLOT. -/
def chanForm (c : Chan) (bs : List Byte) : Bool :=
  let x := fromLe bs
  c.base.toNat % 16 == 0 && c.slotsz % 16 == 0 && 16 ≤ c.slotsz && c.slotsz ≤ 65536 && 1 ≤ c.nslot && c.nslot ≤ 4096
    && field x 112 16 == 0 && field x 192 64 == 0 && c.full ≤ c.nslot

/-- A descriptor read and checked (R168, R233): its slots in the scratchpad that holds it, or cause 18. An instruction reads it as `.plain`,
so that a peer page is class 4 (R160, R413), a command as `.engine`. -/
def readChan (s : State) (u : Unit) (core : Nat) (acc : Access) (op : AccessOp) (va : W64) : Except Snag Chan :=
  match cmdPlace s u core acc op false va with
  | .error e => .error e
  | .ok (pa, _) =>
    let bs := s.mem.readBytes pa 32
    let c := chanOf va pa bs
    match scratchCore pa with
    | none => .error (.stop 18)
    | some n =>
      if poisoned s pa 32 then .error .lost
      else if !chanForm c bs then .error (.stop 18)
      else match cmdPlace s u core .read op false c.base,
                 cmdPlace s u core .read op false (c.base + BitVec.ofNat 64 (c.nslot * c.slotsz - 1)) with
        | .error e, _ => .error e
        | _, .error e => .error e
        | .ok (p, _), .ok (q, _) => if scratchCore p = some n ∧ scratchCore q = some n then .ok c else .error (.stop 18)

/-- A pointer of a descriptor, WPTR at byte 16 or RPTR at byte 20, given a new value. -/
def Chan.store (c : Chan) (atomic : Bool) (off : Nat) (x : W32) : EngineStore :=
  { atomic := atomic, va := c.va + BitVec.ofNat 64 off, pa := c.pa + off, direct := true, bytes := leBytes x.toNat 4 }

/-- A slot written whole, the rest of it zero, and then WPTR advanced (R169, R230); a full channel holds it back. A slot between the first and
the last that lies in another scratchpad than the descriptor is cause 18 as it is written: the rule has all of them in one (R168), and
when such a slot is met it does not say (DEDUCED, log entry 23). -/
def chanPush (s : State) (u : Unit) (core : Nat) (va : W64) (bs : Option (List Byte)) : Except Snag (List EngineStore) :=
  match readChan s u core .write .engine va with
  | .error e => .error e
  | .ok c =>
    if c.full = c.nslot then .error .wait
    else match bs with
      | none => .ok [c.store false 16 (c.wptr + 1)]
      | some bs =>
        if c.slotsz < bs.length then .error (.stop 18)
        else match cmdWrite s u core true (c.slot c.wptr) (bs ++ List.replicate (c.slotsz - bs.length) 0) with
          | .error e => .error e
          | .ok ws =>
            if ws.all (fun w => scratchCore w.pa == scratchCore c.pa) then .ok (ws ++ [c.store false 16 (c.wptr + 1)])
            else .error (.stop 18)

/-! ### Channel instructions (R233) -/

/-- Slices that waited at an instruction continue behind it (R253). -/
def Unit.release (u : Unit) (js : List Nat) : Unit :=
  u.mapSlices js (fun t => match t.run with
    | .parked _ size _ => { t with pc := t.pc + BitVec.ofNat 64 size, seqF := true, replay := none, run := .running }
    | _ => t)

/-- CHWAIT (R233): the slot at RPTR + n, once it is full. -/
def execChwait (o : WArgs) (s : State) : Host.Outcome State Fault Refusal :=
  issue (.chwait o) s (fun x =>
    let va := x.low.getS o.a
    let n := o.imm.toNat
    if va.toNat % 32 ≠ 0 then .trap (alignTrap va)
    else match readChan s x.unit x.unit.id.core .read .plain va with
      | .error e => e.done
      | .ok c =>
        if c.nslot ≤ n then .trap (engineTrap 18)
        else
          let s := tlbAfter s x.unit [va]
          if n < c.full then .seq s (x.unit.mapSlices x.js (fun t => t.putS o.d (c.slot (c.rptr + BitVec.ofNat 32 n))))
          else
            let u := if o.d = 63 then x.unit
              else x.unit.mapSlices x.js (fun t => { t.emptyS o.d with results := t.results ++ [.scalarWait o.d] })
            .stay s (u.park x.js (.chwait va n o.d) x.size))

/-- CHREL (R233): an atomic addition to RPTR. -/
def execChrel (o : WArgs) (s : State) : Host.Outcome State Fault Refusal :=
  issue (.chrel o) s (fun x =>
    let va := x.low.getS o.a
    let n := o.imm.toNat + 1
    if va.toNat % 32 ≠ 0 then .trap (alignTrap va)
    else match readChan s x.unit x.unit.id.core .write .plain va with
      | .error e => e.done
      | .ok c =>
        if c.full < n then .trap (engineTrap 18)
        else withRoom s x.unit (entriesFor x.unit 1 0) (fun s u =>
          let rptr := leBytes (c.rptr + BitVec.ofNat 32 n).toNat 4
          let s := logWrite s u 1 (va + 20) (s.mem.readBytes (c.pa + 20) 4) (c.pa + 20) true false
          .stored (performAt (tlbAfter s u [va]) (c.pa + 20) rptr) { u with autoCount := u.autoCount + 1 } false))

/-- ROWBAR (R233): the count read as n64. -/
def execRowbar (o : WArgs) (s : State) : Host.Outcome State Fault Refusal :=
  issue (.rowbar o) s (fun x =>
    let va := x.low.getS o.a
    let n := x.low.getS o.b
    if va.toNat % 32 ≠ 0 then .trap (alignTrap va)
    else match readChan s x.unit x.unit.id.core .read .plain va with
      | .error e => e.done
      | .ok c =>
        if c.nslot < n.toNat then .trap (engineTrap 18)
        else if n.toNat ≤ c.full then .seq (tlbAfter s x.unit [va]) x.unit
        else .stay (tlbAfter s x.unit [va]) (x.unit.park x.js (.rowbar va n) x.size))

end Sys2Proof.Machine
end

