-- ==== Sys2Proof/Machine/Convert.lean ====
section
/-! DEFINITION. Conversions and BFPACK (05_numbers R62-R69, R73, R75; 06_arithmetic_instructions R102-R105). -/

namespace Sys2Proof.Machine

/-- The threshold of stochastic rounding (R68): gang id, lane and the slice's count, j = 0. -/
def srThreshold (u : Unit) (t : Slice) (l : Fin 4) : Nat :=
  let lane := 4 * t.idx + l.val
  let index := u.gangId.toNat * 2 ^ 46 + lane * 2 ^ 41 + t.srcount.toNat
  (gen u.srseed (BitVec.ofNat 64 index)).toNat % 2 ^ 16

/-- The rounding of a conversion: SR for its code, else R45. -/
def convRm (u : Unit) (t : Slice) (rm : RmCode) (l : Fin 4) : Rm :=
  if rm = .sr then .sr (srThreshold u t l) else rmFor t.fpctl rm

/-- The value of a conversion's source (R102, R103): a T code, or e8m0 with SEC 0x10, 2^(E - 127) with 0xFF a NaN, quiet
by the model's choice (log entry 25). FTZ does not apply (R66). -/
def convSource (o : PArgs) (t : Slice) (l : Fin 4) : Val :=
  if o.sec = 0x10 then
    let e := (t.getV o.a l).toNat % 256
    if e = 255 then .nan false else .num false 1 ((e : Int) - 127) false
  else
    let ty := WellFormed.convSrc o
    (formatOf ty).decode (t.elem ty o.a l)

/-- A slice whose stochastic-rounding count has advanced by one (R69). -/
def Slice.countSr (t : Slice) : Slice := { t with srcount := t.srcount + 1 }

/-- The advance of R69 belongs to the issue itself, whether or not class 7 is raised. -/
def countedIssue (js : List Nat) : Done → Done
  | .seq s u => .seq s (u.mapSlices js Slice.countSr)
  | .trapAfter t s u => .trapAfter t s (u.mapSlices js Slice.countSr)
  | d => d

/-- FCVT (R103). -/
def fcvtLane (o : PArgs) (u : Unit) (t : Slice) (l : Fin 4) : Nat × Flags :=
  (formatOf o.t).deliver (convRm u t o.rm l) o.s (convSource o t l)

def execFcvt (o : PArgs) (s : State) : Host.Outcome State Fault Refusal :=
  issue (.fcvt o) s (fun x =>
    let d := match lanewise s x o.km (fcvtLane o x.unit) (writeElems o.t o.d) with
      | .trap t => .trapAfter t s x.unit
      | d => d
    if o.rm = .sr then countedIssue x.js d else d)

/-- FCVTI of a value (R104): the nearest bound with NV out of range, NX when inexact in range. -/
def toInteger (ty : TCode) (rm : Rm) : Val → Nat × Flags
  | .nan _ => (0, Flags.nv)
  | .inf n => (wrapNat (widthOf ty) (if n then loOf ty else hiOf ty), Flags.nv)
  | .num n m e st =>
    let r := roundInt rm n m e st
    if r.1 < loOf ty then (wrapNat (widthOf ty) (loOf ty), Flags.nv)
    else if hiOf ty < r.1 then (wrapNat (widthOf ty) (hiOf ty), Flags.nv)
    else (wrapNat (widthOf ty) r.1, if r.2 then Flags.nx else 0)

def execFcvti (o : PArgs) (s : State) : Host.Outcome State Fault Refusal :=
  issue (.fcvti o) s (fun x => lanewise s x o.km
    (fun t l => toInteger o.t (rmFor t.fpctl o.rm) (convSource o t l)) (writeElems o.t o.d))

/-- ICVTF (R104). -/
def execIcvtf (o : PArgs) (s : State) : Host.Outcome State Fault Refusal :=
  issue (.icvtf o) s (fun x => lanewise s x o.km
    (fun t l => (formatOf o.t).deliver (rmFor t.fpctl o.rm) o.s (Val.ofInt (intElem (WellFormed.convSrc o) t o.a l)))
    (writeElems o.t o.d))

/-! ### BFPACK -/

/-- A value's mantissa at exponent `e` and width `w`, before the clamp (R75). -/
def mantissa (w : Nat) (e : Int) (m : Nat) (x : Int) : Nat := (roundTo .rne false m x (e - w + 2) false).1

/-- The exponent that R75 chooses for finite non-zero magnitudes `(m, e)` at width `w`; none for no magnitude. -/
def blockExponent (w : Nat) : List (Nat × Int) → Option Int
  | [] => none
  | v :: vs =>
    let top (p : Nat × Int) : Int := p.2 + bitLen p.1 - 1
    let e := (v :: vs).foldl (fun a p => max a (top p)) (top v)
    some (if (v :: vs).any (fun p => 2 ^ (w - 1) ≤ mantissa w e p.1 p.2) then e + 1 else e)

/-- The finite non-zero magnitudes of values. -/
def magnitudes (vs : List Val) : List (Nat × Int) :=
  vs.filterMap (fun v => match v with | .num _ m e _ => if m = 0 then none else some (m, e) | _ => none)

/-- The values of BFPACK's source in the active lanes of a group, by gang lane. -/
def packValues (o : PArgs) (ts : List Slice) : List (Nat × Val) :=
  ts.flatMap (fun t => (lanesOf (actOf t o.km)).map (fun l => (4 * t.idx + l.val, (formatOf o.t).decode (t.elem o.t o.a l))))

/-- The exponents of the two blocks of a gang (R105). -/
def packExponent (o : PArgs) (vals : List (Nat × Val)) (g : Nat) : Option Int :=
  blockExponent o.sec.toNat (magnitudes ((vals.filter (fun p => p.1 / 16 == g)).map (fun p => p.2)))

/-- The smallest exponent of a non-zero block, or BEXP. -/
def packSmallest (o : PArgs) (vals : List (Nat × Val)) (bexp : Int) : Int :=
  match packExponent o vals 0, packExponent o vals 1 with
  | some a, some b => min a b
  | some a, none => a
  | none, some b => b
  | none, none => bexp

/-- One element of BFPACK's loop (R105). -/
def packLane (w : Nat) (bexp : Int) (e : Option Int) (smallest : Int) (v : Val) : Nat × Flags :=
  let erep := e.getD (-256)
  let eg0 := e.getD smallest
  let eg := max (min eg0 bexp) (bexp - 15)
  let satd := if bexp < eg0 then Flags.satd else 0
  let top := 2 ^ (w - 1) - 1
  let (mag, neg, fl) : Nat × Bool × Flags := match v with
    | .inf n => (top, n, 0)
    | .nan _ => (0, false, Flags.nv)
    | .num n m x _ =>
      let q := min (mantissa w eg m x) top
      (q, n, if m ≠ 0 ∧ q = 0 then Flags.bflush else 0)
  (wrapNat 9 erep * 2 ^ 12 + (bexp - eg).toNat * 2 ^ 8 + wrapNat 8 (if neg then -(mag : Int) else mag), satd ||| fl)

def execBfpack (o : PArgs) (s : State) : Host.Outcome State Fault Refusal :=
  issue (.bfpack o) s (fun x =>
    let vals := packValues o x.slices
    let bexp := toInt 9 (x.low.getS o.b).toNat
    let smallest := packSmallest o vals bexp
    lanewise s x o.km
      (fun t l => packLane o.sec.toNat bexp (packExponent o vals (t.idx / 4)) smallest
        ((formatOf o.t).decode (t.elem o.t o.a l)))
      (writeElems .n32 o.d))

end Sys2Proof.Machine
end

