-- ==== Sys2Proof/Machine/Sluice.lean ====
section
/-! DEFINITION. The issue of sluice commands (12_sluice R221-R243). Their work is in SluiceRun.lean. -/

namespace Sys2Proof.Machine

/-- A command as it enters a queue (R221): a store of its gang issued before a FENCE, or before itself with .ORD, it must see;
one issued before it and not published it may see (R180, R223). -/
def newCommand (u : Unit) (execOn : Nat) (major : BitVec 7) (op : SluiceOp) (ord : Bool) (id : Nat) (pc : W64) (phase : SluicePhase) :
    SluiceCommand :=
  { unit := u.id, execOn := execOn, seq := u.seqNo, major := major, op := op, ord := ord
    held := if ord then u.own else u.fenced, may := u.own
    fencedDirect := if ord then u.direct.length else u.fencedDirect
    fencedAtomics := if ord then u.atomics.length else u.fencedAtomics
    win := u.winno, retireId := id, pc := pc, phase := phase, row := 0, layout := none, head := none, tokens := [], flags := 0
    bexp := 0, count := 0, nvoid := 0, touched := [], pins := [], toFrame := false }

/-- The entry into the issuing core's queue of 32, with the next sequence number, counted in SLUICE; a full queue or counter holds it
back (R30, R221). The sluice of `execOn` executes it; `prep` marks the destination. -/
def enqueue (s : State) (x : Issue) (execOn : Nat) (major : BitVec 7) (op : SluiceOp) (ord : Bool) (phase : SluicePhase)
    (prep : State → Unit → Done) : Done :=
  let c := s.coreAt x.unit.id.core
  if Config.sluiceQueue ≤ c.sluice.length ∨ 255 ≤ x.unit.count 0 then .stall
  else
    let (id, s) := s.fresh
    let cmd := newCommand x.unit execOn major op ord id x.pc phase
    let u := addOp x.unit 0 id 1 false
    prep (s.setCore { c with sluice := c.sluice ++ [cmd] }) { u with seqNo := u.seqNo + 1 }

/-- A command that writes no register. -/
def enqueuePlain (s : State) (x : Issue) (major : BitVec 7) (op : SluiceOp) (ord : Bool) : Done :=
  enqueue s x x.unit.id.core major op ord .queued (fun s u => .seq s u)

/-- The index vector of the active lanes, in increasing order, as n32 (R230). -/
def indexVector (x : Issue) (km : Nat) (r : Reg) : List W32 := (groupLanes x.slices km).map (fun p => p.1.getV r p.2)

/-- CP (R228): shape of the window in imm16. -/
def copyOp (ld : Bool) (spad lrec origin : W64) (shape : BitVec 16) : SluiceOp :=
  .cp ld spad lrec origin ((shape >>> 10).toNat + 1) ((shape >>> 4).toNat % 64 + 1) (shape.toNat % 16)

/-- The least bytes that a window takes in the scratchpad: its elements by FMTX, one byte each where the record's format decides (R228). -/
def windowBytes (rows cols fmtx : Nat) : Nat :=
  let n := rows * cols
  if fmtx = 0 then n else if fmtx = 3 then n + (n / 16 + 1) / 2 else 2 * n

/-- The check of a window's scratchpad address as CP issues (R138, R228): in the scratchpad of the core that executes it, and with room
for the window, or class 4 with cause 8. -/
def windowSnag (s : State) (u : Unit) (core : Nat) (ld : Bool) (spad : W64) (shape : BitVec 16) : Option Done :=
  match cmdPlace s u core (if ld then .write else .read) .matrix true spad with
  | .error e => some e.done
  | .ok (pa, _) =>
    let n := windowBytes ((shape >>> 10).toNat + 1) ((shape >>> 4).toNat % 64 + 1) (shape.toNat % 16)
    if 2 ^ 18 < pa % 2 ^ 18 + n then some (.trap (accessTrap spad .read 8)) else none

/-- CP (R228). Of two misaligned registers class 5 reports sD, of CPCONV's and BGATHER's sA (R221 does not order them: DESIGN CHOICE, log
entry 23). -/
def copyWindow (i : Instr) (o : WArgs) (ld : Bool) (s : State) : Host.Outcome State Fault Refusal :=
  issue i s (fun x =>
    let spad := x.low.getS o.d
    let lrec := x.low.getS o.a
    if spad.toNat % 64 ≠ 0 then .trap (alignTrap spad)
    else if lrec.toNat % 64 ≠ 0 then .trap (alignTrap lrec)
    else match windowSnag s x.unit x.unit.id.core ld spad o.imm with
      | some d => d
      | none => enqueuePlain s x 0x66 (copyOp ld spad lrec (x.low.getS o.b) o.imm) o.ordBit)

def execCpLd (o : WArgs) (s : State) : Host.Outcome State Fault Refusal := copyWindow (.cpLd o) o true s
def execCpSt (o : WArgs) (s : State) : Host.Outcome State Fault Refusal := copyWindow (.cpSt o) o false s

/-- Alignment of the bases of CPX, CPS and CPRED, and of a channel (R168, R230). -/
def rowBases (a d : W64) (na nd : Nat) : Option W64 :=
  if a.toNat % na ≠ 0 then some a else if d.toNat % nd ≠ 0 then some d else none

def execCpx (o : WArgs) (s : State) : Host.Outcome State Fault Refusal :=
  issue (.cpx o) s (fun x =>
    let sp := o.sec.getLsbD 0
    match rowBases (x.low.getS o.a) (x.low.getS o.d) 4 (if sp then 4 else 32) with
    | some va => .trap (alignTrap va)
    | none => enqueuePlain s x 0x67 (.cpx sp (x.low.getS o.d) (x.low.getS o.a) (indexVector x o.km o.b) o.imm.toNat) o.ordBit)

def execCps (o : WArgs) (s : State) : Host.Outcome State Fault Refusal :=
  issue (.cps o) s (fun x =>
    match rowBases (x.low.getS o.a) (x.low.getS o.d) 4 4 with
    | some va => .trap (alignTrap va)
    | none => enqueuePlain s x 0x68 (.cps (x.low.getS o.d) (x.low.getS o.a) (indexVector x o.km o.b) o.imm.toNat) o.ordBit)

def execCpred (o : WArgs) (s : State) : Host.Outcome State Fault Refusal :=
  issue (.cpred o) s (fun x =>
    let ty : BitVec 3 := o.sec.extractLsb' 4 3
    let n := tyBytes ty
    match rowBases (x.low.getS o.a) (x.low.getS o.d) n n with
    | some va => .trap (alignTrap va)
    | none =>
      enqueuePlain s x 0x69
        (.cpred (x.low.getS o.d) (x.low.getS o.a) (indexVector x o.km o.b) o.imm.toNat (o.sec.extractLsb' 0 4) ty) o.ordBit)

/-- CPCONV (R231, R232). -/
def execCpconv (o : WArgs) (s : State) : Host.Outcome State Fault Refusal :=
  issue (.cpconv o) s (fun x =>
    let sp := o.sec.getLsbD 0
    let lrec := x.low.getS o.a
    let dst := x.low.getS o.d
    if lrec.toNat % 64 ≠ 0 then .trap (alignTrap lrec)
    else if !sp && dst.toNat % 32 != 0 then .trap (alignTrap dst)
    else enqueuePlain s x 0x6A
      (.cpconv sp dst lrec (x.low.getS o.b) (x.low.getS (o.imm.extractLsb' 0 6)) ((o.imm >>> 6).toNat + 1)) o.ordBit)

/-- CPSTAGE (R221, R229): the team's next schedule entry, in the issuing core's queue, executed on the sluice that it names; an entry with a bad ordinal or reserved field
stops at its start with cause 20. -/
def execCpstage (o : WArgs) (s : State) : Host.Outcome State Fault Refusal :=
  issue (.cpstage o) s (fun x =>
    match s.team? x.unit.team, launchOf s x.unit with
    | some t, some l =>
      match l.sched[t.cursor]? with
      | none => .trap (engineTrap 26)
      | some e =>
        if e.spad.toNat % 64 ≠ 0 then .trap (alignTrap e.spad)
        else if e.lrec.toNat % 64 ≠ 0 then .trap (alignTrap e.lrec)
        else
          let bad := !e.reservedOk || decide (t.cores.length ≤ e.ord)
          let core := if bad then x.unit.id.core else t.cores.getD e.ord x.unit.id.core
          match if bad then none else windowSnag s x.unit core (!e.st) e.spad e.shape with
          | some d => d
          | none => enqueue s x core 0x6B
            (copyOp (!e.st) e.spad e.lrec e.origin e.shape) o.ordBit (if bad then .stopped 20 else .queued)
            (fun s u => .seq (s.setTeam { t with cursor := t.cursor + 1 }) u)
    | _, _ => .trap (engineTrap 26))

/-- MOEDISP (R235): the active lanes with their experts. -/
def execMoedisp (o : WArgs) (s : State) : Host.Outcome State Fault Refusal :=
  issue (.moedisp o) s (fun x =>
    let desc := x.low.getS o.a
    if desc.toNat % 64 ≠ 0 then .trap (alignTrap desc)
    else enqueuePlain s x 0x6F (.moedisp (x.low.getS o.d) desc
      ((groupLanes x.slices o.km).map (fun p => (laneNo p.1 p.2, p.1.getV o.b p.2)))) o.ordBit)

/-- What a command of this unit would read (R180). -/
def seenNow (u : Unit) (ord : Bool) : Seen := { held := if ord then u.own else u.fenced, may := u.own }

/-- Whether direct stores or atomics are pending that FENCE, or .ORD, orders before what a command of this unit reads (R180, R215). -/
def fencePending (u : Unit) (ord : Bool) : Bool :=
  if ord then !u.direct.isEmpty || !u.atomics.isEmpty else u.fencedDirect != 0 || u.fencedAtomics != 0

/-- The registers of a key or query of `d` elements, from `r` on, and the last register that it reaches (R237). -/
def signRegs (u : Unit) (d : Nat) (r : Reg) : List Reg × Nat :=
  let last := r.toNat + (d + u.lanes - 1) / u.lanes - 1
  ((List.range (min last 63 + 1 - r.toNat)).map (fun k => r + BitVec.ofNat 6 k), last)

/-- Whether all of them are full in a group's slices. -/
def signFull (x : Issue) (rs : List Reg) : Bool := rs.all (fun r => x.slices.all (fun t => t.fullV r false))

/-- The elements of a key or query (R237): element j in lane j mod W of register vX + ⌊j / W⌋, d of them by the descriptor, which is an
engine read behind what FENCE or .ORD orders before it (R173, R180). A policy bit is of the named register alone (R26): an empty later
register always makes it wait (DESIGN CHOICE, log entry 23). -/
def signElements (s : State) (x : Issue) (head : W64) (r : Reg) (ord : Bool) (go : List W32 → Done) : Done :=
  if head.toNat % 128 ≠ 0 then .trap (alignTrap head)
  else if fencePending x.unit ord then .stall
  else match cmdRead s x.unit (seenNow x.unit ord) x.unit.id.core false (head + 50) 1 with
    | .error e => e.done
    | .ok bs =>
      let d := fromLe bs + 1
      let w := x.unit.lanes
      let (regs, last) := signRegs x.unit d r
      if !signFull x regs then .stall
      else if 63 < last then .trap (engineTrap 21)
      else
        let elem (j : Nat) : Option W32 :=
          (x.slices.find? (fun t => t.idx == j % w / 4)).map (fun t => t.getV (r + BitVec.ofNat 6 (j / w)) (Fin.ofNat 4 (j % w)))
        if (List.range d).any (fun j => (elem j).isNone) then .trap (engineTrap 22)
        else go ((List.range d).filterMap elem)

/-- KST (R238). -/
def execKst (o : WArgs) (s : State) : Host.Outcome State Fault Refusal :=
  issue (.kst o) s (fun x =>
    let head := x.low.getS o.a
    signElements s x head o.d o.ordBit (fun key =>
      enqueuePlain s x 0x70 (.kst head (x.low.getS o.b) key) o.ordBit))

/-- QSIG (R237): vD emptied in the executing slices. -/
def execQsig (o : WArgs) (s : State) : Host.Outcome State Fault Refusal :=
  issue (.qsig o) s (fun x =>
    let head := x.low.getS o.a
    signElements s x head o.b o.ordBit (fun q =>
      enqueue s x x.unit.id.core 0x71 (.qsig head q o.d x.js) o.ordBit .queued (fun s u =>
        .seq s (u.mapSlices x.js (fun t =>
          { t.emptyV o.d false with
            results := t.results ++ [.vector o.d false 0xF 0xF (Vector.replicate 4 0) (Vector.replicate 4 0) false] })))))

/-- BGATHER (R239): the signature from the lowest lane of the group; the group waits for its probe, sD emptied. -/
def execBgather (o : WArgs) (s : State) : Host.Outcome State Fault Refusal :=
  issue (.bgather o) s (fun x =>
    let head := x.low.getS o.a
    let chan := x.low.getS (o.imm.extractLsb' 0 6)
    if head.toNat % 128 ≠ 0 then .trap (alignTrap head)
    else if chan.toNat % 32 ≠ 0 then .trap (alignTrap chan)
    else
      enqueue s x x.unit.id.core 0x72
        (.bgather head (x.low.getV o.b 0) (o.sec.getLsbD 0) (o.sec.getLsbD 1) chan o.d x.js) o.ordBit .queued (fun s u =>
        let u := if o.d = 63 then u
          else u.mapSlices x.js (fun t => { t.emptyS o.d with results := t.results ++ [.scalarWait o.d] })
        .stay s (u.park x.js .probe x.size)))

end Sys2Proof.Machine
end

