-- ==== Sys2Proof/Machine/Layout.lean ====
section
/-! DEFINITION. The records that sluice commands read, tensor elements, tiles in canonical form, signatures and pans
(05_numbers R63, R70-R77, 09_memory_places R170-R171, 12_sluice R228, R231-R240). -/

namespace Sys2Proof.Machine

/-- The results of a list, or its first failure. -/
def eachOk {α β ε : Type} (f : α → Except ε β) : List α → Except ε (List β)
  | [] => .ok []
  | x :: xs =>
    match f x with
    | .error e => .error e
    | .ok y => match eachOk f xs with
      | .error e => .error e
      | .ok ys => .ok (y :: ys)

/-- The stores of its gang that a command reads. -/
def SluiceCommand.seen (k : SluiceCommand) : Seen := { held := k.held, may := k.may }

/-! ### Layout records (R170, R171) -/

/-- Bits of an element of a storage format. -/
def fmtBits (fmt : Nat) : Nat :=
  if fmt = 7 then 4 else if fmt = 0 ∨ fmt = 5 ∨ fmt = 6 then 8 else if fmt = 2 ∨ fmt = 8 then 32 else 16
def fmtBytes (fmt : Nat) : Nat := fmtBits fmt / 8

/-- The fields of a record. -/
def layoutOf (bs : List Byte) : LayoutRec :=
  let x := fromLe bs
  { base := BitVec.ofNat 64 x, scale := BitVec.ofNat 64 (field x 64 64), ndim := field x 128 3, fmt := field x 131 5
    ver := BitVec.ofNat 16 (field x 136 16), pad := BitVec.ofNat 32 (field x 160 32)
    ext := (List.range 5).map (fun i => field x (192 + 56 * i) 24)
    str := (List.range 5).map (fun i => toInt 32 (field x (192 + 56 * i + 24) 32)) }

/-- The rules of a record's fields (cause 17). -/
def layoutForm (bs : List Byte) : Bool :=
  let x := fromLe bs
  let l := layoutOf bs
  let dims := List.range 5
  decide (1 ≤ l.ndim ∧ l.ndim ≤ 5) && decide (l.fmt ≤ 8) && field x 152 8 == 0 && field x 472 8 == 0
    && dims.all (fun i => if i < l.ndim then l.ext.getD i 0 != 0 else l.ext.getD i 0 == 0 && l.str.getD i 0 == 0)
    && (l.fmt == 7 || l.scale == 0) && (l.fmt == 7 || l.base.toNat % fmtBytes l.fmt == 0)
    && decide (l.pad.toNat < 2 ^ fmtBits l.fmt)
    && (l.fmt != 7 || (l.str.getD 0 0 == 1 && l.ext.getD 0 0 % 32 == 0 && (l.str.drop 1).all (fun x => x % 32 == 0)))

/-- A record read by a command as it starts, in one piece: its seal first, then its fields. -/
def readLayout (s : State) (u : Unit) (core : Nat) (k : SluiceCommand) (va : W64) : Except Snag LayoutRec :=
  match cmdRead s u { k.seen with grain := 64 } core false va 64 with
  | .error e => .error e
  | .ok bs =>
    if crc32c (bs.take 60) ≠ BitVec.ofNat 32 (fromLe (bs.drop 60)) then .error (.stop 16)
    else if !layoutForm bs then .error (.stop 17)
    else .ok (layoutOf bs)

/-- The extent of a dimension; an absent one counts as 1 (R228). -/
def LayoutRec.extent (l : LayoutRec) (i : Nat) : Nat := if i < l.ndim then l.ext.getD i 1 else 1

/-- The element offset of coordinates. -/
def LayoutRec.elem (l : LayoutRec) (cs : List Nat) : Int :=
  (List.range 5).foldl (fun e i => e + (cs.getD i 0 : Nat) * l.str.getD i 0) 0

/-- Bits of a stored element, and for MXFP4 its scale byte (R63). -/
def readElem (s : State) (u : Unit) (core : Nat) (k : SluiceCommand) (l : LayoutRec) (cs : List Nat) : Except Snag (Nat × Nat) :=
  let e := l.elem cs
  if l.fmt = 7 then
    match cmdRead s u k.seen core false (l.base + word64 (e / 2)) 1, cmdRead s u k.seen core false (l.scale + word64 (e / 32)) 1 with
    | .error x, _ => .error x
    | _, .error x => .error x
    | .ok bs, .ok sc => .ok (if e % 2 = 0 then fromLe bs % 16 else fromLe bs / 16, fromLe sc)
  else match cmdRead s u k.seen core false (l.base + word64 (e * fmtBytes l.fmt)) (fmtBytes l.fmt) with
    | .error x => .error x
    | .ok bs => .ok (fromLe bs, 0)

/-- PAD as an element; the spec gives it no scale, which is a free value (log entry 5). -/
def padElem (s : State) (l : LayoutRec) : Nat × Nat := (l.pad.toNat, (Config.freeValue s.nonce).toNat % 255)

/-- The value of a stored element. -/
def elemValue (fmt : Nat) (x : Nat × Nat) : Val :=
  match fmt with
  | 3 => (formatOf .f16).decode x.1
  | 4 => (formatOf .bf16).decode x.1
  | 5 => (formatOf .e4m3).decode x.1
  | 6 => (formatOf .e5m2).decode x.1
  | 7 => if x.2 = 255 then .nan false else match (formatOf .e2m1).decode x.1 with
    | .num n m e st => .num n m (e + ((x.2 : Int) - 127)) st
    | v => v
  | _ => (formatOf .f32).decode x.1

/-! ### Windows of a tensor (R228) -/

/-- Coordinates of window element (r, c) for an origin. -/
def windowCoords (l : LayoutRec) (origin : W64) (r c : Nat) : List Nat :=
  let o := origin.toNat
  let j := field o 48 16
  [field o 0 24 + c, field o 24 24 + r, j % l.extent 2, j / l.extent 2 % l.extent 3, j / (l.extent 2 * l.extent 3)]

/-- Whether an element lies within its extents. -/
def insideWindow (l : LayoutRec) (cs : List Nat) : Bool := decide (cs.getD 0 0 < l.extent 0) && decide (cs.getD 1 0 < l.extent 1)

/-- One row of a window. -/
def windowRow (s : State) (u : Unit) (core : Nat) (k : SluiceCommand) (l : LayoutRec) (origin : W64) (cols r : Nat) :
    Except Snag (List (Nat × Nat)) :=
  eachOk (fun c =>
    let cs := windowCoords l origin r c
    if insideWindow l cs then readElem s u core k l cs else .ok (padElem s l)) (List.range cols)

/-- The combinations of CP that R228 accepts (else cause 19). -/
def windowAccepts (fmt fmtx cols : Nat) (origin : W64) : Bool :=
  match fmtx with
  | 0 => fmt != 7
  | 1 | 2 => decide (3 ≤ fmt)
  | 3 => ((fmt == 5 || fmt == 6) && cols % 16 == 0) || (fmt == 7 && origin.toNat % 32 == 0 && cols % 32 == 0)
  | _ => false

/-- The bytes of an element under FMTX 0 to 2. -/
def outBytes (fmt fmtx : Nat) (x : Nat × Nat) : List Byte :=
  if fmtx = 0 then leBytes x.1 (fmtBytes fmt)
  else leBytes ((formatOf (if fmtx = 1 then .bf16 else .f16)).deliver .rne false (elemValue fmt x)).1 2

/-- An MXFP4 scale of 0xFF among elements (bit 41 of the completion record). -/
def nanScale (fmt : Nat) (xs : List (Nat × Nat)) : Bool := fmt == 7 && xs.any (fun x => x.2 == 255)

/-! ### Canonical tiles (R73-R77) -/

/-- Lists of sixteen. -/
def sixteens : Nat → List (Nat × Nat) → List (List (Nat × Nat))
  | 0, _ => []
  | n + 1, xs => xs.take 16 :: sixteens n (xs.drop 16)

/-- The exponent that a block brings; none for a block of zeros, or of a NaN scale. -/
def tileExponent (fmt : Nat) (xs : List (Nat × Nat)) : Option Int :=
  if fmt = 7 then
    match xs with
    | [] => none
    | x :: _ => if x.2 = 255 then none else some ((x.2 : Int) - 125)
  else blockExponent 8 (magnitudes (xs.map (elemValue fmt)))

/-- An element's mantissa at the block's exponent, and whether it was flushed. -/
def tileMantissa (fmt : Nat) (e : Int) (x : Nat × Nat) : Byte × Bool :=
  let w := if fmt = 7 then 5 else 8
  let top := 2 ^ (w - 1) - 1
  let byte (neg : Bool) (q : Nat) : Byte := BitVec.ofInt 8 (if neg then -(q : Int) else q)
  match elemValue fmt x with
  | .inf n => (byte n top, false)
  | .nan _ => (0, false)
  | .num n m a _ => let q := min (mantissa w e m a) top; (byte n q, m != 0 && q == 0)

/-- Nibbles, two to a byte (R74). -/
def nibbles : List Nat → List Byte
  | [] => []
  | [a] => [BitVec.ofNat 8 a]
  | a :: b :: xs => BitVec.ofNat 8 (a + 16 * b) :: nibbles xs

/-- A tile's bytes, its BEXP, and whether an element was flushed. A tile of zeros alone has no BEXP of the spec: `free`. -/
def tileOf (fmt : Nat) (free : Int) (xs : List (Nat × Nat)) : List Byte × Int × Bool :=
  let blocks := sixteens (xs.length / 16) xs
  let exps := blocks.map (tileExponent fmt)
  let bexp := match exps.filterMap id with | [] => free | e :: es => es.foldl max e
  let least := match exps.filterMap id with | [] => bexp | e :: es => es.foldl min e
  let at_ (e : Option Int) : Int := max (e.getD least) (bexp - 15)
  let ms := (blocks.zip exps).flatMap (fun p => p.1.map (tileMantissa fmt (at_ p.2)))
  (ms.map (fun m => m.1) ++ nibbles (exps.map (fun e => (bexp - at_ e).toNat)), bexp, ms.any (fun m => m.2))

/-! ### Heads (R236, R240) -/

/-- The fields of a head descriptor. -/
def headOf (va : W64) (bs : List Byte) : Head :=
  let x := fromLe bs
  let w (lo : Nat) : W64 := BitVec.ofNat 64 (field x lo 64)
  { addr := va, kbase := w 0, vbase := w 64, pans := w 128, pool := w 192, seed := w 256, kpitch := field x 320 32
    vpitch := field x 352 32, vbytes := field x 384 16, d := field x 400 8 + 1, b := field x 408 4 + 1, kfmt := field x 412 2
    clim := field x 416 32, pooln := field x 448 32, tmax := field x 480 32 }

/-- The rules of its fields (cause 24). -/
def headForm (bs : List Byte) : Bool :=
  let x := fromLe bs
  let h := headOf 0 bs
  h.pans.toNat % 64 == 0 && h.pool.toNat % 64 == 0 && h.kpitch % 16 == 0 && h.vpitch % 16 == 0 && h.vbytes % 4 == 0
    && h.vbytes != 0 && decide (4 ≤ h.b) && h.kfmt != 3 && field x 414 2 == 0 && h.clim != 0 && field x 577 447 == 0

/-- Bytes of a key element. -/
def Head.ksize (h : Head) : Nat := if h.kfmt = 0 then 4 else 2
/-- Bytes of a key row, rounded up to 16 (R239). -/
def Head.krow (h : Head) : Nat := (h.d * h.ksize + 15) / 16 * 16
/-- A key or query element (R237). -/
def Head.value (h : Head) (x : W32) : Val :=
  (formatOf (if h.kfmt = 0 then .f32 else if h.kfmt = 1 then .f16 else .bf16)).decode x.toNat

/-- NaN or infinite elements (cause 23). -/
def badKey (h : Head) (xs : List W32) : Bool := xs.any (fun x => match h.value x with | .num _ _ _ _ => false | _ => true)

/-- A finite value in units of 2^-149, which every format here has. -/
def unitsOf : Val → Int
  | .num n m e _ => scaled n m e (-149)
  | _ => 0

/-- Bit i of a signature (R72, R237). -/
def signBitOfRow (h : Head) (xs : List W32) (i : Nat) : Bool :=
  decide ((xs.zipIdx.foldl (fun (a : Int) p =>
    let v := unitsOf (h.value p.1)
    if (gen h.seed (BitVec.ofNat 64 (i * 256 + p.2))).getLsbD 0 then a - v else a + v) 0) < 0)

/-- The signature of a key or query. -/
def signature (h : Head) (xs : List W32) : Nat :=
  (List.range h.b).foldl (fun n i => n + bit01 (signBitOfRow h xs i) * 2 ^ i) 0

/-- The translations of an area's pages, each checked (R240). -/
def areaPins (s : State) (u : Unit) (core : Nat) (acc : Access) : Nat → W64 → Nat → Except Snag (List TlbEntry)
  | 0, _, _ => .ok []
  | fuel + 1, va, n =>
    if n = 0 then .ok []
    else match cmdPlace s u core acc .engine false va, leafFor s u.ctx core va with
      | .error e, _ => .error e
      | _, .error c => .error (.fatal va c)
      | .ok _, .ok l =>
        let k := min n (l.va + l.size - va.toNat)
        match areaPins s u core acc fuel (va + BitVec.ofNat 64 k) (n - k) with
        | .error e => .error e
        | .ok ps => .ok ({ ctx := u.ctx, va := l.va, size := l.size, frame := l.frame, attrs := l.attrs } :: ps)

/-- The same over several areas: address and length. -/
def areasPins (s : State) (u : Unit) (core : Nat) (acc : Access) (as : List (W64 × Nat)) : Except Snag (List TlbEntry) :=
  match eachOk (fun a => areaPins s u core acc (a.2 / 4096 + 2) a.1 a.2) as with
  | .error e => .error e
  | .ok ps => .ok ps.flatten

/-- MEMSIDE pages of the stacked window in one stack. -/
def oneStack (ps : List TlbEntry) : Bool :=
  ps.all (fun p => attrMemside p.attrs && decide (p.frame < 2 ^ 39))
    && (match ps with | [] => true | p :: _ => ps.all (fun q => q.frame / 2 ^ 35 == p.frame / 2 ^ 35))

/-- A head read, checked and its areas translated as a command starts; QSIG uses the descriptor alone. -/
def readHead (s : State) (u : Unit) (core : Nat) (k : SluiceCommand) (va : W64) (acc : Access) (all : Bool) :
    Except Snag (Head × List TlbEntry) :=
  match cmdRead s u k.seen core false va 128 with
  | .error e => .error e
  | .ok bs =>
    let h := headOf va bs
    if !headForm bs then .error (.stop 24)
    else match areasPins s u core acc (if all then [(va, 128), (h.pans, 2 ^ h.b * 64), (h.pool, h.pooln * 64)] else [(va, 128)]) with
      | .error e => .error e
      | .ok ps => if oneStack ps then .ok (h, ps) else .error (.stop 24)

/-- The place of an address under a command's own translations. -/
def pinned (ps : List TlbEntry) (va : W64) : Nat × Bool :=
  match ps.find? (fun p => p.va ≤ va.toNat && va.toNat < p.va + p.size) with
  | some p => (canonPa (p.frame + (va.toNat - p.va)), isDirect p.attrs)
  | none => (0, false)

/-- A 32-bit word there. -/
def pinnedWord (s : State) (ps : List TlbEntry) (va : W64) : Nat := fromLe (s.mem.readBytes (pinned ps va).1 4)

/-- Whether it is poisoned. -/
def pinnedLost (s : State) (ps : List TlbEntry) (va : W64) : Bool := poisoned s (pinned ps va).1 4

/-- An atomic write of such a word. -/
def pinnedStore (ps : List TlbEntry) (va : W64) (x : Nat) : EngineStore :=
  { atomic := true, va := va, pa := (pinned ps va).1, direct := (pinned ps va).2, bytes := leBytes x 4 }

/-! ### Pans (R238, R239) -/

/-- The first block of a pan, and a block of the pool. -/
def Head.pan (h : Head) (sig : Nat) : W64 := h.pans + BitVec.ofNat 64 (sig * 64)
def Head.block (h : Head) (next : Nat) : W64 := h.pool + BitVec.ofNat 64 ((next - 1) * 64)

/-- CNT and NEXT of a block, if they are in range (else cause 24). -/
def blockEnds (s : State) (h : Head) (ps : List TlbEntry) (blk : W64) : Option (Nat × Nat) :=
  let cnt := pinnedWord s ps (blk + 52)
  let next := pinnedWord s ps (blk + 56)
  if 13 < cnt ∨ h.pooln < next then none else some (cnt, next)

/-- The block of a chain that takes the next token; none at a cause 24. -/
def lastBlock (s : State) (h : Head) (ps : List TlbEntry) : Nat → W64 → Option W64
  | 0, blk => match blockEnds s h ps blk with
    | some (cnt, next) => if cnt = 13 ∧ next ≠ 0 then none else some blk
    | none => none
  | fuel + 1, blk => match blockEnds s h ps blk with
    | some (cnt, next) => if cnt = 13 ∧ next ≠ 0 then lastBlock s h ps fuel (h.block next) else some blk
    | none => none

/-- The writes of a link step (R238); none at a cause 24. -/
def linkStores (s : State) (h : Head) (ps : List TlbEntry) (sig token : Nat) : Option (List EngineStore) :=
  let put := pinnedStore ps
  let ntok := put (h.addr + 68) (max (pinnedWord s ps (h.addr + 68)) (token + 1))
  let used := pinnedWord s ps (h.addr + 64)
  let dense := pinnedWord s ps (h.addr + 72)
  if dense % 2 = 1 then some [ntok]
  else match lastBlock s h ps h.pooln (h.pan sig) with
    | none => none
    | some blk =>
      let cnt := pinnedWord s ps (blk + 52)
      if cnt < 13 then some [ntok, put (blk + BitVec.ofNat 64 (4 * cnt)) token, put (blk + 52) (cnt + 1)]
      else if used = h.pooln then some [ntok, put (h.addr + 72) (dense + 1)]
      else
        let new := h.block (used + 1)
        some [ntok, put new token, put (new + 52) 1, put (new + 56) 0, put (new + 60) 0, put (blk + 56) (used + 1),
          put (h.addr + 64) (used + 1)]

/-- Whether a walk meets poison: along a chain to the block that takes the next token, or `whole` (R363). -/
def chainLost (s : State) (h : Head) (ps : List TlbEntry) (whole : Bool) : Nat → W64 → Bool
  | 0, blk => pinnedLost s ps (blk + 52)
  | fuel + 1, blk => pinnedLost s ps (blk + 52) || (match blockEnds s h ps blk with
    | some (cnt, next) => next != 0 && (whole || cnt == 13) && chainLost s h ps whole fuel (h.block next)
    | none => false)

/-- The tokens of a chain in order; none at a cause 24. -/
def chainTokens (s : State) (h : Head) (ps : List TlbEntry) : Nat → W64 → Option (List W32)
  | 0, blk => match blockEnds s h ps blk with
    | some (cnt, next) =>
      if next ≠ 0 then none
      else some ((List.range cnt).map (fun i => BitVec.ofNat 32 (pinnedWord s ps (blk + BitVec.ofNat 64 (4 * i)))))
    | none => none
  | fuel + 1, blk => match blockEnds s h ps blk with
    | some (cnt, next) =>
      let own := (List.range cnt).map (fun i => BitVec.ofNat 32 (pinnedWord s ps (blk + BitVec.ofNat 64 (4 * i))))
      if next = 0 then some own else (chainTokens s h ps fuel (h.block next)).map (fun ts => own ++ ts)
    | none => none

/-- A list without its repeats, the first kept. -/
def withoutRepeats (ts : List W32) : List W32 := ts.foldl (fun acc t => if acc.contains t then acc else acc ++ [t]) []

/-- What a probe comes to (R239): candidates and whether they are all tokens; class 10 with its SUB; a cause. -/
inductive Probe where
  | found (ts : List W32) (dense : Bool)
  | refused (sub : Nat)
  | cause (c : Nat)
  deriving DecidableEq, Repr

/-- The pans of a signature, and of its neighbours at distance one. -/
def pansOf (h : Head) (sig : Nat) (near : Bool) : List Nat :=
  sig :: (if near then (List.range h.b).map (fun i => sig ^^^ 2 ^ i) else [])

/-- Whether a head's counters are poisoned, or for a head that is not dense the blocks of some pans. -/
def indexLost (s : State) (h : Head) (ps : List TlbEntry) (whole : Bool) (pans : List Nat) : Bool :=
  pinnedLost s ps (h.addr + 64)
    || (pinnedWord s ps (h.addr + 72) % 2 == 0 && pans.any (fun p => chainLost s h ps whole h.pooln (h.pan p)))

/-- The probe. -/
def probe (s : State) (h : Head) (ps : List TlbEntry) (sig : W32) (near denseOk : Bool) : Probe :=
  let every := (List.range (pinnedWord s ps (h.addr + 68))).map (fun t => BitVec.ofNat 32 t)
  let fallback (sub : Nat) : Probe := if denseOk then .found every true else .refused sub
  if pinnedWord s ps (h.addr + 72) % 2 = 1 then fallback 0
  else match allSome' ((pansOf h (sig.toNat % 2 ^ h.b) near).map (fun p => chainTokens s h ps h.pooln (h.pan p))) with
    | none => .cause 24
    | some tss =>
      let ts := withoutRepeats tss.flatten
      if h.clim < ts.length then fallback 1 else .found ts false
where
  allSome' : List (Option (List W32)) → Option (List (List W32))
    | [] => some []
    | none :: _ => none
    | some x :: xs => (allSome' xs).map (fun ys => x :: ys)

/-! ### Dispatch descriptors (R234) -/

/-- The rules of a dispatch descriptor's fields (cause 27). -/
def dispatchForm (x : Nat) : Bool :=
  let rowb := field x 320 16
  let nexp := field x 336 16
  let cap := field x 352 32
  rowb % 16 == 0 && rowb != 0 && decide (1 ≤ nexp ∧ nexp ≤ 32768) && decide (1 ≤ cap ∧ cap ≤ 65536)
    && decide (field x 384 32 ≤ 2 ^ 31 - 2) && field x 448 64 == 0

/-- A descriptor read as MOEDISP starts, on a MEMSIDE page with its counters (R234, R240). -/
def readDispatch (s : State) (u : Unit) (core : Nat) (k : SluiceCommand) (va : W64) : Except Snag (List W32 × List TlbEntry) :=
  match cmdRead s u k.seen core false va 64 with
  | .error e => .error e
  | .ok bs =>
    let x := fromLe bs
    if !dispatchForm x then .error (.stop 27)
    else match areasPins s u core .write [(va, 64), (BitVec.ofNat 64 (field x 256 64), field x 336 16 * 4)] with
      | .error e => .error e
      | .ok ps =>
        if !ps.all (fun p => attrMemside p.attrs) then .error (.stop 27)
        else .ok ((List.range 16).map (fun i => BitVec.ofNat 32 (field x (32 * i) 32)), ps)

end Sys2Proof.Machine
end

