-- ==== Sys2Proof/Machine/Control.lean ====
section
/-! DEFINITION. Control, divergence, streams and choreography (14_control_instructions R271-R295). -/

namespace Sys2Proof.Machine

/-! ### Transfers -/

/-- The next instruction in sequence (R38). -/
def Slice.next (t : Slice) (size : W64) : Slice := { t with pc := t.pc + size, seqF := true, replay := none }

/-- A word offset from the branch's own first word (R271). -/
def targetOf (pc : W64) (words : W64) : W64 := pc + words <<< 2

/-- A return address on the hardware return stack; the oldest of nine spills (R276). -/
def Slice.pushReturn (t : Slice) (ra : W64) : Slice :=
  { t with retStack := (ra :: t.retStack).take 8, retSpilled := (ra :: t.retStack).drop 8 ++ t.retSpilled }

/-- The newest return address leaves. -/
def Slice.popReturn (t : Slice) : Slice :=
  match t.retStack with
  | _ :: rest => { t with retStack := rest }
  | [] => { t with retSpilled := t.retSpilled.drop 1 }

/-- Each slice of the group changes by itself. -/
def eachSlice (s : State) (x : Issue) (f : Slice → Slice) : Done := .jump s (x.unit.mapSlices x.js f)

/-- The same where a slice may refuse with a subclass of class 0, the lowest first, before any change. -/
def eachChecked (s : State) (x : Issue) (f : Slice → Except Nat Slice) : Done :=
  match x.slices.findSome? (fun t => match f t with | .error n => some n | .ok _ => none) with
  | some n => .trap (illegal n)
  | none => eachSlice s x (fun t => match f t with | .ok t' => t' | .error _ => t)

def execBr (o : JArgs) (s : State) : Host.Outcome State Fault Refusal :=
  issue (.br o) s (fun x => eachSlice s x (fun t => t.jumpTo (targetOf t.pc (o.off.signExtend 64))))

/-- BRC (R276): COND in D[2:0], U in D[3]. -/
def execBrc (o : IArgs) (s : State) : Host.Outcome State Fault Refusal :=
  issue (.brc o) s (fun x => eachSlice s x (fun t =>
    let a := t.getS o.a
    let v : Int := if o.d.getLsbD 3 then a.toNat else a.toInt
    if condition (o.d &&& 7).toNat v 0 then t.jumpTo (targetOf t.pc (offset16 o.imm)) else t.next x.size))

def execCall (o : JArgs) (s : State) : Host.Outcome State Fault Refusal :=
  issue (.call o) s (fun x => eachSlice s x (fun t =>
    ((t.putS 60 (t.pc + x.size)).pushReturn (t.pc + x.size)).jumpTo (targetOf t.pc (o.off.signExtend 64))))

def execNop (o : WArgs) (s : State) : Host.Outcome State Fault Refusal := issue (.nop o) s (fun x => .seq s x.unit)

/-! ### Branches within a slice (R277) -/

/-- BRV: the lanes not taken run first. -/
def brvSlice (k : BitVec 4) (target next : W64) (t : Slice) : Except Nat Slice :=
  if Config.stackDepth ≤ t.tokens.length then .error 3
  else
    let taken := t.mask &&& k
    let rest := t.mask &&& ~~~k
    if rest = 0 then .ok ({ t with mask := taken, tokens := .branch t.mask 0 0 target 0 :: t.tokens }.jumpTo target)
    else .ok { t with mask := rest, tokens := .branch t.mask taken 0 target 0 :: t.tokens, pc := next, seqF := true, replay := none }

def execBrv (o : IArgs) (s : State) : Host.Outcome State Fault Refusal :=
  issue (.brv o) s (fun x => eachChecked s x (fun t =>
    brvSlice (t.getK o.d.toNat) (targetOf t.pc (offset16 o.imm)) (t.pc + x.size) t))

/-- JOIN. -/
def joinSlice (next : W64) (t : Slice) : Except Nat Slice :=
  match t.tokens with
  | [] => .error 3
  | .branch saved other wait target resume :: ts =>
    if other ≠ 0 then .ok ({ t with mask := other, tokens := .branch saved 0 t.mask target next :: ts }.jumpTo target)
    else
      let _ := wait
      let _ := resume
      .ok { t with mask := saved, tokens := ts, pc := next, seqF := true, replay := none }
  | _ :: _ => .error 8

def execJoin (o : WArgs) (s : State) : Host.Outcome State Fault Refusal :=
  issue (.join o) s (fun x => eachChecked s x (fun t => joinSlice (t.pc + x.size) t))

/-- LOOPB: a slice without a lane goes to the exit. -/
def loopSlice (exit next : W64) (t : Slice) : Except Nat Slice :=
  if t.mask = 0 then .ok (t.jumpTo exit)
  else if Config.stackDepth ≤ t.tokens.length then .error 3
  else .ok { t with tokens := .loop t.mask exit :: t.tokens, pc := next, seqF := true, replay := none }

def execLoopb (o : IArgs) (s : State) : Host.Outcome State Fault Refusal :=
  issue (.loopb o) s (fun x => eachChecked s x (fun t => loopSlice (targetOf t.pc (offset16 o.imm)) (t.pc + x.size) t))

def execLoope (o : JArgs) (s : State) : Host.Outcome State Fault Refusal :=
  issue (.loope o) s (fun x => eachChecked s x (fun t =>
    match t.tokens with
    | [] => .error 3
    | .loop _ _ :: _ => .ok (t.jumpTo (targetOf t.pc (o.off.signExtend 64)))
    | _ :: _ => .error 8))

/-- Only branch tokens stand above the topmost loop token, and there is one. -/
def loopReachable : List Token → Bool
  | .loop _ _ :: _ => true
  | .branch _ _ _ _ _ :: ts => loopReachable ts
  | _ => false

/-- Lanes that break leave the branch tokens above the topmost loop token. -/
def breakLanes (b : BitVec 4) : List Token → List Token
  | .branch saved other wait target resume :: ts =>
    .branch (saved &&& ~~~b) (other &&& ~~~b) (wait &&& ~~~b) target resume :: breakLanes b ts
  | ts => ts

/-- Where an empty slice goes on: the mask, the PC and the tokens left. -/
def unwind : List Token → BitVec 4 × W64 × List Token
  | .branch saved other wait target resume :: ts =>
    if other ≠ 0 then (other, target, .branch saved 0 wait target resume :: ts)
    else if wait ≠ 0 then (saved, resume, ts)
    else unwind ts
  | .loop saved exit :: ts => (saved, exit, ts)
  | ts => (0, 0, ts)

/-- BRK. -/
def brkSlice (k : BitVec 4) (next : W64) (t : Slice) : Except Nat Slice :=
  if t.tokens.isEmpty then .error 3
  else if !loopReachable t.tokens then .error 8
  else
    let m := t.mask &&& ~~~k
    let ts := breakLanes (t.mask &&& k) t.tokens
    if m ≠ 0 then .ok { t with mask := m, tokens := ts, pc := next, seqF := true, replay := none }
    else
      let (m', pc, ts') := unwind ts
      .ok ({ t with mask := m', tokens := ts' }.jumpTo pc)

def execBrk (o : IArgs) (s : State) : Host.Outcome State Fault Refusal :=
  issue (.brk o) s (fun x => eachChecked s x (fun t => brkSlice (t.getK o.d.toNat) (t.pc + x.size) t))

/-! ### Indirect calls (R278-R281) -/

/-- A call token of this CALLI that is still resolving (R279). -/
def resolving (t : Slice) : Bool :=
  match t.tokens with
  | .call _ _ _ cpc _ calling :: _ => !calling && cpc == t.pc
  | _ => false

/-- The lanes whose entries a slice reads: the replay's, else the active ones. -/
def calliLanes (o : WArgs) (t : Slice) : BitVec 4 := actOf t o.km

/-- The next callee of a call token: the target of the lowest lane still to call, with the lanes that share it. -/
def nextCall (saved todo : BitVec 4) (tgt : Vector W64 4) (cpc ra : W64) (ts : List Token) (t : Slice) : Slice :=
  match lanesOf todo with
  | [] => { t with mask := saved, tokens := ts }.jumpTo ra
  | l :: _ =>
    let g := (lanesOf todo).foldl (fun m k => if tgt[k] = tgt[l] then m ||| laneBit k else m) (0 : BitVec 4)
    let t := { t with mask := g, tokens := .call saved (todo &&& ~~~g) tgt cpc ra true :: ts }
    ((t.putS 60 ra).pushReturn ra).jumpTo tgt[l]

/-- A CALLI's token pushed; a target not yet read is a free value (log entry 5). -/
def pushCall (o : WArgs) (nonce : Nat) (size : W64) (t : Slice) : Slice :=
  if resolving t ∨ calliLanes o t = 0 then t
  else
    let free := vec4 (fun l => Config.freeValue (nonce + laneNo t l) &&& ~~~3)
    { t with tokens := .call t.mask (calliLanes o t) free t.pc (t.pc + size) false :: t.tokens }

/-- A target read for a lane of a CALLI that is resolving. -/
def setTarget (l : Fin 4) (x : W64) (t : Slice) : Slice :=
  match t.tokens with
  | .call saved todo tgt cpc ra calling :: ts =>
    if resolving t then { t with tokens := .call saved todo (tgt.set l.val x l.isLt) cpc ra calling :: ts } else t
  | _ => t

/-- The text of a context's object that is retiring (R331). -/
def retiringAt (s : State) (ctx : Nat) (pc : W64) : Bool :=
  s.refs.any (fun r => r.ctx == ctx && r.retiring && (match s.objects.find? (fun ob => ob.handle == r.handle) with
    | some ob => r.textVa.toNat ≤ pc.toNat && pc.toNat < r.textVa.toNat + ob.size
    | none => false))

/-- A lane's link-table entry: its target, or its cause, with 13 and 14 for class 11 (R279, R373). -/
def linkEntry (s : State) (u : Unit) (a : LaneAccess) : Except Nat W64 :=
  match a.res with
  | .error c => .error c
  | .ok (pa, attrs) =>
    let e := fromLe (readView s u a.t.idx (isDirect attrs) pa 8)
    let target : W64 := BitVec.ofNat 64 (field e 2 54 * 4)
    if e % 4 ≠ 1 then .error 13 else if retiringAt s u.ctx target then .error 14 else .ok target

/-- The end of a CALLI whose lanes have all resolved: each slice with a token calls, another goes on. -/
def startCalls (size : W64) (t : Slice) : Slice :=
  match t.tokens with
  | .call saved todo tgt cpc ra calling :: ts =>
    if !calling && cpc == t.pc then nextCall saved todo tgt cpc ra ts t else t.next size
  | _ => t.next size

def execCalli (o : WArgs) (s : State) : Host.Outcome State Fault Refusal :=
  issue (.calli o) s (fun x =>
    let addr (t : Slice) (l : Fin 4) : Option W64 := some (t.getS 61 + BitVec.ofNat 64 (8 * (t.getV o.a l).toNat))
    match laneMisaligned x o.km 8 (fun t => t.getS 61) with
    | some va => .trap (alignTrap va)
    | none =>
      let found := laneAccesses s x o.km .read .plain addr
      let ls := markLost s (fun _ => 8) found
      let oks := laneOks ls
      if x.slices.any (fun t => !resolving t && calliLanes o t != 0 && Config.stackDepth ≤ t.tokens.length) then .trap (illegal 3)
      else if readsHeld s x.unit ((laneOks found).map (fun p => (p.1.t.idx, p.2.1))) then .stall
      else match joinReads x.unit (snapshotLines (oks.map (fun p => p.2))) with
        | none => .abort 3 0 0
        | some u =>
          let read := ls.map (fun a => (a, linkEntry s u a))
          let bad := read.filterMap (fun p => match p.2 with | .error c => some (p.1, c) | .ok _ => none)
          let u := u.mapSlices x.js (pushCall o s.nonce x.size)
          let u := read.foldl (fun u p => match p.2 with
            | .ok target => u.mapSlices [p.1.t.idx] (setTarget p.1.l target)
            | .error _ => u) u
          let s := { tlbAfter s u (oks.map (fun p => p.1.va)) with nonce := s.nonce + 32 }
          laneEnd .read bad s u (.jump s (u.mapSlices x.js (startCalls x.size))))

/-- RET (R280). -/
def retSlice (a : Reg) (t : Slice) : Slice :=
  let ra := t.getS a
  let t := t.popReturn
  match t.tokens with
  | .call saved todo tgt cpc ra' calling :: ts =>
    if calling && ra' == ra then nextCall saved todo tgt cpc ra ts t else t.jumpTo ra
  | _ => t.jumpTo ra

/-- RET calls a further target, and so writes s60. -/
def retCalls (a : Reg) (t : Slice) : Bool :=
  match t.tokens with
  | .call _ todo _ _ ra calling :: _ => calling && ra == t.getS a && todo != 0
  | _ => false

def execRet (o : WArgs) (s : State) : Host.Outcome State Fault Refusal :=
  issue (.ret o) s (fun x =>
    match misaligned 4 (x.slices.map (fun t => t.getS o.a)) with
    | some va => .trap (alignTrap va)
    | none =>
      if x.slices.any (fun t => retCalls o.a t && !t.fullS 60) then .stall else eachSlice s x (retSlice o.a))

/-- EXIT (R282): a gang's ends with its PHASE; an engine member's waits for nothing. -/
def execExit (o : WArgs) (s : State) : Host.Outcome State Fault Refusal :=
  issue (.exit o) s (fun x =>
    if x.unit.id.kind = .sluice ∨ x.unit.id.kind = .harrow then
      .raw (endTeam (s.setUnit (x.unit.exitSlices x.js)) x.unit.team)
    else withRoom s x.unit (entriesFor x.unit 0 1) (fun s u => .phase s u .exit))

/-! ### Streams (R283-R286) -/

/-- Whether a walk record keeps R283. -/
def walkForm (x : Nat) : Bool :=
  let t := field x 64 4
  let nd := field x 68 2
  let ext (i : Nat) : Nat := field x (96 + 64 * i) 32
  let str (i : Nat) : Nat := field x (128 + 64 * i) 32
  let size := if t = 1 ∨ t = 5 ∨ t = 6 then 4 else if t = 9 ∨ t = 10 then 1 else 2
  (t == 1 || t == 2 || t == 3 || (5 ≤ t && t ≤ 10)) && nd != 0 && field x 70 26 == 0 && field x 0 64 % size == 0
    && field x 288 96 == 0 && ext 0 != 0
    && (if 2 ≤ nd then ext 1 != 0 else ext 1 == 0 && str 1 == 0)
    && (if nd = 3 then ext 2 != 0 else ext 2 == 0 && str 2 == 0)

/-- The element type of a walk. -/
def walkType (t : Nat) : TCode :=
  match t with
  | 2 => .f16 | 3 => .bf16 | 5 => .i32 | 6 => .n32 | 7 => .i16 | 8 => .n16 | 9 => .i8 | 10 => .n8 | _ => .f32

/-- The walk that a record describes; absent extents are 1. -/
def walkOf (x : Nat) : Walk :=
  let nd := field x 68 2
  { base := BitVec.ofNat 64 x, t := walkType (field x 64 4), ndim := nd, ext0 := field x 96 32
    ext1 := if 2 ≤ nd then field x 160 32 else 1, ext2 := if nd = 3 then field x 224 32 else 1
    str0 := toInt 32 (field x 128 32), str1 := toInt 32 (field x 192 32), str2 := toInt 32 (field x 256 32) }

/-- Elements of a walk. -/
def Walk.count (w : Walk) : Nat := w.ext0 * w.ext1 * w.ext2

/-- Bytes of an element. -/
def Walk.size (w : Walk) : Nat := widthOf w.t / 8

/-- The address of a position (R284). -/
def Walk.addr (w : Walk) (q : Nat) : W64 :=
  let e : Int := (q % w.ext0 : Nat) * w.str0 + (q / w.ext0 % w.ext1 : Nat) * w.str1 + (q / (w.ext0 * w.ext1) : Nat) * w.str2
  w.base + word64 (e * w.size)

/-- The end flags after a read of positions p to p + w − 1. -/
def Walk.flags (k : Walk) (p w : Nat) : BitVec 3 :=
  let ends (span : Nat) : Bool := k.count ≤ p + w - 1 || p / span < (p + w) / span
  BitVec.ofNat 3 (bit01 (ends k.ext0) + 2 * bit01 (ends (k.ext0 * k.ext1)) + 4 * bit01 (ends k.count))

/-- The position that a slice's stream read starts at: a replay reads those of its first issue. -/
def streamPos (w : Nat) (t : Slice) (m : Stream) : Nat := if t.replay.isSome then m.pos - w else m.pos

/-- The walk advances once, at the first issue (R22, R284). -/
def advanceStream (r w : Nat) (t : Slice) : Slice :=
  match t.stream r with
  | some m =>
    if t.replay.isSome then t
    else t.putStream r (some { m with pos := m.pos + w, flags := m.walk.flags m.pos w })
  | none => t

/-- VMOV from a stream (R117, R284). -/
def execVmovStream (o : WArgs) (s : State) : Host.Outcome State Fault Refusal :=
  issue (.vmovStream o) s (fun x =>
    let r := o.a.toNat
    if x.slices.any (fun t => (t.stream r).isNone) then .trap (illegal 5)
    else
      let w := x.unit.lanes
      let pos (t : Slice) (l : Fin 4) : Option (Walk × Nat) :=
        (t.stream r).map (fun m => (m.walk, streamPos w t m + laneNo t l))
      let inside (p : Slice × Fin 4) : Bool := match pos p.1 p.2 with | some (k, q) => q < k.count | none => false
      let found : List LaneAccess := ((groupLanes x.slices o.km).filter inside).map (fun p =>
        match pos p.1 p.2 with
        | some (k, q) => { t := p.1, l := p.2, va := k.addr q, res := place s x.unit .read .plain (k.addr q) }
        | none => { t := p.1, l := p.2, va := 0, res := .error 15 })
      let bytes (t : Slice) : Nat := match t.stream r with | some m => m.walk.size | none => 4
      let ty (t : Slice) : TCode := match t.stream r with | some m => m.walk.t | none => .n32
      let ls := markLost s (fun a => bytes a.t) found
      let good := laneOks ls
      if readsHeld s x.unit ((laneOks found).map (fun p => (p.1.t.idx, p.2.1))) then .stall
      else match joinReads x.unit (snapshotLines (good.map (fun p => p.2))) with
        | none => .abort 3 0 0
        | some u =>
          let value (p : LaneAccess × Nat × BitVec 12) : Nat :=
            fromLe (readView s u p.1.t.idx (isDirect p.2.2) p.2.1 (bytes p.1.t))
          let zeros (t : Slice) : List (Fin 4 × Nat) :=
            ((lanesOf (actOf t o.km)).filter (fun l => !inside (t, l))).map (fun l => (l, 0))
          let u := u.mapSlices x.js (fun t => advanceStream r w (queueElems (ty t) o.d false false t
            (((good.filter (fun p => p.1.t.idx == t.idx)).map (fun p => (p.1.l, value p))) ++ zeros t)))
          let s := tlbAfter s u (good.map (fun p => p.1.va))
          laneEnd .read (laneBad ls) s u (.seq s u))

/-- WBIND (R285): six words in each executing slice. -/
def execWbind (o : WArgs) (s : State) : Host.Outcome State Fault Refusal :=
  issue (.wbind o) s (fun x =>
    let vas := scalarAddrs x o.a (offset16 o.imm)
    match misaligned 16 (vas.map (fun v => v.2)) with
    | some va => .trap (alignTrap va)
    | none =>
      let words := vas.flatMap (fun v => (List.range 6).map (fun k => (v.1, v.2 + BitVec.ofNat 64 (8 * k))))
      match scalarPlaces s x.unit .read .plain words with
      | .error t => .trap t
      | .ok ps =>
        if readsHeld s x.unit (ps.map (fun p => (p.1.idx, p.2.2.1))) then .stall
        else if ps.any (fun p => poisoned s p.2.2.1 8) then .trap (poisonTrap 0)
        else match joinReads x.unit (snapshotLines (ps.map (fun p => p.2.2))) with
          | none => .abort 3 0 0
          | some u =>
            let record (t : Slice) : Nat := fromLe ((ps.filter (fun p => p.1.idx == t.idx)).flatMap
              (fun p => readView s u t.idx (isDirect p.2.2.2) p.2.2.1 8))
            if x.slices.any (fun t => !walkForm (record t)) then .trap (illegal 7)
            else .seq (tlbAfter s u (words.map (fun v => v.2))) (u.mapSlices x.js (fun t =>
              t.putStream o.d.toNat (some { walk := walkOf (record t), pos := 0, flags := 0 }))))

/-- BRW (R286): OFF14 is the first word's [14:1]. -/
def execBrw (o : WArgs) (s : State) : Host.Outcome State Fault Refusal :=
  issue (.brw o) s (fun x =>
    let off : BitVec 14 := o.a ++ o.b ++ BitVec.ofBool o.fa ++ BitVec.ofBool o.fb
    eachChecked s x (fun t => match t.stream o.d.toNat with
      | none => .error 5
      | some m => .ok (if m.flags.getLsbD o.imm.toNat then t.next x.size else t.jumpTo (targetOf t.pc (off.signExtend 64)))))

/-! ### REGANG and HAND (R287-R289) -/

/-- REGANG (R287): a gang that is not parted passes; otherwise its slices wait for the others. -/
def execRegang (o : WArgs) (s : State) : Host.Outcome State Fault Refusal :=
  issue (.regang o) s (fun x =>
    if x.unit.joined then .seq s x.unit else .stay s (x.unit.park x.js .regang x.size))

/-- The members bound to a role. -/
def Team.role (t : Team) (r : Nat) : List UnitId := ((t.roles.find? (fun e => e.1 == r)).map (fun e => e.2)).getD []

/-- Whether a member has exited. -/
def memberExited (s : State) (id : UnitId) : Bool := match s.unit? id with | some u => u.exited | none => true

/-- A payload that every member of its role has taken, or left by exiting (R262): by every slice that has not exited. -/
def payloadTaken (s : State) (t : Team) (h : Handover) : Bool :=
  (t.role h.toRole).all (fun m => h.taken.contains m || (match s.unit? m with
    | some u => u.slices.all (fun y => !y.alive || h.slices.contains (m, y.idx))
    | none => true))

/-- A payload received by slices: their registers, and what the buffer notes. -/
def receiveHand (s : State) (t : Team) (u : Unit) (h : Handover) (js : List Nat) (vec : Bool) (d : Reg) : State × Unit :=
  let u := u.mapSlices js (fun y =>
    if vec then [0, 1, 2, 3].foldl (fun y (l : Fin 4) => y.putV d l (h.vec.getD (laneNo y l) 0)) y else y.putS d h.scalar)
  let got := h.slices ++ js.map (fun j => (u.id, j))
  let done := u.slices.all (fun y => !y.alive || got.contains (u.id, y.idx))
  let h' := { h with slices := got, taken := if done then h.taken ++ [u.id] else h.taken }
  let hand := (t.hand.map (fun e => if e.off == h.off && e.pass == h.pass then h' else e)).filter (fun e => !payloadTaken s t e)
  (s.setTeam { t with hand := hand }, u)

/-- The payload of a sender (R289). -/
def handPayload (x : Issue) (d : Reg) (off pass : Nat) (vec : Bool) (toRole : Nat) : Handover :=
  { off := off, pass := pass, scalar := x.low.getS d
    vec := if vec then (List.range 32).map (fun i => match x.slices.find? (fun t => t.idx == i / 4) with
        | some t => t.getV d (Fin.ofNat 4 i)
        | none => 0) else []
    toRole := toRole, taken := [], slices := [] }

/-- FROM [2:0], TO [5:3] and V [6] of HAND's imm16. -/
def handFrom (o : WArgs) : Nat := o.imm.toNat % 8
def handTo (o : WArgs) : Nat := o.imm.toNat / 8 % 8
def handVec (o : WArgs) : Bool := o.imm.getLsbD 6

/-- Whether HAND is the illegal form of R289 for a team. -/
def handBad (t : Team) (o : WArgs) : Bool :=
  (t.role (handFrom o)).length != 1 || (t.role (handTo o)).isEmpty
    || (handVec o && (t.role (handFrom o) ++ t.role (handTo o)).any (fun m => m.kind == .harrow))

/-- Whether a group of the sender is the one that deposits: no slice of its unit has passed this HAND as often before. -/
def handSends (t : Team) (x : Issue) (o : WArgs) : Bool :=
  (t.role (handFrom o)).contains x.unit.id
    && !x.unit.slices.any (fun y => decide (countOf x.low.handPass x.pc.toNat < countOf y.handPass x.pc.toNat))

/-- Whether a HAND waits to issue: for its register, or as the sender for the payload of the pass before to be taken (R253, R262). -/
def handWaits (s : State) (t : Team) (x : Issue) (o : WArgs) : Bool :=
  !(if handVec o then x.slices.all (fun y => y.fullV o.d false) else x.slices.all (fun y => y.fullS o.d))
    || (handSends t x o && t.hand.any (fun h => h.off == x.pc.toNat && !payloadTaken s t h))

/-- HAND (R289). -/
def execHand (o : WArgs) (s : State) : Host.Outcome State Fault Refusal :=
  issue (.hand o) s (fun x =>
    let vec := handVec o
    match s.team? x.unit.team with
    | none => .seq s x.unit
    | some t =>
      let takes := (t.role (handTo o)).contains x.unit.id
      if !(t.role (handFrom o)).contains x.unit.id && !takes then .seq s x.unit
      else if handBad t o then .trap (illegal 9)
      else
        let off := x.pc.toNat
        let n := countOf x.low.handPass off + 1
        if handWaits s t x o then .stall
        else
          let u := x.unit.mapSlices x.js (fun y => { y with handPass := countUp y.handPass off })
          let t := if handSends t x o then
              { t with hand := t.hand.filter (fun h => h.off != off) ++ [handPayload x o.d off n vec (handTo o)] } else t
          let s := s.setTeam t
          if !takes then .seq s u
          else match t.hand.find? (fun h => h.off == off && h.pass == n) with
            | some h => let (s, u) := receiveHand s t u h x.js vec o.d; .seq s u
            | none => .stay s (u.park x.js (.handRecv off n vec o.d) x.size))

/-! ### Barriers (R290, R291) -/

/-- The group that a barrier instruction names, if it holds the member. -/
def barrierOf (s : State) (u : Unit) (g : Nat) : Option (Team × GroupState) :=
  match s.team? u.team with
  | none => none
  | some t => match t.group? g with
    | some b => if b.members.contains u.id then some (t, b) else none
    | none => none

/-- BARA (R290): a member that has arrived at an unfinished generation waits for it. -/
def execBara (o : WArgs) (s : State) : Host.Outcome State Fault Refusal :=
  issue (.bara o) s (fun x =>
    let g := o.imm.toNat
    match barrierOf s x.unit g with
    | none => .trap (illegal 10)
    | some (t, b) =>
      if b.gen < countOf x.unit.arrived g then .stay s (x.unit.park x.js (.bara g) x.size)
      else
        let (s, u) := arriveAt s t b (x.unit.mapSlices x.js (fun y => { y with barPass := countUp y.barPass g }))
        .seq s u)

/-- BARW (R290). -/
def execBarw (o : WArgs) (s : State) : Host.Outcome State Fault Refusal :=
  issue (.barw o) s (fun x =>
    let g := o.imm.toNat
    match barrierOf s x.unit g with
    | none => .trap (illegal 10)
    | some (_, b) =>
      let n := countOf x.unit.arrived g
      if n ≤ b.gen then .seq s x.unit else .stay s (x.unit.park x.js (.barw g n) x.size))

/-- WBAR (R291): the PHASE of a gang, then the wait for the round; an engine member only waits. -/
def execWbar (o : WArgs) (s : State) : Host.Outcome State Fault Refusal :=
  issue (.wbar o) s (fun x =>
    if x.unit.id.kind = .sluice ∨ x.unit.id.kind = .harrow then .stay s (x.unit.park x.js .wbar x.size)
    else withRoom s x.unit (entriesFor x.unit 0 2) (fun s u => .phase s u .wbar))

/-! ### Time, power, launches (R292-R294) -/

/-- TICKW (R292): the group goes on when every slice's target is reached. -/
def execTickw (o : WArgs) (s : State) : Host.Outcome State Fault Refusal :=
  issue (.tickw o) s (fun x =>
    let target := x.slices.foldl (fun m t => if m < (t.getS o.a).toNat then (t.getS o.a).toNat else m) 0
    if target ≤ s.gtick.toNat then .seq s x.unit
    else .stay s (x.unit.park x.js (.tickw (BitVec.ofNat 64 target)) x.size))

/-- SETPL (R293). -/
def execSetpl (o : WArgs) (s : State) : Host.Outcome State Fault Refusal :=
  issue (.setpl o) s (fun x => .seq s (x.unit.mapSlices x.js (fun t => { t with demand := min (t.getS o.a).toNat 4 })))

/-- A queue that accepts launches (R408). -/
def Queue.serves (d : Queue) : Bool :=
  let placed := match placeOf d.rbase.toNat with | .hbm _ => true | .host => true | _ => false
  d.opened && d.rbase.toNat % 64 == 0 && placed && d.nslot != 0 && d.ncomp != 0

/-- Slots of a queue that hold records not yet accepted. -/
def Queue.used (d : Queue) : Nat := (d.wptr - d.rptr).toNat

/-- The physical address of a queue's slot. -/
def Queue.slotPa (d : Queue) (i : W32) : Nat := d.rbase.toNat + i.toNat % d.nslot.toNat * 192

/-- Bytes of device memory, each under its stacked name (R158). -/
def deviceBytes (s : State) (pa n : Nat) : List Byte := (List.range n).map (fun i => s.mem.read (canonPa (pa + i)))

/-- Bytes of device memory published together, each granule under its stacked name (R158). -/
def publishParts (s : State) (by_ : UnitId) (pa : Nat) (bs : List Byte) : State :=
  (pageParts (bs.length / 4096 + 2) pa bs.length 0).foldl (fun s p => publishAt s by_ (canonPa (pa + p.1)) (slice bs p.1 p.2)) s

/-- A record enqueued by LAUNCH (R294, R408): its status, and the queue after it. -/
def enqueueLaunch (s : State) (u : Unit) (q : Nat) (bytes : List Byte) : Nat × State :=
  let d := s.queue q
  if !d.serves || !d.dev || !(s.ctx u.ctx).qmask.getLsbD q then (2, s)
  else if d.nslot.toNat ≤ d.used then (1, s)
  else (0, (publishParts s u.id (d.slotPa d.wptr) bytes).setQueue q
             { d with wptr := d.wptr + 1, askers := d.askers ++ [(d.wptr, u.ctx)] })

/-- LAUNCH (R294): the record is read as a sluice command reads. -/
def execLaunch (o : WArgs) (s : State) : Host.Outcome State Fault Refusal :=
  issue (.launch o) s (fun x =>
    let va := x.low.getS o.a
    if va.toNat % 64 ≠ 0 then .trap (alignTrap va)
    else match scalarPlaces s x.unit .read .plain ((List.range 24).map (fun k => (x.low, va + BitVec.ofNat 64 (8 * k)))) with
      | .error t => .trap t
      | .ok ps =>
        if refreshing s (ps.map (fun p => p.2.2.1)) then .stall
        else withRoom s x.unit (entriesFor x.unit 1 0) (fun s u =>
          let seen : Seen := { held := [], may := u.own }
          let record := ps.flatMap (fun p => (List.range 8).map (fun i => cmdByte s seen (isDirect p.2.2.2) (p.2.2.1 + i)))
          let (status, s) := enqueueLaunch (logMark s u 3 x.pc) u o.imm.toNat record
          .stored { tlbAfter s u [va] with nonce := s.nonce + 1 }
            (u.mapSlices x.js (fun t => t.putS o.d (BitVec.ofNat 64 status))) false))

end Sys2Proof.Machine
end

