-- ==== Sys2Proof/Machine/Log.lean ====
section
/-! DEFINITION. Spilling the bittern log, discarding windows, and reverse steps (20_recovery R352-R358, 21 R377, R378). -/

namespace Sys2Proof.Machine

/-! ### Spilling (R352, R333) -/

/-- The place of a ring position for an entry. -/
def ringPlace (s : State) (e : LogEntry) (p : Nat) : Option (List (Nat × Nat × Nat)) :=
  regionParts s e.ctx e.core (ringByte e.ring e.ringSize p) 32

/-- Two entries go to one ring. -/
def sameRing (a b : LogEntry) : Bool := a.ctx == b.ctx && a.ring == b.ring && a.ringSize == b.ringSize

/-- Entries, in order, written at the reserved positions from byte number `p` on, as far as their pages allow. -/
def spillAt (s : State) : Nat → List LogEntry → State
  | _, [] => s
  | p, e :: es =>
    match ringPlace s e p with
    | none => s
    | some ps =>
      let s := writeParts s (logWriter e.core) ps (entryBytes e)
      let mark (x : LogEntry) : LogEntry := if x.id == e.id then { x with spilled := some p } else x
      spillAt { s with log := s.log.map mark } (p + 32) es

/-- What a spill does that meets a place of its region where it cannot write (R159, R322, R333): a page that is not present is asked for;
any other cause, or a page without TRACE, leaves the region unusable, and the latter suspends tracing. -/
def meetRegion (s : State) (e : LogEntry) (va : W64) : State :=
  match translate s (regionRequester e.ctx e.core) va with
  | .error 1 => postRequest s e.ctx (pageOf va) .write (coreDie e.core)
  | .error _ => setRingLost s e.ctx e.ring true
  | .ok (_, a) => if attrTrace a then s else setRingLost (suspendTrace s e.ctx) e.ctx e.ring true

/-- Of entries of one ring, how many it has free positions for, and how many of those it can take before a place where it cannot write. -/
def spillSpan (s : State) (e : LogEntry) (count : Nat) : Nat × Nat :=
  let (head, tail, cap) := ringState s e.ctx e.core e.ring e.ringSize
  let k := min count (cap - (head - tail) / 32)
  (k, writable s e.ctx e.core e.ring e.ringSize head k)

/-- The address at which a spill of entries meets a place where it cannot write: the header, or the first such position. -/
def spillStop (s : State) (e : LogEntry) (count : Nat) : Option W64 :=
  let (k, n) := spillSpan s e count
  let (head, _, _) := ringState s e.ctx e.core e.ring e.ringSize
  if (ringHeader s e.ctx e.core e.ring).isNone then some e.ring
  else if n < k then some (ringByte e.ring e.ringSize (head + 32 * n))
  else none

/-- Entries of one ring spilled together: HEAD is advanced by one atomic, then they are written (R352). Those that do not fit,
or whose region cannot be written, stay in the slice (R333, R355). A region that takes entries again is usable again (log entry 21). -/
def spill (s : State) (es : List LogEntry) : State :=
  match es with
  | [] => s
  | e :: _ =>
    let (head, _, _) := ringState s e.ctx e.core e.ring e.ringSize
    let n := (spillSpan s e es.length).2
    let met := match spillStop s e es.length with
      | some va => meetRegion s e va
      | none => if n = 0 then s else setRingLost s e.ctx e.ring false
    match ringHeader s e.ctx e.core e.ring with
    | some pa => if n = 0 then met else spillAt (writeHeader met e.core pa 0 (head + 32 * n)) head (es.take n)
    | none => met

/-- Entries in the groups that go to one ring, in order; `n` bounds the rings. -/
def byRing : Nat → List LogEntry → List (List LogEntry)
  | 0, _ => []
  | _, [] => []
  | n + 1, e :: es => (e :: es).filter (sameRing e) :: byRing n (es.filter (fun x => !sameRing e x))

/-- What a core spills next: its oldest entries of one ring, at most `count` (R352). -/
def spillable (s : State) (core count : Nat) : List LogEntry :=
  match unspilled s core with
  | [] => []
  | e :: es => ((e :: es).takeWhile (sameRing e)).take count

/-- Whether DROP-OLDEST holds for an entry's gang. -/
def dropsOldest (s : State) (e : LogEntry) : Bool :=
  match s.units.find? e.of with
  | some u => !u.logpol.getLsbD 0
  | none => !(s.ctx e.ctx).logpol.getLsbD 0

/-- The entries of a ring that DROP-OLDEST loses so that others of it find room, and the ring's TAIL behind them (R355); none where it need
lose none. -/
def spillLoses (s : State) (e : LogEntry) (count : Nat) : Option (List LogEntry × Nat) :=
  let (head, tail, cap) := ringState s e.ctx e.core e.ring e.ringSize
  let tail' := head + 32 * min count cap - 32 * cap
  if !dropsOldest s e || decide (tail' ≤ tail) then none
  else some (s.log.filter (fun x => sameRing e x && (match x.spilled with | some p => p < tail' | none => false)), tail')

/-- Entries of one ring that must leave their slice: under DROP-OLDEST the ring's oldest make room for them, but for those of a running
transaction (R324, R355). -/
def spillOut (s : State) (es : List LogEntry) : State :=
  match es with
  | [] => s
  | e :: _ =>
    let (_, _, cap) := ringState s e.ctx e.core e.ring e.ringSize
    let last := es.drop (es.length - cap)
    match ringHeader s e.ctx e.core e.ring, spillLoses s e es.length with
    | some pa, some (lost, tail') =>
      if txnKeeps s lost then spill s last
      else
        let s := writeHeader (discardWindows s lost) e.core pa 8 tail'
        spill s (last.filter (fun x => s.log.any (fun y => y.id == x.id)))
    | some _, none => spill s last
    | none, _ => spill s es

/-- Whether entries of one ring that must leave their slice wait: for a page of their region that is not present (R322, R333), or for the end
of a transaction whose entries stand where they would go (R355). -/
def spillWaits (s : State) (es : List LogEntry) : Bool :=
  match es with
  | [] => false
  | e :: _ =>
    (match spillStop s e es.length with
      | some va => (match translate s (regionRequester e.ctx e.core) va with | .error c => c == 1 | .ok _ => false)
      | none => false)
      || (match spillLoses s e es.length with | some (lost, _) => txnKeeps s lost | none => false)

/-- Entries of any rings that must leave their slice (R324, R355), and whether some of them wait. -/
def spillAll (s : State) (es : List LogEntry) : State := (byRing es.length es).foldl spillOut s
def outWaits (s : State) (es : List LogEntry) : Bool := (byRing es.length es).any (spillWaits s)

/-- TAIL after entries have gone: the oldest entry that a ring still keeps, or HEAD. -/
def advanceTail (s : State) (u : Unit) : State :=
  match ringHeader s u.ctx u.id.core u.logbase with
  | none => meetUntraced s u.ctx u.id.core u.logbase
  | some pa =>
    let (head, _, _) := ringState s u.ctx u.id.core u.logbase u.logsz
    let kept := (s.log.filter (fun e => e.ctx == u.ctx && e.ring == u.logbase)).filterMap (fun e => e.spilled)
    writeHeader s u.id.core pa 8 (kept.foldl min head)

/-- E moves up to a window, and the gang's entries below it go (R377). -/
def releaseWindows (s : State) (u : Unit) (w : W32) : State × Unit :=
  let e := max u.earliest (min w.toNat u.winno.toNat)
  let s := { s with log := s.log.filter (fun x => !(x.of u && decide (x.win.toNat < e))) }
  let s := advanceTail s u
  (s, { refresh s u with earliest := e, checkpoints := u.checkpoints.filter (fun c => e ≤ c.win.toNat) })

/-! ### The log as it stands (R352)

A reverse step applies entries as they stand in the slice and in the region, which a context can write. -/

/-- An entry read back from the 32 bytes of its ring position; none where an altered address does not translate. A gang id that a context has
altered names the entry's gang from then on; one that a restore has left behind still means the same gang (log entry 9). -/
def rereadEntry (s : State) (e : LogEntry) (bs : List Byte) : Option LogEntry :=
  let x := fromLe bs
  let va : W64 := BitVec.ofNat 64 (field x 0 56)
  let r := { e with
    va := va, lsz := BitVec.ofNat 2 (field x 56 2), eng := BitVec.ofNat 2 (field x 58 2), old := BitVec.ofNat 64 (field x 64 64)
    win := BitVec.ofNat 32 (field x 128 32), gang := BitVec.ofNat 18 (field x 160 18)
    owner := if BitVec.ofNat 18 (field x 160 18) = e.gang then e.owner else BitVec.ofNat 18 (field x 160 18), kind := BitVec.ofNat 4 (field x 178 4) }
  if va.toNat = e.va.toNat % 2 ^ 56 ∨ 3 ≤ r.kind.toNat then some r
  else match translate s { regionRequester e.ctx e.core with weight := true } va with
    | .ok (pa, a) => some { r with pa := pa, direct := isDirect a }
    | .error _ => none

/-- An entry as it stands: in the slice as appended, in the region as its bytes have it. -/
def standing (s : State) (e : LogEntry) : Option LogEntry :=
  match e.spilled with
  | none => some e
  | some p => match ringPlace s e p with
    | none => some e
    | some ps =>
      let bs := readParts s ps
      if bs = entryBytes e then some e else rereadEntry s e bs

/-- The log that a reverse step applies. -/
def standingLog (s : State) : List LogEntry := s.log.filterMap (standing s)

/-! ### Reverse steps (R357, R358) -/

/-- Whether an entry is the mark of a target: the opening of window w, or its e-th region edge. -/
def isTarget (u : Unit) (w : W32) (e : Nat) (x : LogEntry) : Bool :=
  x.of u && x.win == w && (if e = 0 then x.kind == 4 || x.kind == 7 else x.kind == 6 && x.edge == e)

/-- A gang's entries behind a target's mark, those of its checkpoint first; none without a target. -/
def behindTarget (u : Unit) (w : W32) (e : Nat) : List LogEntry → Option (List LogEntry)
  | [] => none
  | x :: xs => if isTarget u w e x then some (xs.filter (fun y => y.of u)) else behindTarget u w e xs

/-- A checkpoint's entry. -/
def LogEntry.isData (e : LogEntry) : Bool := e.kind == 8

/-- A gang's entries after a target. -/
def afterTarget (u : Unit) (w : W32) (e : Nat) (log : List LogEntry) : Option (List LogEntry) :=
  (behindTarget u w e log).map (fun xs => xs.dropWhile LogEntry.isData)

/-- The permission, the target and the marks that a gang's step meets, as its lowest status; 0 when it may be made (R378). -/
def undoStatus (s : State) (u : Unit) (w : W32) (e : Nat) (team : Bool) : Nat :=
  let found := afterTarget u w e (standingLog s)
  let after := found.getD []
  if !(s.ctx u.ctx).dbgctl.getLsbD 1 then 1
  else if w.toNat < u.earliest then 2
  else if after.any (fun x => x.kind == 3) then 3
  else if !team && after.any (fun x => x.kind == 5) then 4
  else if found.isNone || !u.checkpoints.any (fun c => c.win == w && c.edge == e) then 5
  else 0

/-- Insertion into a list ordered by `order`, later ones first. -/
def insertLater (x : LogEntry) : List LogEntry → List LogEntry
  | [] => [x]
  | y :: ys => if y.order.getD 0 ≤ x.order.getD 0 then x :: y :: ys else y :: insertLater x ys

/-- Undone entries from the last in the order of publications and performings to the first; within one publication, in reverse
of their append order. -/
def latestFirst (es : List LogEntry) : List LogEntry := es.foldl (fun acc x => insertLater x acc) []

/-- Entries whose words were written: stores, atomics and engine writes that have taken their place (R357). -/
def LogEntry.written (e : LogEntry) : Bool := (e.kind == 0 || e.kind == 1 || e.kind == 2) && e.order.isSome

/-- Words given back OLD at the places that their addresses have now, in the order of the list; those of snapshot words are published
together (R357, R358). -/
def giveBackAll (s : State) (by_ : UnitId) (es : List LogEntry) : State :=
  let direct (e : LogEntry) : Bool := ((undoPlace s e).map (fun p => p.2)).getD false
  let o := (es.filter (fun e => !direct e)).foldl (fun o e => match undoPlace s e with
    | some (pa, _) => Overlay.putBytes o pa (leBytes e.old.toNat (2 ^ e.lsz.toNat))
    | none => o) []
  publishOverlay (o.foldl (fun s c => dropWeights s c.1 1) ((es.filter direct).foldl giveBack s)) by_ o

/-- Whether an entry is one of a store to a snapshot word that covers a byte. -/
def LogEntry.storesTo (pa : Nat) (e : LogEntry) : Bool := e.kind == 0 && !e.direct && e.pa ≤ pa && pa < e.pa + 2 ^ e.lsz.toNat

/-- A byte of an entry's OLD. -/
def LogEntry.oldByte (e : LogEntry) (pa : Nat) : Byte := (leBytes e.old.toNat 8).getD (pa - e.pa) 0

/-- The bytes of snapshot words that entries covered, as the gang saw them before: the OLD of the first entry of each. -/
def seenBefore (kinds : LogEntry → Bool) (gone : List LogEntry) : Overlay :=
  ((gone.filter (fun e => kinds e && !e.direct)).reverse).foldl (fun o e => Overlay.putBytes o e.pa (leBytes e.old.toNat (2 ^ e.lsz.toNat))) []

/-- A gang's stores to snapshot words behind a step that undoes the entries `gone` and keeps `kept`: those that it holds unpublished, and
those that a TCOMMIT has published over them. Where a store that is kept and held covers a byte, the byte is again what the gang held, and
what a transaction has put over it since (R179, R185, R357). -/
def withdraw (own committed : Overlay) (kept gone : List LogEntry) : Overlay × Overlay :=
  (seenBefore (fun e => e.kind == 0) gone).foldl (fun o c =>
    let later := (kept.filter (LogEntry.storesTo c.1)).reverse.takeWhile (fun e => e.order.isSome)
    if !(kept.filter (LogEntry.storesTo c.1)).any (fun e => e.order == none) then
      (Overlay.dropBytes o.1 c.1 1, Overlay.dropBytes o.2 c.1 1)
    else match later.getLast? with
      | some e => (Overlay.putBytes o.1 c.1 [e.oldByte c.1], Overlay.putBytes o.2 c.1 [c.2])
      | none => (Overlay.putBytes o.1 c.1 [c.2], Overlay.dropBytes o.2 c.1 1)) (own, committed)

/-- Engine writes of a gang as a Wait may still cover them behind such a step (R181): a byte that an undone one wrote is gone, or where one
that is kept wrote it too, it is what that one left. -/
def keepEngine (kept gone : List LogEntry) (o : Overlay) : Overlay :=
  let engine (e : LogEntry) : Bool := e.kind == 2 || e.kind == 1
  (seenBefore engine gone).foldl (fun o c =>
    if (Overlay.find o c.1).isNone then o
    else if kept.any (fun e => engine e && !e.direct && e.pa ≤ c.1 && c.1 < e.pa + 2 ^ e.lsz.toNat) then Overlay.putBytes o c.1 [c.2]
    else Overlay.dropBytes o c.1 1) o

/-- The data of a target's checkpoint, as taken and as they stand. -/
def checkpointPairs (s : State) (u : Unit) (w : W32) (e : Nat) : List (W64 × W64) :=
  (((behindTarget u w e s.log).getD []).takeWhile LogEntry.isData).map (fun x =>
    (x.old, ((standing s x).map (fun y => y.old)).getD x.old))

/-- What a slice-state block that a context has altered restores: its packing is the part's own, so its contents are free; tokens,
stacks and streams stay (log entry 29). -/
def freeSlice (nonce : Nat) (t : Slice) : Slice :=
  let f (i : Nat) : W64 := Config.freeValue (nonce + 2 ^ 64 * (64 * t.idx + i + 1))
  { t with pc := f 0, mask := (f 1).setWidth 4, k := Vector.ofFn (fun i => (f (2 + i.val)).setWidth 4), fpctl := (f 10).setWidth 32
           fpstat := (f 11).setWidth 32, srcount := (f 12).setWidth 41 }

/-- A slice of a checkpoint under its data: what differs from the data taken is restored as it stands. -/
def restoreData (nonce : Nat) (liveS liveV : W64) (t : Slice) (ps : List (W64 × W64)) : Slice :=
  let n := Config.blockEntries.toNat + 1
  let same (p : W64 × W64) : Bool := p.1 == p.2
  let t := if (ps.take n).all same then t else freeSlice nonce t
  let t := ((regsOf liveS).zip (ps.drop n)).foldl (fun t p => if same p.2 then t else t.setNow p.1 p.2.2) t
  let vs := (regsOf liveV).flatMap (fun r => [(r, false), (r, true)])
  (vs.zip (ps.drop (n + (regsOf liveS).length))).foldl (fun t p =>
    if same p.2 then t
    else
      let x := p.2.2
      if p.1.2 then (t.putV p.1.1 2 (x.setWidth 32)).putV p.1.1 3 ((x >>> 32).setWidth 32)
      else (t.putV p.1.1 0 (x.setWidth 32)).putV p.1.1 1 ((x >>> 32).setWidth 32)) t

/-- The slices of a checkpoint under its data, each with its share. -/
def restoreAll (nonce : Nat) (c : Checkpoint) (ps : List (W64 × W64)) : List Slice :=
  let size := 1 + Config.blockEntries.toNat + (regsOf c.liveS).length + 2 * (regsOf c.liveV).length
  let live := (c.slices.filter Slice.alive).map (fun t => t.idx)
  c.slices.map (fun t =>
    if ps.all (fun p => p.1 == p.2) then t
    else if t.alive then restoreData nonce c.liveS c.liveV t (ps.drop (live.idxOf t.idx * size) |>.take size) else t)

/-- A slice of a checkpoint, what has reached it landed, with the registers outside its live masks reading 0. -/
def maskLive (c : Checkpoint) (t : Slice) : Slice :=
  let t := landReady t
  let t := (List.range 64).foldl (fun t i => if c.liveS.getLsbD i then t else t.putS (BitVec.ofNat 6 i) 0) t
  (List.range 64).foldl (fun t i =>
    if c.liveV.getLsbD i then t else [0, 1, 2, 3].foldl (fun t l => t.putV (BitVec.ofNat 6 i) l 0) t) t

/-- A gang put back to a target: registers, PCs and slice state, the window number, counters zero (R357 steps 3 and 4). What it holds of stores
and may still cover of engine writes from before the target stays (R179, R181). A trap that it was in is over: it stands still at the
target. The snapshot is taken by the caller. -/
def rewindGang (nonce : Nat) (u : Unit) (w : W32) (e : Nat) (kept gone : List LogEntry) (ps : List (W64 × W64)) : Unit :=
  match u.checkpoints.find? (fun c => c.win == w && c.edge == e) with
  | none => u
  | some c =>
    let earlier (k : Checkpoint) : Bool := k.win.toNat < w.toNat || (k.win == w && k.edge ≤ e)
    let v := u.restoreSlices ((restoreAll nonce c ps).map (maskLive c))
    let outside (x : LogEntry) : Bool := match u.txn with | some t => !t.entry u x | none => true
    let held := withdraw v.own v.committed (kept.filter outside) (gone.filter outside)
    { v with
      winno := w, edges := e, ops := [], checkpoints := v.checkpoints.filter earlier, own := held.1, committed := held.2
      handler := none, halt := .port [], engineDone := v.engineDone.map (fun d => (d.1, keepEngine kept gone d.2))
      engineCovered := keepEngine kept gone v.engineCovered, engineSeen := []
      fenced := [], fencedDirect := 0, fencedAtomics := 0, published := [] }

/-- PCS and LMASK of a gang's frame, as it stands at its target. -/
def writePcs (s : State) (u : Unit) : State :=
  { s with mem := (s.mem.writeBytes (framePa u + 48) (leBytes (lmaskOf u).toNat 4)).writeBytes (framePa u + 64) (framePcs u) }

/-- The team's pending direct stores performed. -/
def settle (s : State) (u : Unit) : State := settleDirects s u

/-- A unit whose work for a reverse step is over: direct stores may be pending, nothing else (R357 step 1). -/
def drained (u : Unit) : Bool := u.atomics.isEmpty && u.ops.isEmpty

/-- Whether an entry is one of a list, by its name. -/
def named (es : List LogEntry) (x : LogEntry) : Bool := es.any (fun y => y.id == x.id)

/-- A gang steps back to (w, e) (R357). -/
def undoGang (s : State) (id : UnitId) (w : W32) (e : Nat) : State :=
  match s.unit? id with
  | none => s
  | some u =>
    let s := settle s u
    match s.unit? id with
    | none => s
    | some u =>
      let mine := (standingLog s).filter (fun x => x.of u)
      let gone := (afterTarget u w e mine).getD []
      let ps := checkpointPairs s u w e
      let s := giveBackAll s id ((gone.filter LogEntry.written).reverse)
      let s := { s with log := s.log.filter (fun x => !named gone x) }
      let u := rewindGang s.nonce (refresh s u) w e (mine.take (mine.length - gone.length)) gone ps
      s.setUnit { u with snapshot := s.mem }

/-- The gangs of a team that take part in its step. -/
def steppers (s : State) (team : Nat) : List Unit :=
  s.units.filter (fun x => x.team == team && x.id.kind == .gang && !x.exited)

/-- Entries of a team's engine members that a step to (w, e) undoes (R354). -/
def memberEntries (s : State) (team : Nat) (w : W32) (e : Nat) : List LogEntry :=
  (standingLog s).filter (fun x => x.team == team && x.eng != 0 && (decide (w.toNat < x.win.toNat) || (x.win == w && decide (e = 0))))

/-- A whole team steps back: each word receives the OLD of its co-earliest undone entry (R358). -/
def undoTeamTo (s : State) (team : Nat) (w : W32) (e : Nat) : State :=
  let s := (s.units.filter (fun x => x.team == team)).foldl settle s
  let gangs := steppers s team
  let log := standingLog s
  let goneOf (u : Unit) : List LogEntry := (afterTarget u w e log).getD []
  let gone := gangs.flatMap goneOf ++ memberEntries s team w e
  let by_ := ((gangs.head?).map (fun u => u.id)).getD { core := 0, kind := .gang, slot := 0 }
  let s1 := giveBackAll s by_ (latestFirst ((log.filter (named gone)).filter LogEntry.written))
  let s1 := { s1 with log := s1.log.filter (fun x => !named gone x) }
  s1.mapUnits (fun x => gangs.any (fun g => g.id == x.id)) (fun x =>
    let mine := log.filter (fun y => y.of x)
    let g := goneOf x
    { rewindGang s.nonce x w e (mine.take (mine.length - g.length)) g (checkpointPairs s x w e) with snapshot := s1.mem })

/-- Status 7: an exited gang of the team holds something after its target (R358). -/
def exitedBlocks (s : State) (team : Nat) (w : W32) (e : Nat) : Bool :=
  (s.units.filter (fun x => x.team == team && x.id.kind == .gang && x.exited)).any (fun u =>
    match afterTarget u w e (standingLog s) with
    | some es => !es.isEmpty
    | none => (standingLog s).any (fun x => x.of u && w.toNat < x.win.toNat))

/-- The lowest of statuses that apply; 0 if none does (R378). -/
def lowest (sts : List Nat) : Nat :=
  match sts.filter (fun n => n != 0) with
  | n :: ns => ns.foldl min n
  | [] => 0

/-- The lowest status of a team's step; an irreversible mark of an engine member refuses it like a gang's (R358). -/
def teamStatus (s : State) (team : Nat) (w : W32) (e : Nat) : Nat :=
  lowest ((steppers s team).map (fun u => undoStatus s u w e true)
    ++ [if (memberEntries s team w e).any (fun x => x.kind == 3) then 3 else 0, if exitedBlocks s team w e then 7 else 0])

/-- Units that a reverse step stops first (R378): the team's, by a halt. -/
def stopForUndo (s : State) (team : Nat) (origin : Nat) : State :=
  s.mapUnits (fun x => x.team == team && x.halt == .none && !x.exited) (fun x => { x with halt := .pending origin 0 0 })

/-- Every unit of a team stands still. -/
def teamStopped (s : State) (team : Nat) : Bool :=
  s.units.all (fun x => x.team != team || x.exited || (match x.halt with | .none => false | .pending _ _ _ => false | .error _ _ => false | _ => true))

/-- A stopped team waits for S or the port (R378). -/
def holdStopped (s : State) (team : Nat) : State :=
  s.mapUnits (fun x => x.team == team && (match x.halt with | .halted _ _ => true | _ => false)) (fun x =>
    match x.halt with | .halted _ ws => { x with halt := .port ws } | _ => x)

/-- How far a reverse step comes: a status, or the state in which it still waits for its scope. -/
inductive UndoEnd where
  | status (n : Nat) (s : State)
  | waits (s : State)

/-- The reverse step of a gang, or of its team, with its status (R357, R358, R378); `formOk` when no operand has a bit outside its
fields. -/
def reverseStep (s : State) (ctx gang : Nat) (w : W32) (e : Nat) (team formOk : Bool) : UndoEnd :=
  let c := s.ctx ctx
  match s.units.find? (fun u => u.ctx == ctx && u.gangId.toNat == gang && u.id.kind == .gang && !u.exited) with
  | none => .status (lowest [if c.live && !c.dbgctl.getLsbD 1 then 1 else 0, 6]) s
  | some u =>
    if !c.live then .status 6 s
    else if !teamStopped s u.team then .waits (stopForUndo s u.team u.gangId.toNat)
    else if s.units.any (fun x => x.team == u.team && !drained x) then .waits s
    else
      let s := holdStopped s u.team
      let n := lowest [if team then teamStatus s u.team w e else undoStatus s u w e false, if formOk then 0 else 6]
      if n ≠ 0 then .status n s
      else
        let s' := if team then undoTeamTo s u.team w e else undoGang s u.id w e
        .status 0 ((if team then steppers s' u.team else (s'.unit? u.id).toList).foldl writePcs s')

end Sys2Proof.Machine
end

