-- ==== Sys2Proof/Machine/Isolation.lean ====
section
/-! DEFINITION. System registers, TLB invalidation, ECALL and FLUSHW (03_state R32, 19_isolation_instructions R336-R341). -/

namespace Sys2Proof.Machine

/-! ### Issue by level (R52 step 7) -/

/-- The registers that level U may not read, and those it may write. -/
def hiddenAtU (n : Nat) : Bool := n == 0x50 || n == 0x51 || n == 0x52
def writableAtU (n : Nat) : Bool := n == 3 || n == 4 || n == 5
/-- The registers that no level writes. -/
def readOnly (n : Nat) : Bool := n ≤ 2 || n == 6 || (8 ≤ n && n ≤ 15) || n == 0x30

/-! ### Registers (R32, R337) -/

/-- UNITID of a slice. -/
def unitIdWord (s : State) (u : Unit) (t : Slice) : W64 :=
  let c := u.id.core
  let ord := match s.team? u.team with
    | some tm => tm.cores.findIdx (fun x => x == c)
    | none => 0
  BitVec.ofNat 64 (coreDie c + coreCluster c * 2 ^ 4 + coreIndex c * 2 ^ 7
    + (if u.id.kind = .gang then u.id.slot else 0) * 2 ^ 14 + t.idx * 2 ^ 18 + ord * 2 ^ 21)

/-- OOCNT (R29). -/
def counterWord (u : Unit) : W64 :=
  BitVec.ofNat 64 (u.count 0 + u.count 1 * 2 ^ 8 + u.count 2 * 2 ^ 16 + u.count 3 * 2 ^ 24)

/-- A context-held register (R338). -/
def contextRegister (c : Context) (n : Nat) : W64 :=
  match n with
  | 5 => c.srseed
  | 0x31 => c.logpol.setWidth 64
  | 0x32 => c.logbase
  | 0x40 => c.trcbase
  | 0x41 => c.trstat
  | 0x42 => c.sampk
  | 0x50 => c.trapbase
  | 0x51 => c.deleg.setWidth 64
  | _ => c.dbgctl.setWidth 64

/-- The value that SYSR returns in a slice (R337). -/
def systemRegister (s : State) (u : Unit) (t : Slice) (n : Nat) : W64 :=
  match n with
  | 0 => s.gtick
  | 1 => unitIdWord s u t
  | 2 => BitVec.ofNat 64 u.ctx
  | 3 => t.fpctl.setWidth 64
  | 4 => t.fpstat.setWidth 64
  | 5 => u.srseed
  | 6 => counterWord u
  | 0x20 => s.rfsched.getD (coreDie u.id.core) 0
  | 0x21 => s.rfphase.getD (coreDie u.id.core) 0
  | 0x30 => u.winno.setWidth 64
  | 0x31 => u.logpol.setWidth 64
  | 0x32 => u.logbase
  | n => if 8 ≤ n ∧ n ≤ 15 then ((s.coreAt u.id.core).ctl (n - 8)).setWidth 64 else contextRegister (s.ctx u.ctx) n

/-- Whether a value keeps the reserved fields of a register (R32, R337). -/
def registerForm (n : Nat) (x : W64) : Bool :=
  match n with
  | 3 => field x.toNat 9 23 == 0 && field x.toNat 0 3 ≤ 4
  | 4 => field x.toNat 7 25 == 0
  | 0x20 => field x.toNat 48 16 == 0
  | 0x31 => field x.toNat 2 6 == 0 && field x.toNat 28 4 == 0
  | 0x41 => field x.toNat 3 13 == 0 && field x.toNat 32 32 == 0
  | 0x42 => 10 ≤ x.toNat && x.toNat ≤ 24
  | 0x50 => x.toNat % 64 == 0
  | 0x51 => x &&& 0xC01C#64 == 0
  | 0x52 => field x.toNat 3 29 == 0
  | _ => true

/-- A context-held register written (R337, R338). -/
def Context.write (c : Context) (n : Nat) (x : W64) : Context :=
  match n with
  | 5 => { c with srseed := x }
  | 0x31 => { c with logpol := x.setWidth 32 }
  | 0x32 => { c with logbase := x }
  | 0x40 => { c with trcbase := x }
  | 0x41 => { c with trstat := x }
  | 0x42 => { c with sampk := x }
  | 0x50 => { c with trapbase := x }
  | 0x51 => { c with deleg := x.setWidth 16 }
  | _ => { c with dbgctl := x.setWidth 32 }

/-- The fields of a context's entry in the table that a register's write changes (R312, R338). -/
def storeEntry (s : State) (by_ : UnitId) (c n : Nat) (x : W64) : State :=
  let at_ (off len : Nat) : State := publishAt s by_ (canonPa (s.ctxtab.toNat + 64 * c + off)) (leBytes x.toNat len)
  match n with
  | 0x50 => at_ 24 8
  | 0x51 => at_ 32 2
  | 0x52 => at_ 34 4
  | _ => s

/-- A register of the executing group written from its lowest slice's value (R337). -/
def writeSystem (s : State) (u : Unit) (n : Nat) (x : W64) : State × Unit :=
  let c := s.ctx u.ctx
  match n with
  | 5 => (s.setCtx u.ctx { c with srseed := x }, { u with srseed := x })
  | 0x20 => ({ s with rfsched := s.rfsched.set (coreDie u.id.core) x }, u)
  | 0x21 => ({ s with rfphase := s.rfphase.set (coreDie u.id.core) x }, u)
  | 0x31 => (s, { u with nextLogpol := x.setWidth 32 })
  | 0x32 => (s, { u with nextLogbase := x })
  | n => (storeEntry (s.setCtx u.ctx (c.write n x)) u.id u.ctx n x, u)

/-! ### SYSR and SYSW (R337, R338) -/

def sysrBody (o : WArgs) (s : State) (x : Issue) : Done :=
  .seq s (x.unit.mapSlices x.js (fun t => queueScalar o.d (systemRegister s x.unit t o.imm.toNat) t))

/-- SYSR (R337): sD emptied, the value on its way. -/
def execSysr (o : WArgs) (s : State) : Host.Outcome State Fault Refusal :=
  if hiddenAtU o.imm.toNat then issueS (.sysr o) s (sysrBody o s) else issue (.sysr o) s (sysrBody o s)

/-- The context that sB names (R338), or class 0, subclass 6. -/
def namedContext (s : State) (b : W64) : Option Nat :=
  if b.toNat < 64 ∧ (s.ctx b.toNat).live then some b.toNat else none

def execSysrCtx (o : WArgs) (s : State) : Host.Outcome State Fault Refusal :=
  issueS (.sysrCtx o) s (fun x =>
    match namedContext s (x.low.getS o.b) with
    | none => .trap (illegal 6)
    | some c => .seq s (x.unit.mapSlices x.js (queueScalar o.d (contextRegister (s.ctx c) o.imm.toNat))))

/-- SYSW of a per-slice register, from each slice's own sA. -/
def writeOwn (o : WArgs) (t : Slice) : Slice :=
  let x := (t.getS o.a).setWidth 32
  if o.imm = 3 then { t with fpctl := x } else { t with fpstat := x }

def syswBody (o : WArgs) (s : State) (x : Issue) : Done :=
  let n := o.imm.toNat
  if n = 3 ∨ n = 4 then
    if x.slices.all (fun t => registerForm n (t.getS o.a)) then .seq s (x.unit.mapSlices x.js (writeOwn o)) else .trap (illegal 6)
  else
    let v := x.low.getS o.a
    if registerForm n v then let (s, u) := writeSystem s x.unit n v; .seq s u else .trap (illegal 6)

/-- SYSW (R337): class 2 where the level may not write. -/
def execSysw (o : WArgs) (s : State) : Host.Outcome State Fault Refusal :=
  let n := o.imm.toNat
  if readOnly n then issueTrap (.sysw o) s { cls := 2, sub := 0 }
  else if writableAtU n then issue (.sysw o) s (syswBody o s)
  else issueS (.sysw o) s (syswBody o s)

/-- A value that S gives a context reaches what its new teams load: those of the launches accepted so far; one accepted later brings a LOGP
and a LOGB of its own (R245, R338; DEDUCED, log entry 13). -/
def LaunchRec.given (r : LaunchRec) (n : Nat) (v : W64) : LaunchRec :=
  match n with
  | 0x31 => { r with logp := v.setWidth 32 }
  | 0x32 => { r with logb := v }
  | _ => r

/-- A value that S gives a context reaches its gangs: LOGPOL and LOGBASE those of their next windows, also in saved teams, and of teams that
start later; SRSEED the executing gang of that context at once (R337, R338). -/
def spreadContext (s : State) (by_ : UnitId) (c n : Nat) (v : W64) : State :=
  let s : State := { s with launches := s.launches.map (fun l => if l.ctx == c then { l with record := l.record.given n v } else l) }
  s.mapEvery (fun u => u.ctx == c) (fun u => match n with
    | 0x31 => { u with nextLogpol := v.setWidth 32 }
    | 0x32 => { u with nextLogbase := v }
    | 5 => if u.id == by_ then { u with srseed := v } else u
    | _ => u)

/-- SYSW.CTX (R338). -/
def execSyswCtx (o : WArgs) (s : State) : Host.Outcome State Fault Refusal :=
  issueS (.syswCtx o) s (fun x =>
    let n := o.imm.toNat
    let v := x.low.getS o.a
    match namedContext s (x.low.getS o.b) with
    | none => .trap (illegal 6)
    | some c =>
      if !registerForm n v then .trap (illegal 6)
      else
        let s := storeEntry (s.setCtx c ((s.ctx c).write n v)) x.unit.id c n v
        let s := spreadContext s x.unit.id c n v
        .seq s (refresh s x.unit))

/-! ### TLBINV (R339) -/

/-- TLBINV's removal of entries from every TLB, and the wait for the accesses translated under them. -/
def invalidate (s : State) (x : Issue) (ctx : Option Nat) (page : Option W64) (p : TlbEntry → Bool) : Done :=
  .stay { s with tlb := s.tlb.filter (fun e => !p e.2) } (x.unit.park x.js (.tlbinv ctx page) x.size)

def execTlbinvPage (o : WArgs) (s : State) : Host.Outcome State Fault Refusal :=
  issueS (.tlbinvPage o) s (fun x =>
    let c := (x.low.getS o.a).toNat % 64
    let va := x.low.getS o.b
    invalidate s x (some c) (some va) (fun e => e.covers c va.toNat))

def execTlbinvCtx (o : WArgs) (s : State) : Host.Outcome State Fault Refusal :=
  issueS (.tlbinvCtx o) s (fun x =>
    let c := (x.low.getS o.a).toNat % 64
    invalidate s x (some c) none (fun e => e.ctx == c))

def execTlbinvAll (o : WArgs) (s : State) : Host.Outcome State Fault Refusal :=
  issueS (.tlbinvAll o) s (fun x => invalidate s x none none (fun _ => true))

/-! ### ECALL (R340) -/

/-- ECALL at level U; at level S it is class 0, subclass 0 (R336). -/
def execEcall (o : WArgs) (s : State) : Host.Outcome State Fault Refusal :=
  match s.issuer with
  | none => .fault .noIssuer
  | some y =>
    if y.unit.isS then issueTrap (.ecall o) s (illegal 0)
    else issue (.ecall o) s (fun x =>
      let die := coreDie x.unit.id.core
      if Config.ecallRequestsPerDie ≤ (s.ecalls.filter (fun r => r.die == die)).length then .stall
      else withRoom s x.unit (entriesFor x.unit 1 0) (fun s u =>
        let r : EcallRequest :=
          { unit := u.id, team := u.team, slice := x.low.idx, ctx := u.ctx, pc := x.pc, n := o.imm
            args := (List.range 8).map (fun i => x.low.getS (BitVec.ofNat 6 i)), die := die }
        let s := logMark s u 3 x.pc
        .stay { s with ecalls := s.ecalls ++ [r] } (u.park x.js .ecall x.size)))

/-! ### FLUSHW (R341) -/

/-- The bytes of a ring that entries and its HEAD have changed, as their gang sees them after FLUSHW. -/
def ringBytes (before after : State) (es : List LogEntry) : Overlay :=
  let new := after.log.filter (fun e => named es e && e.spilled.isSome && !before.log.any (fun b => b.id == e.id && b.spilled.isSome))
  let o := match new with
    | [] => []
    | e :: _ => match ringHeader after e.ctx e.core e.ring with
      | some pa => Overlay.putBytes [] pa (after.mem.readBytes pa 8)
      | none => []
  new.foldl (fun o e => match e.spilled with
    | some p => match ringPlace after e p with
      | some ps => ps.foldl (fun o q => Overlay.putBytes o q.1 (slice (entryBytes e) q.2.1 q.2.2)) o
      | none => o
    | none => o) o

/-- Entries of one ring written to it, with what their gang then sees. -/
def flushRing (so : State × Overlay) (es : List LogEntry) : State × Overlay :=
  let s' := spill so.1 es
  (s', Overlay.layer (ringBytes so.1 s' es) so.2)

/-- A ring that could take entries but is too full for them. -/
def ringShort (s : State) (es : List LogEntry) : Bool :=
  match es with
  | [] => false
  | e :: _ =>
    let (head, tail, cap) := ringState s e.ctx e.core e.ring e.ringSize
    (ringHeader s e.ctx e.core e.ring).isSome && decide (cap - (head - tail) / 32 < es.length)

/-- FLUSHW: the gang's entries go to their rings, visible to it at once; while a ring is full they wait. -/
def execFlushw (o : WArgs) (s : State) : Host.Outcome State Fault Refusal :=
  issue (.flushw o) s (fun x =>
    let mine := s.log.filter (fun e => e.of x.unit && e.spilled == none)
    let rings := byRing mine.length mine
    if rings.any (ringShort s) then .stall
    else
      let (s', seen) := rings.foldl flushRing (s, [])
      let u := refresh s' x.unit
      .seq s' { u with engineSeen := Overlay.layer seen u.engineSeen, engineCovered := Overlay.layer seen u.engineCovered })

end Sys2Proof.Machine
end

