-- ==== Sys2Proof/Machine/Refresh.lean ====
section
/-! DEFINITION. Refresh windows of the weight stores: the schedules as written and in force, and the windows that they open (03_state R32,
09_memory_places R166, 19_isolation_instructions R337). -/

namespace Sys2Proof.Machine

/-- PERIOD and WLEN of a schedule. -/
def periodOf (x : W64) : Nat := field x.toNat 16 32
def wlenOf (x : W64) : Nat := field x.toNat 0 16

/-- RFSCHED and RFPHASE of a die, as written and in force. -/
def schedule (s : State) (die : Nat) : W64 × W64 := (s.rfsched.getD die 0, s.rfphase.getD die 0)
def inForce (s : State) (die : Nat) : W64 × W64 := s.rfForce.getD die (0, 0)

/-- Whether the schedule in force starts a window at this tick. -/
def windowStarts (s : State) (die : Nat) : Bool :=
  let (x, p) := inForce s die
  periodOf x != 0 && decide (p.toNat ≤ s.gtick.toNat) && (s.gtick.toNat - p.toNat) % periodOf x == 0

/-- A window is to open, or a new schedule to come into force with it; without windows in force, a new schedule takes over at once. -/
def windowDue (s : State) (die : Nat) : Bool :=
  (windowStarts s die && ((wlenOf (inForce s die).1 != 0 && !s.refresh.contains (die, s.gtick.toNat)) || inForce s die != schedule s die))
    || (periodOf (inForce s die).1 == 0 && inForce s die != schedule s die)

/-- Whether an open window of a die has lasted WLEN ticks. -/
def windowOver (s : State) (die : Nat) : Bool :=
  s.refresh.any (fun w => w.1 == die && decide (w.2 + wlenOf (inForce s die).1 ≤ s.gtick.toNat))

/-- The schedule as written comes into force; where the old one or the new one starts a window at this tick, it opens with the new length (log
entry 13). -/
def startWindow (s : State) (die : Nat) : State :=
  let old := windowStarts s die
  let s := { s with rfForce := s.rfForce.set die (schedule s die) }
  if (old || windowStarts s die) && periodOf (inForce s die).1 != 0 && wlenOf (inForce s die).1 != 0 then
    { s with refresh := (die, s.gtick.toNat) :: s.refresh.filter (fun w => w.1 != die) }
  else s

/-- A window closed. -/
def endWindow (s : State) (die : Nat) : State := { s with refresh := s.refresh.filter (fun w => w.1 != die) }

/-- Windows that start at this tick. -/
def openWindows (s : State) : State := ((List.range 16).filter (windowDue s)).foldl startWindow s

/-- Windows that end and start as a tick comes. -/
def turnWindows (s : State) : State := openWindows (((List.range 16).filter (windowOver s)).foldl endWindow s)

end Sys2Proof.Machine
end

