-- ==== Sys2Proof/Machine/Launch.lean ====
section
/-! DEFINITION. Configuration images, launch queues, gates, placement, rounds and the endings of teams and launches
(01_device R6-R7, 03_state R35-R36, 13_progress R245-R251, R268, 18_isolation R324, 20_recovery R365, 25_host R408-R410).
A step of the device whose condition does not hold changes nothing (log entry 1). -/

namespace Sys2Proof.Machine

/-- The end of a step of the device. -/
abbrev Ended := Host.Outcome State Fault Refusal

/-- What the device itself publishes is published by no unit. -/
def device : UnitId := { core := 0, kind := .mgmt, slot := 255 }

/-! ### What a team starts with (R35, R246, R325, R372) -/

/-- The fields of a record. -/
def recordOf (x : Nat) : LaunchRec :=
  { code := BitVec.ofNat 64 x, entry := BitVec.ofNat 32 (field x 64 32), nteam := field x 96 16, cores := field x 112 7 + 1
    gangs := field x 119 4 + 1, slices := field x 123 3 + 1, set := field x 126 7 + 1, cls := BitVec.ofNat 2 (field x 133 2)
    prio := field x 135 3, drift := field x 138 6 + 1, wload := field x 144 1 = 1
    groups := BitVec.ofNat 64 (field x 192 64), roles := BitVec.ofNat 64 (field x 256 64)
    sched := BitVec.ofNat 64 (field x 320 64), nsched := field x 384 16, args := BitVec.ofNat 64 (field x 448 64)
    logb := BitVec.ofNat 64 (field x 512 64), logsz := BitVec.ofNat 64 (field x 576 64)
    logp := BitVec.ofNat 32 (field x 640 32), trcb := BitVec.ofNat 64 (field x 704 64)
    gate := BitVec.ofNat 64 (field x 768 64), gateval := BitVec.ofNat 64 (field x 832 64)
    done := BitVec.ofNat 64 (field x 896 64) }

/-- A slice at team start; its entry block counts as reached in sequence (R58, the table behind R269). -/
def startSlice (entry s0 s61 s62 : W64) (idx now : Nat) : Slice :=
  { idx := idx, pc := entry, mask := 0xF
    s := (((Vector.replicate 64 0).set 0 s0).set 61 s61).set 62 s62
    sFull := allLive, v := Vector.replicate 64 (Vector.replicate 4 0), vFull := allLive, k := Vector.replicate 8 0
    w := Vector.replicate 16 none, tokens := [], regions := [], opStacks := Vector.replicate 4 [], fpctl := 0, fpstat := 0
    srcount := 0, span := .self, bitsA := .none, bitsB := .none, demand := 0, retStack := [], retSpilled := []
    run := .running, grp := 0, results := [], handPass := [], barPass := [], age := now
    withheld := none, replay := none, blk := entry &&& ~~~63, seqF := true, pos := 0, served := none, behind := none }

/-- A side-buffer record at team start (R372). -/
def SideBuffer.blank : SideBuffer := { replay := 0, faulted := 0, lcause := 0, seq := 0, ecause := 0, cls := 0 }

/-- A unit at the start of a team of a context. -/
def startUnit (s : State) (r : LaunchRec) (team ctx : Nat) (id : UnitId) (slices : List Slice) : Unit :=
  { id := id, team := team, ctx := ctx, slices := slices, ops := [], winno := 0, earliest := 1, edges := 0, autoCount := 0
    logpol := r.logp, logbase := r.logb, logsz := r.logsz, nextLogpol := r.logp, nextLogbase := r.logb, snapshot := s.mem
    own := [], ownPages := [], committed := [], engineDone := [], engineCovered := [], engineSeen := []
    direct := [], atomics := [], fenced := [], fencedDirect := 0, fencedAtomics := 0, seqNo := 0, txn := none
    published := [], side := .blank, handler := none, halt := .none, engineError := none, errorHold := false, lostAt := none
    arrived := [], checkpoints := [], srseed := (s.ctx ctx).srseed, retried := [], exited := false }

/-! ### Configuration images (R6) -/

/-- Whether a slot's seal matches its contents. The spec gives an image no layout: the model keeps its settings as fields beside its bytes, and
the seal covers the bytes alone, neither the settings nor the sequence number (DESIGN CHOICE, log entry 2). -/
def ImageSlot.sealed (i : ImageSlot) : Bool := i.crc == crc32c i.body.bytes

/-- The slot that a reset release loads, if any seal matches. -/
def chooseImage (a b : ImageSlot) : Option (Fin 2) :=
  if a.sealed && b.sealed then (if newer b.seq a.seq then some 1 else some 0)
  else if a.sealed then some 0
  else if b.sealed then some 1
  else none

/-- RFSCHED as an image gives it (R32). -/
def schedWord (b : ImageBody) : W64 := b.wlen.setWidth 64 ||| b.period.setWidth 64 <<< 16

/-- Level S of a die's management core: a unit of one slice in context 0. Where its firmware lies is not in the spec, so it begins at a
free PC (log entry 26). -/
def managementUnit (s : State) (n : Nat) : Unit :=
  let pc : W64 := s.freeAt n <<< 2
  { startUnit s (recordOf 0) (2 ^ 64 + n) 0 { core := 16384 + n, kind := .mgmt, slot := n % 4 } [startSlice pc 0 0 0 0 s.gtick.toNat] with
    winno := 1 }

/-- The settings of a loaded image (R6, R32, R364, R416), with the windows of its schedule that start now (R166); the four management cores of each die run from then on (R310). -/
def loadImage (s : State) (k : Fin 2) : State :=
  let b := s.images[k].body
  openWindows { s with
    loaded := some k, pkgstat := .running, rfsched := List.replicate 16 (schedWord b), rfForce := s.rfphase.map (fun p => (schedWord b, p))
    warnMark := b.warnMark, critMark := b.critMark, pkgId := b.pkg, units := (List.range 64).map (managementUnit s), nonce := s.nonce + 1 }

/-- RESET_RELEASE (R6): the newer sealed image is loaded, or the package holds in reset. Only a reset leaves the image unloaded. -/
def execResetRelease (s : State) : Ended :=
  .next (match s.loaded with
    | some _ => s
    | none => match chooseImage s.images[0] s.images[1] with
      | some k => { loadImage s k with defective := [] }
      | none => { s with pkgstat := .resetHold })

/-- An image in a slot, its seal matching. -/
def sealedSlot (seq : W32) (image : ImageBody) : ImageSlot := { seq := seq, crc := crc32c image.bytes, body := image }

/-- HOST_IMAGE_WRITE (R6). In reset-hold a new image fills a slot and is loaded at once; the spec gives its sequence number no value
there (DESIGN CHOICE, log entries 2 and 5). Afterwards firmware installs an image in the slot that was not loaded, its number one more
than the loaded slot's. -/
def execHostImageWrite (slot : Nat) (image : ImageBody) (s : State) : Ended :=
  let k : Fin 2 := Fin.ofNat 2 slot
  .next (if 2 ≤ slot then s
    else if s.pkgstat = .resetHold then
      let (x, s) := s.free
      loadImage { s with images := s.images.set k (sealedSlot (x.setWidth 32) image) } k
    else match s.loaded with
      | some l => if l = k then s else { s with images := s.images.set k (sealedSlot (s.images[l].seq + 1) image) }
      | none => s)

/-- In reset-hold the package takes nothing but an image (R6). -/
def accepting (s : State) : Bool := s.pkgstat != .resetHold

/-! ### Launch records (R245-R247) -/

/-- The reserved fields of a record are zero. -/
def recordReserved (x : Nat) : Bool :=
  field x 145 47 == 0 && field x 400 48 == 0 && field x 672 32 == 0 && field x 960 576 == 0

/-- An access of the distributor for a context (log entry 11). -/
def distRequester (ctx : Nat) (acc : Access) (op : AccessOp) : Requester :=
  { ctx := ctx, core := 0, levelS := false, access := acc, op := op, weight := false }

/-- Bytes that the distributor reads for a context; none where one of them does not translate, or for now where a weight store is in
its window. -/
def distRead (s : State) (ctx : Nat) (va : W64) (n : Nat) : Option (List Byte) :=
  (List.range n).foldr (fun i acc =>
    match acc, translate s (distRequester ctx .read .device) (va + BitVec.ofNat 64 i) with
    | some bs, .ok (pa, _) => if inRefresh s pa then none else some (s.mem.read pa :: bs)
    | _, _ => none) (some [])

/-- A member name that a launch can hold (R246); an engine's SLOT is 0. -/
def memberName (r : LaunchRec) (x : Nat) : Option MemberName :=
  let m : MemberName := { kind := field x 14 2, ord := field x 7 7, slot := field x 0 4 }
  if field x 4 3 = 0 ∧ m.kind ≠ 3 ∧ m.ord < r.cores ∧ (if m.kind = 0 then m.slot < r.gangs else m.slot = 0) then some m else none

/-- Every option's value, if each has one. -/
def allSome {α : Type} : List (Option α) → Option (List α)
  | [] => some []
  | none :: _ => none
  | some x :: xs => (allSome xs).map (fun ys => x :: ys)

/-- Names without repetition. -/
def distinct {α : Type} [BEq α] : List α → Bool
  | [] => true
  | x :: xs => !xs.contains x && distinct xs

/-- One entry of a table: its members, or none if it breaks R247. -/
def tableList (s : State) (ctx : Nat) (r : LaunchRec) (bs : List Byte) : Option (List MemberName) :=
  let x := fromLe bs
  let n := field x 64 16
  if field x 80 48 ≠ 0 ∨ 2304 < n then none
  else if n = 0 then some []
  else match distRead s ctx (BitVec.ofNat 64 (field x 0 64)) (2 * n) with
    | none => none
    | some ys =>
      match allSome ((List.range n).map (fun i => memberName r (fromLe (slice ys (2 * i) 2)))) with
      | some ms => if distinct ms then some ms else none
      | none => none

/-- A table of `n` entries, numbered from `base` on (R247). -/
def readTable (s : State) (ctx : Nat) (r : LaunchRec) (va : W64) (n base : Nat) : Option (List (Nat × List MemberName)) :=
  if va = 0 then some []
  else if va.toNat % 16 ≠ 0 then none
  else match distRead s ctx va (16 * n) with
    | none => none
    | some bs => allSome ((List.range n).map (fun i => (tableList s ctx r (slice bs (16 * i) 16)).map (fun ms => (base + i, ms))))

/-- No member is in more than four groups (R247). -/
def groupsOk (gs : List (Nat × List MemberName)) : Bool :=
  let all := gs.flatMap (fun g => g.2)
  all.all (fun m => (all.filter (fun x => x == m)).length ≤ 4)

/-- An entry of the static copy schedule (R229). -/
def scheduleEntry (bs : List Byte) : ScheduleEntry :=
  let x := fromLe bs
  { lrec := BitVec.ofNat 64 (field x 0 64), spad := BitVec.ofNat 64 (field x 64 64)
    origin := BitVec.ofNat 64 (field x 128 64), shape := BitVec.ofNat 16 (field x 192 16), st := field x 208 1 = 1
    ord := field x 209 7, reservedOk := field x 216 40 = 0 }

/-- The schedule, captured (R229). -/
def readSchedule (s : State) (ctx : Nat) (r : LaunchRec) : Option (List ScheduleEntry) :=
  if r.sched = 0 then some []
  else if r.sched.toNat % 32 ≠ 0 then none
  else match distRead s ctx r.sched (32 * r.nsched) with
    | none => none
    | some bs => some ((List.range r.nsched).map (fun i => scheduleEntry (slice bs (32 * i) 32)))

/-- A context's reference to an object that a launch may name: loaded and not retiring (R245, R331). -/
def loadedRef (s : State) (ctx : Nat) (code : W64) : Option (CodeRef × CodeObject) :=
  match s.refs.find? (fun x => x.ctx == ctx && x.handle == code && !x.retiring), s.objects.find? (fun o => o.handle == code) with
  | some r, some o => some (r, o)
  | _, _ => none

/-- The checks of a record's own fields, its context and its stacks (R245, R312, R400). -/
def recordOk (s : State) (ctx : Nat) (x : Nat) (o : CodeObject) : Bool :=
  let r := recordOf x
  (s.ctx ctx).live && recordReserved x && r.entry.toNat % 4 == 0 && decide (r.entry.toNat < o.size)
    && r.nteam != 0 && !(r.nsched != 0 && r.sched == 0) && r.logb.toNat % 4096 == 0 && registerForm 0x31 (r.logp.setWidth 64)
    && decide (o.spad.length + r.gangs * r.slices * o.stack ≤ Config.frameBase)

/-- Healthy cores of a cluster (R7). -/
def healthyCores (s : State) (cl : Nat) : List Nat :=
  ((List.range 128).map (fun i => cl * 128 + i)).filter (fun c => !s.defective.contains c)

/-- The cores that one set of a launch needs (R250). -/
def setCores (r : LaunchRec) : Nat := min r.set r.nteam * r.cores

/-- Whether some cluster of the launch's pool can hold its sets (R250). -/
def placeable (s : State) (r : LaunchRec) : Bool :=
  r.set * r.cores ≤ 128
    && (List.range 128).any (fun cl => s.pools.getD cl 1 == r.cls && decide (setCores r ≤ (healthyCores s cl).length))

/-- What a record's acceptance comes to: a status that completes it at once, or the launch (R245). A context with a broken entry has none
(R312). -/
def examineLaunch (s : State) (q ctx : Nat) (seq : W32) (x : Nat) : Except Byte Launch :=
  let r := recordOf x
  if !(s.ctx ctx).formOk then .error 2
  else match loadedRef s ctx r.code with
  | none => .error 1
  | some (_, o) =>
    if !recordOk s ctx x o then .error 2
    else match readTable s ctx r r.roles 7 1, readTable s ctx r r.groups 256 0, readSchedule s ctx r with
      | some roles, some groups, some sched =>
        if !groupsOk groups then .error 2
        else if !placeable s r then .error 3
        else .ok
          { id := s.nextId, queue := q, ctx := ctx, record := r, seq := seq, status := 0, gateOk := r.gate == 0, placed := 0
            round := 0, tstart := 0, headSince := s.gtick.toNat, blocking := false, groups := groups, roles := roles
            sched := sched, weights := [] }
      | _, _, _ => .error 2

/-! ### Completion records (R410) -/

/-- The bytes of a completion record. -/
def completionBytes (q : Nat) (seq : W32) (status : Byte) (tstart tend : W64) : List Byte :=
  leBytes seq.toNat 4 ++ [BitVec.ofNat 8 (q % 64), status, 0, 0] ++ leBytes tstart.toNat 8 ++ leBytes tend.toNat 8
    ++ List.replicate 8 0

/-- Room in a queue's completion ring. -/
def Queue.completes (d : Queue) : Bool := (d.cwptr - d.crptr).toNat < d.ncomp.toNat

/-- The record published, CWPTR advanced, and MSI-X vector q raised where IRQ asks for it (R408). -/
def writeCompletion (s : State) (q : Nat) (seq : W32) (status : Byte) (tstart : W64) : State :=
  let d := s.queue q
  let s := publishParts s device (d.cbase.toNat + d.cwptr.toNat % d.ncomp.toNat * 32) (completionBytes q seq status tstart s.gtick)
  { s.setQueue q { d with cwptr := d.cwptr + 1 } with msix := if d.irq then s.msix ++ [q] else s.msix }

/-! ### Acceptance (R248, R409) -/

/-- A launch with teams still to be placed. -/
def Launch.waiting (l : Launch) : Bool := (l.status == 0 || l.status == 4) && l.placed < l.record.nteam

/-- Dispatch goes on (R6, R364). -/
def dispatching (s : State) : Bool := s.pkgstat == .running && s.loaded.isSome && s.critical.isNone

/-- A queue whose head record can be accepted. -/
def canAccept (s : State) (q : Nat) : Bool :=
  let d := s.queue q
  dispatching s && d.serves && d.wptr != d.rptr && d.completes && !s.launches.any (fun l => l.queue == q && l.waiting)

/-- Whether two examinations come to the same. -/
def sameVerdict : Except Byte Launch → Except Byte Launch → Bool
  | .ok a, .ok b => a == b
  | .error a, .error b => a == b
  | _, _ => false

/-- LAUNCH_ACCEPT (R245, R248, R409): the record at RPTR is read once. A launch that fails a check completes at once. Tables in a weight
store are read once its refresh window has ended (R166). -/
def execLaunchAccept (queue : Nat) (s : State) : Ended :=
  .next (if queue < 64 ∧ canAccept s queue then
      let d := s.queue queue
      let ctx := if d.dev then ((d.askers.find? (fun a => a.1 == d.rptr)).map (fun a => a.2)).getD d.ctx.toNat else d.ctx.toNat
      let x := fromLe (deviceBytes s (d.slotPa d.rptr) 192)
      let s' := s.setQueue queue { d with rptr := d.rptr + 1, askers := d.askers.filter (fun a => a.1 != d.rptr) }
      let verdict := examineLaunch s' queue ctx d.rptr x
      if !sameVerdict verdict (examineLaunch { s' with refresh := [] } queue ctx d.rptr x) then s
      else match verdict with
        | .error st => writeCompletion s' queue d.rptr st 0
        | .ok l => { s' with launches := s'.launches ++ [l], nextId := s'.nextId + 1 }
    else s)

/-- DOORBELL (R409): n joins WPTR, or is dropped and counted; a queue fed by LAUNCH takes none (R408). -/
def execDoorbell (queue : Nat) (n : W32) (s : State) : Ended :=
  .next (if queue < 64 ∧ accepting s then
      let d := s.queue queue
      if d.dev || decide (d.nslot.toNat < d.used + n.toNat) then
        s.setQueue queue { d with dropdb := if d.dropdb = 0xFFFFFFFF then d.dropdb else d.dropdb + 1 }
      else s.setQueue queue { d with wptr := d.wptr + n }
    else s)

/-! ### Gates (R249) -/

/-- The value of a launch's gate word; a weight store in its window is read later (R166). -/
def gateWord (s : State) (l : Launch) : Option Nat :=
  match translate s (distRequester l.ctx .read .device) l.record.gate with
  | .ok (pa, _) => if inRefresh s pa then none else some (fromLe (s.mem.readBytes pa 8))
  | .error _ => none

def gateHolds (s : State) (l : Launch) : Bool :=
  match gateWord s l with | some v => decide (l.record.gateval.toNat ≤ v) | none => false

/-- GATE_SATISFIED (R249). -/
def execGateSatisfied (launch : Nat) (s : State) : Ended :=
  .next (match s.launch? launch with
    | some l => if !l.gateOk && gateHolds s l then s.setLaunch { l with gateOk := true, headSince := s.gtick.toNat } else s
    | none => s)

/-! ### Placement (R250, R251, R260) -/

/-- The effective priority of a launch (R248). -/
def effectivePrio (s : State) (l : Launch) : Nat := min l.record.prio (s.queue l.queue).ceil.toNat

/-- A core without a team, in a state of the context's or none (R24, R324). -/
def coreFree (s : State) (c : Nat) : Bool := !s.teams.any (fun t => t.cores.contains c)
def coreClean (s : State) (ctx c : Nat) : Bool := match (s.coreAt c).lastCtx with | some k => k == ctx | none => true
def corePowered (s : State) (c : Nat) : Bool := (s.coreAt c).power == .on

/-- Whether the page tables below a frame map the weight store of a die (R166). -/
def tableMaps (s : State) (lo hi : Nat) : List Nat → Nat → Bool
  | [], _ => false
  | l :: ls, frame =>
    (List.range (if l = 4 then 256 else 512)).any (fun i =>
      let e := tableEntry s.mem frame i
      if e % 2 = 0 then false
      else if field e 52 1 = 0 then tableMaps s lo hi ls (field e 12 40 * 4096)
      else decide (lo ≤ field e 12 40 * 4096 ∧ field e 12 40 * 4096 < hi))

/-- Whether a resident launch's context maps the weight store of a die. -/
def weightMapped (s : State) (die : Nat) : Bool :=
  let lo := 0x10000000000 + die * 2 ^ 30
  s.teams.any (fun t => tableMaps s lo (lo + 2 ^ 30) [4, 3, 2, 1, 0] ((s.ctx t.ctx).root * 4096)
    || s.tlb.any (fun e => e.2.ctx == t.ctx && decide (lo ≤ e.2.frame ∧ e.2.frame < lo + 2 ^ 30)))

/-- The footprints of the next set of a launch in a cluster: free clean cores, powered ones if they suffice. -/
def footprintIn (s : State) (l : Launch) (cl : Nat) (powered : Bool) : Option (List (List Nat)) :=
  let n := min l.record.set (l.record.nteam - l.placed)
  let ok (c : Nat) : Bool := coreFree s c && coreClean s l.ctx c && (!powered || corePowered s c)
  let free := (healthyCores s cl).filter ok
  if s.pools.getD cl 1 != l.record.cls || (l.record.wload && weightMapped s (cl / 8)) then none
  else if free.length < n * l.record.cores then none
  else some ((List.range n).map (fun i => (free.drop (i * l.record.cores)).take l.record.cores))

/-- The footprints of the next set: powered cores before gating or gated ones, lowest cluster first. -/
def findFootprint (s : State) (l : Launch) : Option (List (List Nat)) :=
  match (List.range 128).findSome? (fun cl => footprintIn s l cl true) with
  | some f => some f
  | none => (List.range 128).findSome? (fun cl => footprintIn s l cl false)

/-- The unit that a member name stands for in a footprint. -/
def unitOf (cores : List Nat) (m : MemberName) : UnitId :=
  { core := cores.getD m.ord 0, kind := if m.kind = 0 then .gang else if m.kind = 1 then .sluice else .harrow
    slot := if m.kind = 0 then m.slot else 0 }

/-- A team as placed: roles and groups bound to units (R247). -/
def newTeam (l : Launch) (id index : Nat) (cores : List Nat) : Team :=
  { id := id, launch := l.id, index := index, ctx := l.ctx, set := index / l.record.set, cores := cores, started := false
    roles := l.roles.map (fun e => (e.1, e.2.map (unitOf cores)))
    groups := l.groups.map (fun e => { num := e.1, members := e.2.map (unitOf cores), gen := 0, arrived := [] })
    hand := [], cursor := 0, softBudget := none, stopping := false, held := false, ended := false }

/-- The power of a core at which a dispatch arrives (R260): an open window aborts, a gated core powers up. -/
def powerUp (now : Nat) : Power → Power
  | .on => .on
  | .window start => if now < start + 64 then .on else .rising (now + 1200)
  | .off => .rising (now + 1200)
  | .rising r => .rising r

/-- A set placed. -/
def placeSet (s : State) (l : Launch) (fs : List (List Nat)) : State :=
  let teams := fs.mapIdx (fun i cores => newTeam l (s.nextId + i) (l.placed + i) cores)
  let s := fs.flatten.foldl (fun s c =>
    let k := s.coreAt c
    s.setCore { k with power := powerUp s.gtick.toNat k.power }) s
  let s := { s with teams := s.teams ++ teams, nextId := s.nextId + fs.length, turn := (l.queue + 1) % 64 }
  s.setLaunch { l with placed := l.placed + fs.length, blocking := false, headSince := s.gtick.toNat }

/-- A head that its gate lets through. -/
def isHead (l : Launch) : Bool := l.gateOk && l.waiting

/-! ### Sets that S holds, and saved teams that wait for room (R252, R266, R351, R366) -/

/-- The units of a co-scheduled set, those of its saved teams too. -/
def setUnits (s : State) (launch set : Nat) : List Unit :=
  (s.teams.filter (fun t => t.launch == launch && t.set == set)).flatMap (fun t => s.units.filter (fun u => u.team == t.id))
    ++ (s.saved.filter (fun x => x.team.launch == launch && x.team.set == set)).flatMap (fun x => x.units)

/-- A unit at a class 4 or 14 of its own that S has not ended. -/
def Unit.fatal (u : Unit) : Bool := match u.halt with | .trapped c => c % 16 == 4 || c % 16 == 14 | _ => false

/-- Whether a set is halted until S acts (R366). -/
def setHeld (s : State) (launch set : Nat) : Bool := (setUnits s launch set).any Unit.fatal

/-- Numbers strictly rising. -/
def rising : List Nat → Bool
  | a :: b :: xs => a < b && rising (b :: xs)
  | _ => true

/-- Whether cores can take a saved team: a footprint of its shape in its pool, in the order of ordinals (R33, R250, R351), clear of a
weight store that its launch loads (R166); its set not held (R366). -/
def takes (s : State) (x : SavedTeam) (l : Launch) (new : List Nat) : Bool :=
  let cl := clusterOf (new.headD 0)
  dispatching s && new.length == x.team.cores.length && rising new && s.pools.getD cl 1 == l.record.cls
    && new.all (fun c => (healthyCores s cl).contains c && coreFree s c && coreClean s x.team.ctx c)
    && !(l.record.wload && weightMapped s (cl / 8)) && !setHeld s x.team.launch x.team.set

/-- The footprints on which a saved team is tried: its own cores, or the first of its shape in a cluster, on powered cores where `powered`. -/
def footprintsFor (s : State) (x : SavedTeam) (l : Launch) (powered : Bool) : List (List Nat) :=
  let ok (c : Nat) : Bool := coreFree s c && coreClean s x.team.ctx c && (!powered || corePowered s c)
  (x.team.cores :: (List.range 128).map (fun cl => ((healthyCores s cl).filter ok).take x.team.cores.length)).filter (fun f =>
    takes s x l f && (!powered || f.all (corePowered s)))

/-- The footprint that a swapped team returns to: one of powered cores before one with gating or gated cores (R252, R260). -/
def footprintFor (s : State) (x : SavedTeam) : Option (List Nat) :=
  match s.launch? x.team.launch with
  | none => none
  | some l => (footprintsFor s x l true ++ footprintsFor s x l false).head?

/-- Whether a team on a swapped team's way back takes cores as R260 has it: powered ones where a powered footprint fits. -/
def powerOrder (s : State) (x : SavedTeam) (l : Launch) (cores : List Nat) : Bool :=
  cores.all (corePowered s) || (footprintsFor s x l true).isEmpty

/-- A head that has waited its millisecond for room (R251). -/
def Launch.overdue (s : State) (h : Launch) : Bool := h.blocking || decide (h.headSince + 600000 ≤ s.gtick.toNat)

/-- Whether a head of a higher priority in the pool has fitted or waited long enough to go before a launch (R251). -/
def goesBefore (s : State) (l h : Launch) : Bool :=
  isHead h && h.id != l.id && h.record.cls == l.record.cls && decide (effectivePrio s l < effectivePrio s h)

/-- Whether a swapped team may return (R251, R252, R266): its launch's own teams are all placed, which is what it made room for, and no
head of a higher priority in its pool fits or has waited its millisecond. -/
def restoreAllowed (s : State) (k : Launch) : Bool :=
  !k.waiting && !s.launches.any (fun h => goesBefore s k h && (h.overdue s || (findFootprint s h).isSome))

/-- A swapped team that fits stands before the heads of its priority and of lower ones in its pool (R266). -/
def swappedFirst (s : State) (l : Launch) : Bool :=
  s.saved.any (fun x => x.swapped && (match s.launch? x.team.launch with
    | some k => k.record.cls == l.record.cls && decide (effectivePrio s l ≤ effectivePrio s k) && !k.waiting && (footprintFor s x).isSome
    | none => false))

/-- Such a head holds back lower priorities of its pool (R251). -/
def heldBack (s : State) (l : Launch) : Bool := s.launches.any (fun h => goesBefore s l h && h.overdue s) || swappedFirst s l

/-- The heads of one priority, round-robin from the queue whose turn it is. -/
def headsAt (s : State) (p : Nat) : List Launch :=
  (List.range 64).flatMap (fun i => s.launches.filter (fun l =>
    isHead l && l.queue == (s.turn + i) % 64 && effectivePrio s l == p))

/-- The head that a placement step places, with its footprints. -/
def placementChoice (s : State) : Option (Launch × List (List Nat)) :=
  if !dispatching s then none
  else [7, 6, 5, 4, 3, 2, 1, 0].findSome? (fun p => (headsAt s p).findSome? (fun l =>
    if heldBack s l then none else (findFootprint s l).map (fun f => (l, f))))

/-- A head that no cluster can hold any longer completes as unplaceable (R7, R250). -/
def dropUnplaceable (s : State) : State :=
  { s with launches := s.launches.map (fun l => if isHead l && l.placed == 0 && !placeable s l.record then { l with status := 3 } else l) }

/-- PLACEMENT_STEP (R251): the first head that fits, in order of effective priority. -/
def execPlacementStep (s : State) : Ended :=
  .next (match placementChoice s with
    | some (l, fs) => placeSet s l fs
    | none => dropUnplaceable s)

/-- HEAD_WAIT_EXPIRY (R251): a head has waited 600,000 ticks for room. -/
def execHeadWaitExpiry (queue : Nat) (s : State) : Ended :=
  .next { s with launches := s.launches.map (fun l =>
    if l.queue == queue && isHead l && decide (l.headSince + 600000 ≤ s.gtick.toNat) then { l with blocking := true } else l) }

/-! ### Team start (R35, R36, R325, R352, R353, R399, R400) -/

/-- The gang in a slot of a core (R35, R400). -/
def startGang (s : State) (l : Launch) (t : Team) (r : CodeRef) (o : CodeObject) (core slot : Nat) : Unit :=
  let entry := r.textVa + l.record.entry.setWidth 64
  let top (j : Nat) : W64 := r.spadVa + BitVec.ofNat 64 (Config.frameBase - (slot * l.record.slices + j) * o.stack)
  startUnit s l.record t.id t.ctx { core := core, kind := .gang, slot := slot } ((List.range l.record.slices).map (fun j =>
    startSlice entry l.record.args (s.ctx t.ctx).linkb (top j) j s.gtick.toNat))

/-- The engine members that a launch's tables name (R153, R243). -/
def engineNames (t : Team) : List UnitId :=
  let all := t.roles.flatMap (fun e => e.2) ++ t.groups.flatMap (fun g => g.members)
  all.foldl (fun ids m => if m.kind == .gang || ids.contains m then ids else ids ++ [m]) []

/-- An engine member at team start (log entry 7). -/
def startMember (s : State) (l : Launch) (t : Team) (r : CodeRef) (id : UnitId) : Unit :=
  let entry := r.textVa + l.record.entry.setWidth 64
  startUnit s l.record t.id t.ctx id ((List.range (if id.kind = .sluice then 8 else 1)).map (fun j => startSlice entry 0 0 0 j s.gtick.toNat))

/-- A core taken over by a team: tile control zero, registers full, the SPAD image in place. -/
def startCore (s : State) (t : Team) (r : CodeRef) (c : Nat) : State :=
  let k := s.coreAt c
  let s := s.setCore { k with tctl := Vector.replicate 8 0, tFull := 0xFF, aFull := 0xF, lastCtx := some t.ctx }
  clearPoison { s with mem := s.mem.writeBytes (scratchPa c 0) r.spad } (scratchPa c 0) r.spad.length

/-- The header of a ring that no other resident gang of the context uses becomes zero (R352). -/
def freshRing (s : State) (u : Unit) : State :=
  if s.units.any (fun x => x.ctx == u.ctx && x.id != u.id && x.id.kind == .gang && !x.exited && x.logbase == u.logbase) then s
  else match ringHeader s u.ctx u.id.core u.logbase with
    | some pa => setRingLost (publishAt s (logWriter u.id.core) pa (List.replicate 16 0)) u.ctx u.logbase false
    | none => meetUntraced s u.ctx u.id.core u.logbase

/-- A gang joins: its ring, then window 1 with its checkpoint (R352, R353). -/
def joinGang (s : State) (u : Unit) : State :=
  let s := freshRing s u
  let entry := match u.slices with | t :: _ => t.pc | [] => 0
  let (s, u) := takeCheckpoint s { u with winno := 1 } 4 entry allLive allLive
  { s with units := s.units ++ [u] }

/-- The members of a team at its start, over the memory that its team-start PHASE finds. -/
def joinTeam (s : State) (l : Launch) (t : Team) (r : CodeRef) (o : CodeObject) : State :=
  let gangs := t.cores.flatMap (fun c => (List.range l.record.gangs).map (fun g => startGang s l t r o c g))
  let s := gangs.foldl joinGang s
  let members := (engineNames t).map (fun id => { startMember s l t r id with winno := 1 })
  { s with units := s.units ++ members }

/-- Whether a placed team can start: its cores powered, its set not held (R366). -/
def canStart (s : State) (t : Team) : Bool :=
  !t.started && !t.ended && dispatching s && t.cores.all (corePowered s) && !setHeld s t.launch t.set

/-- The object that a launch runs, retiring or not. -/
def launchRef (s : State) (l : Launch) : Option (CodeRef × CodeObject) :=
  match s.refs.find? (fun x => x.ctx == l.ctx && x.handle == l.record.code), s.objects.find? (fun o => o.handle == l.record.code) with
  | some r, some o => some (r, o)
  | _, _ => none

/-- TEAM_START. -/
def execTeamStart (team : Nat) (s : State) : Ended :=
  .next (match s.team? team with
    | none => s
    | some t =>
      match s.launch? t.launch with
      | none => s
      | some l =>
        match launchRef s l with
        | none => s
        | some (r, o) =>
          if canStart s t then
            let s := t.cores.foldl (fun s c => startCore s t r c) s
            let first := l.tstart == 0 && !s.teams.any (fun x => x.launch == l.id && x.started)
            let s := s.setLaunch { l with tstart := if first then s.gtick else l.tstart }
            let s := s.setCtx t.ctx { s.ctx t.ctx with trcbase := l.record.trcb }
            joinTeam (s.setTeam { t with started := true }) l t r o
          else s)

/-! ### Rounds (R268) -/

/-- A member that has arrived at the round: every slice that runs waits at WBAR, or it has exited. -/
def atRound (u : Unit) : Bool :=
  u.exited || u.slices.all (fun t => !t.alive || (match t.run with | .parked .wbar _ _ => true | _ => false))

/-- A team that has arrived. -/
def teamArrived (s : State) (t : Team) : Bool :=
  t.ended || (t.started && (s.units.filter (fun u => u.team == t.id)).all atRound)

/-- Whether a launch's round can be released: every team placed, none swapped out, all arrived, and one of them waiting. -/
def roundOver (s : State) (l : Launch) : Bool :=
  l.placed == l.record.nteam && !s.saved.any (fun x => x.team.launch == l.id)
    && (s.teams.filter (fun t => t.launch == l.id)).all (teamArrived s)
    && s.teams.any (fun t => t.launch == l.id && !t.ended)

/-- A gang behind a WBAR: the PHASE after the barrier (R183), the boundary, and on. -/
def leaveRound (s : State) (u : Unit) : State :=
  let js := (u.slices.filter Slice.alive).map (fun t => t.idx)
  let pc := match u.pick js with | t :: _ => t.pc | [] => 0
  if u.exited then s
  else if u.id.kind = .gang then
    let (s, u) := doPhase s u pc
    let (s, u) := boundary s (u.release js) pc true
    s.setUnit u
  else s.setUnit (u.release js)

/-- ROUND_RELEASE. -/
def execRoundRelease (launch : Nat) (s : State) : Ended :=
  .next (match s.launch? launch with
    | none => s
    | some l =>
      if roundOver s l then
        let ids := (s.units.filter (fun u => s.teams.any (fun t => t.launch == l.id && t.id == u.team))).map (fun u => u.id)
        let s := ids.foldl (fun s id => match s.unit? id with | some u => leaveRound s u | none => s) s
        s.setLaunch { l with round := l.round + 1 }
      else s)

/-! ### Endings (R365, R410) -/

/-- Whether a store or an atomic of any unit is still on its way to a scratchpad of cores: another's late one must not land there (R309,
R325). -/
def aimedAt (s : State) (cores : List Nat) (unit : Unit → Bool) : Bool :=
  s.units.any (fun u => unit u && (u.direct.any (fun d => cores.contains d.dest)
    || u.atomics.any (fun a => match scratchCore a.pa with | some c => cores.contains c | none => false)))

/-- Whether commands of a team's set, those of its saved teams too, or work of its own members, may still reach its cores, or a store or an
atomic of anyone. -/
def footprintBusy (s : State) (t : Team) : Bool :=
  let inSet (id : UnitId) : Bool := s.units.any (fun u => u.id == id && (setTeams s t.id).contains u.team)
  s.cores.any (fun c => c.sluice.any (fun k => inSet k.unit) || c.harrow.any (fun k => inSet k.unit))
    || s.saved.any (fun x => x.team.launch == t.launch && x.team.set == t.set && x.cores.any (fun c => !c.1.sluice.isEmpty))
    || s.units.any (fun u => u.team == t.id && !(u.direct.isEmpty && u.atomics.isEmpty))
    || aimedAt s t.cores (fun _ => true)

/-- The entries of a team that its cores' slices still hold. -/
def unspilledOf (s : State) (team : Nat) : List LogEntry := s.log.filter (fun e => e.team == team && e.spilled == none)

/-- The log entries of a team spilled, as far as its rings take them by their policy (R350, R355). -/
def spillTeam (s : State) (team : Nat) : State := spillAll s (unspilledOf s team)

/-- Whether entries of a team wait for their ring (R322, R333, R355). -/
def spillingTeam (s : State) (team : Nat) : Bool := outWaits s (unspilledOf s team)

/-- The log entries of a team that has ended and left its slices go (R355). -/
def settleLog (s : State) (team : Nat) : State := { s with log := s.log.filter (fun e => e.team != team) }

/-- A core's scratchpad and state cleared (R324): entries of the old context go to its log region, or as its policy has it; windows whose
entries find no place there are lost whole. -/
def clearCore (s : State) (core : Nat) : State :=
  let s := spillAll s (unspilled s core)
  let s := discardWindows s (unspilled s core)
  let lo := scratchPa core 0
  let s := clearPoison { s with mem := s.mem.clear lo (lo + Config.scratchBytes) } lo Config.scratchBytes
  s.setCore { Core.blank core with power := (s.coreAt core).power }

/-- FOOTPRINT_RELEASE (R365), not of a set that S holds (R366), and once its log entries have left the slices: where a page of their region is
not present, it waits for it (R322); the cores of a context torn down are cleared, and its log waits for nothing (log entry 21). -/
def execFootprintRelease (team : Nat) (s : State) : Ended :=
  .next (match s.team? team with
    | none => s
    | some t =>
      if t.ended && !footprintBusy s t && !setHeld s t.launch t.set then
        let s := spillTeam s team
        let lost := match s.launch? t.launch with | some l => l.status == 6 | none => false
        if !lost && spillingTeam s team then s else
        let s := settleLog s team
        let s := { s with
          units := s.units.filter (fun u => u.team != team), teams := s.teams.filter (fun x => x.id != team)
          monitors := s.monitors.filter (fun m => !s.units.any (fun u => u.team == team && u.id == m.unit)) }
        if lost then t.cores.foldl clearCore s else s
      else s)

/-- A launch that is over: all its teams, or a status that ended it, and no peer operation outstanding (R186). -/
def launchOver (s : State) (l : Launch) : Bool :=
  !l.waiting && !s.teams.any (fun t => t.launch == l.id) && !s.saved.any (fun x => x.team.launch == l.id)
    && !s.peerOps.any (fun p => p.launch == l.id)

/-- The DONE counter increased, once (R249): an atomic at the word's performing point. A launch that failed its checks adds
nothing (R245). -/
def addDone (s : State) (l : Launch) : State :=
  if l.record.done = 0 ∨ l.status = 1 ∨ l.status = 2 ∨ l.status = 3 then s
  else match translate s (distRequester l.ctx .write (.atomic 0 0)) l.record.done with
    | .error _ => s
    | .ok (pa, a) =>
      let bs := leBytes (fromLe (s.mem.readBytes pa 8) + 1) 8
      if isDirect a then performAt s pa bs else publishAt s device pa bs

/-- LAUNCH_COMPLETE (R166, R249, R410): held weights are published, DONE goes up, the record is written. -/
def execLaunchComplete (launch : Nat) (s : State) : Ended :=
  .next (match s.launch? launch with
    | none => s
    | some l =>
      if launchOver s l && (s.queue l.queue).completes then
        let s := publishOverlay s device l.weights
        let s := writeCompletion (addDone s l) l.queue l.seq l.status l.tstart
        { s with launches := s.launches.filter (fun x => x.id != l.id) }
      else s)

/-! ### Clearing a core (R324) -/

/-- CORE_CLEAR: before a core passes to another context, once its log entries have left it (R322, R324). -/
def execCoreClear (core ctx : Nat) (s : State) : Ended :=
  .next (if coreFree s core && !coreClean s ctx core then
      let s' := spillAll s (unspilled s core)
      if outWaits s' (unspilled s' core) then s' else clearCore s' core
    else s)

end Sys2Proof.Machine
end

