-- ==== Sys2Proof/Decode.lean ====
section
/-! DEFINITION. From instruction words to instructions and back (04_encoding R40-R54). -/

namespace Sys2Proof

/-! ### Fields of the words -/

def TCode.ofBits (b : BitVec 4) : TCode :=
  match b.toNat with
  | 0 => .dflt | 1 => .f32 | 2 => .f16 | 3 => .bf16 | 4 => .f64 | 5 => .i32 | 6 => .n32 | 7 => .i16
  | 8 => .n16 | 9 => .i8 | 10 => .n8 | 11 => .i64 | 12 => .n64 | 13 => .e4m3 | 14 => .e5m2 | _ => .e2m1

def TCode.toBits : TCode → BitVec 4
  | .dflt => 0 | .f32 => 1 | .f16 => 2 | .bf16 => 3 | .f64 => 4 | .i32 => 5 | .n32 => 6 | .i16 => 7
  | .n16 => 8 | .i8 => 9 | .n8 => 10 | .i64 => 11 | .n64 => 12 | .e4m3 => 13 | .e5m2 => 14 | .e2m1 => 15

def RmCode.ofBits (b : BitVec 3) : RmCode :=
  match b.toNat with
  | 0 => .dyn | 1 => .rne | 2 => .rtz | 3 => .rup | 4 => .rdn | 5 => .rna | 6 => .sr | _ => .reserved

def RmCode.toBits : RmCode → BitVec 3
  | .dyn => 0 | .rne => 1 | .rtz => 2 | .rup => 3 | .rdn => 4 | .rna => 5 | .sr => 6 | .reserved => 7

namespace Decode

/-- Bits `[lo+n-1 : lo]` of a word. -/
def bits (w : W32) (lo n : Nat) : BitVec n := w.extractLsb' lo n
def roleOf (w0 : W32) : BitVec 3 := bits w0 29 3
def hintOf (w0 : W32) : Bool := w0.getLsbD 28
def majorOf (w0 : W32) : BitVec 7 := bits w0 21 7
def longOf (w0 : W32) : Bool := w0.getLsbD 0
def secOf (w1 : W32) : BitVec 8 := bits w1 8 8
def xhOf (w1 : W32) : BitVec 4 := bits w1 4 4

/-- Format W with a numeric long word (R41, R43); a short form's long word is zero (R47). -/
def wArgs (w0 w1 : W32) : WArgs :=
  { d := bits w0 15 6, a := bits w0 9 6, b := bits w0 3 6, fa := w0.getLsbD 2, fb := w0.getLsbD 1
    imm := bits w1 16 16, sec := secOf w1, xf := bits w1 0 4 }
/-- Format W with a packed long word (R43). -/
def pArgs (w0 w1 : W32) : PArgs :=
  { d := bits w0 15 6, a := bits w0 9 6, b := bits w0 3 6, fa := w0.getLsbD 2, fb := w0.getLsbD 1
    t := .ofBits (bits w1 28 4), rm := .ofBits (bits w1 25 3), s := w1.getLsbD 24, c := bits w1 18 6
    x := bits w1 16 2, sec := secOf w1, xf := bits w1 0 4 }
/-- Format I (R41, R47): the short form's immediate is sext(imm8). -/
def iArgs (long : Bool) (w0 w1 : W32) : IArgs :=
  { d := bits w0 15 6, a := bits w0 9 6
    imm := if long then bits w1 16 16 else (bits w0 1 8).signExtend 16
    sec := secOf w1, xf := bits w1 0 4 }
/-- Format J (R42). -/
def jArgs (long : Bool) (w0 w1 : W32) : JArgs :=
  { off := if long then bits w1 16 16 ++ bits w0 1 20 else (bits w0 1 20).signExtend 36 }

/-- The format of a row of the maps, with the row's instruction. -/
inductive Shape where
  | w (f : WArgs → Instr)
  | p (f : PArgs → Instr)
  | i (f : IArgs → Instr)
  | j (f : JArgs → Instr)

/-! The rows of the two maps, sixteen to a definition. -/
def majors0 : List Shape :=
  [.w .sadd,
   .w .ssub,
   .w .smul,
   .w .smulh,
   .w .sdiv,
   .w .srem,
   .w .sand,
   .w .sor,
   .w .sxor,
   .w .sshl,
   .w .sshr,
   .w .ssra,
   .w .smin,
   .w .smax,
   .w .sset,
   .i (fun o => if o.sec.getLsbD 2 then .sliIns o else .sli o)]
def majors1 : List Shape :=
  [.p .vadd,
   .p .vsub,
   .p .vmul,
   .p .vmulh,
   .p .vmad,
   .p .vand,
   .p .vor,
   .p .vxor,
   .p .vshl,
   .p .vshr,
   .p .vsra,
   .p .vmin,
   .p .vmax,
   .p .vabs,
   .p .vclz,
   .p .vpopc]
def majors2 : List Shape :=
  [.p .vcmp,
   .p .vsel,
   .p .fadd,
   .p .fsub,
   .p .fmul,
   .p .ffma,
   .p .fmin,
   .p .fmax,
   .p .fsgn,
   .p .fcmp,
   .p .fclass,
   .p .fscale,
   .p .frint,
   .p .fcvt,
   .p .fcvti,
   .p .icvtf]
def majors3 : List Shape :=
  [.p .bfpack,
   .p .frcp,
   .p .frsq,
   .p .fsqrt,
   .p .fexp2,
   .p .flog2,
   .p .fsin,
   .p .fcos,
   .p .ftanh,
   .p .fsigm,
   .p .ferf,
   .p .vshuf,
   .p .vbcast,
   .p .vred,
   .p .vscan,
   .p .vconf]
def majors4 : List Shape :=
  [.p .vcomb,
   .p .vcmprs,
   .p .vexpnd,
   .w (fun o => if o.sec.getLsbD 0 then .vmovStream o else .vmov o),
   .w .vsplat,
   .w .vextr,
   .w .vlane,
   .p .xv,
   .w .xpush,
   .w .xpop,
   .w .xpeek,
   .w .xdepth,
   .w .xclr,
   .w .tcfg,
   .w .tld,
   .w .tst]
def majors5 : List Shape :=
  [.w .tzero,
   .w .mma,
   .w .mloop,
   .w (fun o => if o.xf.getLsbD 0 then .mspanSelf o else .mspan o),
   .w (fun o => if (o.sec >>> 1) == 0 then .tbitsNone o else if (o.sec >>> 1) == 1 then .tbitsSeed o else .tbitsTile o),
   .w .tout,
   .i .sld,
   .i .sst,
   .i .vld,
   .i .vst,
   .w .vldg,
   .w .vstg,
   .w .vatom,
   .w .satom,
   .w .gatom,
   .w .phase]
def majors6 : List Shape :=
  [.w .fence,
   .i .waitc,
   .w .mwait,
   .w .pst,
   .w .patom,
   .i .pref,
   .w (fun o => if o.sec.getLsbD 0 then .cpSt o else .cpLd o),
   .w .cpx,
   .w .cps,
   .w .cpred,
   .w .cpconv,
   .w .cpstage,
   .w .chwait,
   .w .chrel,
   .w .rowbar,
   .w .moedisp]
def majors7 : List Shape :=
  [.w .kst,
   .w .qsig,
   .w .bgather,
   .j .br,
   .i .brc,
   .i .brv,
   .w .join,
   .i .loopb,
   .i .brk,
   .j .loope,
   .j .call,
   .w .calli,
   .w .ret,
   .w .exit,
   .w .nop]
/-- The primary map (R48): entry m is MAJOR m. -/
def majors : List Shape :=
  majors0 ++ majors1 ++ majors2 ++ majors3 ++ majors4 ++ majors5 ++ majors6 ++ majors7

def secondaries0 : List Shape :=
  [.w .brw,
   .w .wbind,
   .w .regang,
   .w .hand,
   .w .bara,
   .w .barw,
   .w .wbar,
   .w .tickw,
   .w .setpl,
   .w .launch,
   .w .kand,
   .w .kor,
   .w .kxor,
   .w .knot,
   .w .kmov,
   .w .kpop]
def secondaries1 : List Shape :=
  [.p .fdiv,
   .p .vdiv,
   .w (fun o => if o.xf.getLsbD 0 then .sysrCtx o else .sysr o),
   .w (fun o => if o.xf.getLsbD 0 then .syswCtx o else .sysw o),
   .w (fun o => if o.imm == 0 then .tlbinvPage o else if o.imm == 1 then .tlbinvCtx o else .tlbinvAll o),
   .w .ecall,
   .w .flushw,
   .w .trap,
   .w (fun o => if o.imm == 0 then .tretNext o else if o.imm == 1 then .tretReplay o else .tretReex o),
   .w (fun o => if (o.imm >>> 4) == 0 then .laneinfo o else if (o.imm >>> 4) == 1 then .laneinfoV o else .laneinfoClr o),
   .w .vrdn,
   .w .vwrn,
   .w (fun o => if o.imm.getLsbD 0 then .wmarkDrop o else .wmark o),
   .w (fun o => if o.imm.getLsbD 0 then .undoTeam o else .undo o),
   .w .tbegin,
   .w .tcommit]
def secondaries2 : List Shape :=
  [.w .tabort,
   .w .brkpt,
   .w .rgne,
   .w .rgnl]
/-- The escape page (R50): entry c is SEC c. -/
def secondaries : List Shape :=
  secondaries0 ++ secondaries1 ++ secondaries2


/-- The fields a row reads, and the long-word bits that its format leaves no field for (R41, R42). -/
def Shape.build (long : Bool) (w0 w1 : W32) : Shape → Instr
  | .w f => f (wArgs w0 w1)
  | .p f => f (pArgs w0 w1)
  | .i f => f (iArgs long w0 w1)
  | .j f => f (jArgs long w0 w1)
/-- imm8 is zero in a long form I (R41); SEC and XF are zero in a long form J (R42). -/
def Shape.spareOk (long : Bool) (w0 w1 : W32) : Shape → Bool
  | .i _ => !long || bits w0 1 8 == 0
  | .j _ => secOf w1 == 0 && bits w1 0 4 == 0
  | _ => true

/-- The row that the words name: the primary map by MAJOR, the escape page by SEC (R48, R50, R52 steps 3, 4). -/
def row? (long : Bool) (w0 w1 : W32) : Option Shape :=
  if majorOf w0 == 0x7F then (if long then secondaries[(secOf w1).toNat]? else none)
  else majors[(majorOf w0).toNat]?

/-- Why words are no instruction (R52, R53). -/
inductive Reject where
  /-- Subclass 0: illegal (R54). -/
  | illegal
  /-- Subclass 4: an odd register names a 64-bit vector value (R19). -/
  | registerPair
  deriving DecidableEq, Repr

/-- Steps 3 to 5 of R52 on a first word and the word after it. -/
def decode (w0 w1full : W32) : Except Reject Decoded :=
  let long := longOf w0
  let w1 : W32 := if long then w1full else 0
  match row? long w0 w1 with
  | none => .error .illegal
  | some sh =>
    let i := sh.build long w0 w1
    if sh.spareOk long w0 w1 && WellFormed.fieldsOk i && (long || !WellFormed.longOnly i)
        && WellFormed.roleOk (roleOf w0) i then
      if WellFormed.pairsOk i then
        .ok { role := roleOf w0, h := hintOf w0, xh := xhOf w1, long := long, instr := i }
      else .error .registerPair
    else .error .illegal

/-! ### The encoder -/

/-- The fields of an instruction, by format. -/
inductive Args where
  | w (o : WArgs)
  | p (o : PArgs)
  | i (o : IArgs)
  | j (o : JArgs)
  deriving DecidableEq, Repr

/-- MAJOR and the fields of a program instruction; none for a step of the device. -/
def parts : Instr → Option (BitVec 7 × Args)
  | .sadd o => some (0x00, .w o)
  | .ssub o => some (0x01, .w o)
  | .smul o => some (0x02, .w o)
  | .smulh o => some (0x03, .w o)
  | .sdiv o => some (0x04, .w o)
  | .srem o => some (0x05, .w o)
  | .sand o => some (0x06, .w o)
  | .sor o => some (0x07, .w o)
  | .sxor o => some (0x08, .w o)
  | .sshl o => some (0x09, .w o)
  | .sshr o => some (0x0A, .w o)
  | .ssra o => some (0x0B, .w o)
  | .smin o => some (0x0C, .w o)
  | .smax o => some (0x0D, .w o)
  | .sset o => some (0x0E, .w o)
  | .sli o => some (0x0F, .i o)
  | .sliIns o => some (0x0F, .i o)
  | .vadd o => some (0x10, .p o)
  | .vsub o => some (0x11, .p o)
  | .vmul o => some (0x12, .p o)
  | .vmulh o => some (0x13, .p o)
  | .vmad o => some (0x14, .p o)
  | .vand o => some (0x15, .p o)
  | .vor o => some (0x16, .p o)
  | .vxor o => some (0x17, .p o)
  | .vshl o => some (0x18, .p o)
  | .vshr o => some (0x19, .p o)
  | .vsra o => some (0x1A, .p o)
  | .vmin o => some (0x1B, .p o)
  | .vmax o => some (0x1C, .p o)
  | .vabs o => some (0x1D, .p o)
  | .vclz o => some (0x1E, .p o)
  | .vpopc o => some (0x1F, .p o)
  | .vcmp o => some (0x20, .p o)
  | .vsel o => some (0x21, .p o)
  | .fadd o => some (0x22, .p o)
  | .fsub o => some (0x23, .p o)
  | .fmul o => some (0x24, .p o)
  | .ffma o => some (0x25, .p o)
  | .fmin o => some (0x26, .p o)
  | .fmax o => some (0x27, .p o)
  | .fsgn o => some (0x28, .p o)
  | .fcmp o => some (0x29, .p o)
  | .fclass o => some (0x2A, .p o)
  | .fscale o => some (0x2B, .p o)
  | .frint o => some (0x2C, .p o)
  | .fcvt o => some (0x2D, .p o)
  | .fcvti o => some (0x2E, .p o)
  | .icvtf o => some (0x2F, .p o)
  | .bfpack o => some (0x30, .p o)
  | .frcp o => some (0x31, .p o)
  | .frsq o => some (0x32, .p o)
  | .fsqrt o => some (0x33, .p o)
  | .fexp2 o => some (0x34, .p o)
  | .flog2 o => some (0x35, .p o)
  | .fsin o => some (0x36, .p o)
  | .fcos o => some (0x37, .p o)
  | .ftanh o => some (0x38, .p o)
  | .fsigm o => some (0x39, .p o)
  | .ferf o => some (0x3A, .p o)
  | .vshuf o => some (0x3B, .p o)
  | .vbcast o => some (0x3C, .p o)
  | .vred o => some (0x3D, .p o)
  | .vscan o => some (0x3E, .p o)
  | .vconf o => some (0x3F, .p o)
  | .vcomb o => some (0x40, .p o)
  | .vcmprs o => some (0x41, .p o)
  | .vexpnd o => some (0x42, .p o)
  | .vmov o => some (0x43, .w o)
  | .vmovStream o => some (0x43, .w o)
  | .vsplat o => some (0x44, .w o)
  | .vextr o => some (0x45, .w o)
  | .vlane o => some (0x46, .w o)
  | .xv o => some (0x47, .p o)
  | .xpush o => some (0x48, .w o)
  | .xpop o => some (0x49, .w o)
  | .xpeek o => some (0x4A, .w o)
  | .xdepth o => some (0x4B, .w o)
  | .xclr o => some (0x4C, .w o)
  | .tcfg o => some (0x4D, .w o)
  | .tld o => some (0x4E, .w o)
  | .tst o => some (0x4F, .w o)
  | .tzero o => some (0x50, .w o)
  | .mma o => some (0x51, .w o)
  | .mloop o => some (0x52, .w o)
  | .mspan o => some (0x53, .w o)
  | .mspanSelf o => some (0x53, .w o)
  | .tbitsNone o => some (0x54, .w o)
  | .tbitsSeed o => some (0x54, .w o)
  | .tbitsTile o => some (0x54, .w o)
  | .tout o => some (0x55, .w o)
  | .sld o => some (0x56, .i o)
  | .sst o => some (0x57, .i o)
  | .vld o => some (0x58, .i o)
  | .vst o => some (0x59, .i o)
  | .vldg o => some (0x5A, .w o)
  | .vstg o => some (0x5B, .w o)
  | .vatom o => some (0x5C, .w o)
  | .satom o => some (0x5D, .w o)
  | .gatom o => some (0x5E, .w o)
  | .phase o => some (0x5F, .w o)
  | .fence o => some (0x60, .w o)
  | .waitc o => some (0x61, .i o)
  | .mwait o => some (0x62, .w o)
  | .pst o => some (0x63, .w o)
  | .patom o => some (0x64, .w o)
  | .pref o => some (0x65, .i o)
  | .cpLd o => some (0x66, .w o)
  | .cpSt o => some (0x66, .w o)
  | .cpx o => some (0x67, .w o)
  | .cps o => some (0x68, .w o)
  | .cpred o => some (0x69, .w o)
  | .cpconv o => some (0x6A, .w o)
  | .cpstage o => some (0x6B, .w o)
  | .chwait o => some (0x6C, .w o)
  | .chrel o => some (0x6D, .w o)
  | .rowbar o => some (0x6E, .w o)
  | .moedisp o => some (0x6F, .w o)
  | .kst o => some (0x70, .w o)
  | .qsig o => some (0x71, .w o)
  | .bgather o => some (0x72, .w o)
  | .br o => some (0x73, .j o)
  | .brc o => some (0x74, .i o)
  | .brv o => some (0x75, .i o)
  | .join o => some (0x76, .w o)
  | .loopb o => some (0x77, .i o)
  | .brk o => some (0x78, .i o)
  | .loope o => some (0x79, .j o)
  | .call o => some (0x7A, .j o)
  | .calli o => some (0x7B, .w o)
  | .ret o => some (0x7C, .w o)
  | .exit o => some (0x7D, .w o)
  | .nop o => some (0x7E, .w o)
  | .brw o => some (0x7F, .w o)
  | .wbind o => some (0x7F, .w o)
  | .regang o => some (0x7F, .w o)
  | .hand o => some (0x7F, .w o)
  | .bara o => some (0x7F, .w o)
  | .barw o => some (0x7F, .w o)
  | .wbar o => some (0x7F, .w o)
  | .tickw o => some (0x7F, .w o)
  | .setpl o => some (0x7F, .w o)
  | .launch o => some (0x7F, .w o)
  | .kand o => some (0x7F, .w o)
  | .kor o => some (0x7F, .w o)
  | .kxor o => some (0x7F, .w o)
  | .knot o => some (0x7F, .w o)
  | .kmov o => some (0x7F, .w o)
  | .kpop o => some (0x7F, .w o)
  | .fdiv o => some (0x7F, .p o)
  | .vdiv o => some (0x7F, .p o)
  | .sysr o => some (0x7F, .w o)
  | .sysrCtx o => some (0x7F, .w o)
  | .sysw o => some (0x7F, .w o)
  | .syswCtx o => some (0x7F, .w o)
  | .tlbinvPage o => some (0x7F, .w o)
  | .tlbinvCtx o => some (0x7F, .w o)
  | .tlbinvAll o => some (0x7F, .w o)
  | .ecall o => some (0x7F, .w o)
  | .flushw o => some (0x7F, .w o)
  | .trap o => some (0x7F, .w o)
  | .tretNext o => some (0x7F, .w o)
  | .tretReplay o => some (0x7F, .w o)
  | .tretReex o => some (0x7F, .w o)
  | .laneinfo o => some (0x7F, .w o)
  | .laneinfoV o => some (0x7F, .w o)
  | .laneinfoClr o => some (0x7F, .w o)
  | .vrdn o => some (0x7F, .w o)
  | .vwrn o => some (0x7F, .w o)
  | .wmark o => some (0x7F, .w o)
  | .wmarkDrop o => some (0x7F, .w o)
  | .undo o => some (0x7F, .w o)
  | .undoTeam o => some (0x7F, .w o)
  | .tbegin o => some (0x7F, .w o)
  | .tcommit o => some (0x7F, .w o)
  | .tabort o => some (0x7F, .w o)
  | .brkpt o => some (0x7F, .w o)
  | .rgne o => some (0x7F, .w o)
  | .rgnl o => some (0x7F, .w o)
  | _ => none

/-- A Boolean as one bit. -/
def bit (b : Bool) : BitVec 1 := BitVec.ofBool b

/-- The first word (R40, R41). -/
def firstWord (d : Decoded) (major : BitVec 7) : Args → W32
  | .w o => d.role ++ bit d.h ++ major ++ o.d ++ o.a ++ o.b ++ bit o.fa ++ bit o.fb ++ bit d.long
  | .p o => d.role ++ bit d.h ++ major ++ o.d ++ o.a ++ o.b ++ bit o.fa ++ bit o.fb ++ bit d.long
  | .i o => d.role ++ bit d.h ++ major ++ o.d ++ o.a ++ (if d.long then 0 else o.imm.setWidth 8) ++ bit d.long
  | .j o => d.role ++ bit d.h ++ major ++ o.off.setWidth 20 ++ bit d.long

/-- The long word (R43). -/
def longWord (d : Decoded) : Args → W32
  | .w o => o.imm ++ o.sec ++ d.xh ++ o.xf
  | .p o => o.t.toBits ++ o.rm.toBits ++ bit o.s ++ o.c ++ o.x ++ o.sec ++ d.xh ++ o.xf
  | .i o => o.imm ++ o.sec ++ d.xh ++ o.xf
  | .j o => o.off.extractLsb' 20 16 ++ (0 : BitVec 8) ++ d.xh ++ (0 : BitVec 4)

/-- The words of a decoded instruction: the first, and the long word when it has one. -/
def encode (d : Decoded) : Option (W32 × Option W32) :=
  match parts d.instr with
  | none => none
  | some (major, args) => some (firstWord d major args, if d.long then some (longWord d args) else none)

/-- In the short form the fields of the long word are zero, and the immediate fits its field (R47). -/
def shortOk : Args → Bool
  | .w o => o.imm == 0 && o.sec == 0 && o.xf == 0
  | .p o => o.t == .dflt && o.rm == .dyn && !o.s && o.c == 0 && o.x == 0 && o.sec == 0 && o.xf == 0
  | .i o => o.imm == (o.imm.setWidth 8).signExtend 16 && o.sec == 0 && o.xf == 0
  | .j o => o.off == (o.off.setWidth 20).signExtend 36

/-- An instruction that has words: every entry's check accepts it, its pairs are even, and the form it is in can
carry its fields. -/
def wellFormed (d : Decoded) : Bool :=
  match parts d.instr with
  | none => false
  | some (major, args) =>
    WellFormed.fieldsOk d.instr && WellFormed.pairsOk d.instr && WellFormed.roleOk d.role d.instr
      && (d.long || (!WellFormed.longOnly d.instr && major != 0x7F && shortOk args && d.xh == 0))

end Decode

/-- The words that a number holds, bit 0 the least significant bit of the first word: what the decoder reads of them,
the long word zero above `nbits`. -/
def decodeTableWord (nbits w : Nat) : Option Instr :=
  let w' := w % 2 ^ nbits
  match Decode.decode (BitVec.ofNat 32 w') (BitVec.ofNat 32 (w' / 2 ^ 32)) with
  | .ok d => some d.instr
  | .error _ => none

end Sys2Proof
end

