-- ==== Sys2Proof/Machine/Recovery.lean ====
section
/-! DEFINITION. Recovery and debug instructions (21_recovery_instructions R368-R383). -/

namespace Sys2Proof.Machine

/-! ### TRAP, BRKPT, TRET (R370, R371) -/

def execTrap (o : WArgs) (s : State) : Host.Outcome State Fault Refusal :=
  issue (.trap o) s (fun _ => .trap { cls := 8, sub := o.imm.toNat })

def execBrkpt (o : WArgs) (s : State) : Host.Outcome State Fault Refusal :=
  issue (.brkpt o) s (fun x =>
    let c := s.ctx x.unit.ctx
    if c.dbgctl.getLsbD 0 && c.brk.getLsbD o.imm.toNat then .trap { cls := 9, sub := 0 } else .seq s x.unit)

/-- Whether a group runs the gang's handler. -/
def inHandler (x : Issue) : Bool :=
  match x.unit.handler with
  | some hs => x.js.all (fun j => hs.contains j)
  | none => false

/-- The first PC at which a gang behind its trap would go on, of those that are no instruction's address (R271). -/
def crooked (hs : List Nat) (u : Unit) : Option W64 :=
  ((u.pick hs).find? (fun t => t.alive && t.pc.toNat % 4 != 0)).map (fun t => t.pc)

/-- Whether a return from a trap reads poison in its frame: the header with PCS, or SAVES or SAVEV of a slice (R346, R363). -/
def framePoisoned (s : State) (u : Unit) : Bool :=
  poisoned s (framePa u) 128
    || u.slices.any (fun t => poisoned s (framePa u + savesOff t.idx 0) 64 || poisoned s (framePa u + savevOff t.idx 0) 128)

/-- TRET (R371): once every direct store of the handler has been performed. A frame that sends a slice to an address between
instructions is class 5, as every transfer there (R38, R271); one that is poisoned where it is read, class 14 (R363). -/
def tret (i : Instr) (mode : TretMode) (s : State) : Host.Outcome State Fault Refusal :=
  issue i s (fun x =>
    let hs := x.unit.handler.getD []
    if !inHandler x then .trap (illegal 11)
    else if x.unit.direct.any (fun d => hs.contains d.slice) then .stall
    else if framePoisoned s x.unit then .trap (poisonTrap 0)
    else match crooked (frameSlices s x.unit) (trapReturn s x.unit mode) with
      | some pc => .trap (alignTrap pc)
      | none => .raw (afterReturn s x.unit mode))

def execTretNext (o : WArgs) (s : State) : Host.Outcome State Fault Refusal := tret (.tretNext o) .next s
def execTretReplay (o : WArgs) (s : State) : Host.Outcome State Fault Refusal := tret (.tretReplay o) .replay s
def execTretReex (o : WArgs) (s : State) : Host.Outcome State Fault Refusal := tret (.tretReex o) .reex s

/-! ### LANEINFO (R372-R374) -/

/-- An item of the side-buffer record. -/
def sideItem (b : SideBuffer) (item : Nat) : W64 :=
  match item with
  | 0 => b.replay.setWidth 64
  | 1 => b.faulted.setWidth 64
  | 2 => b.lcause.setWidth 64
  | 3 => (b.lcause >>> 64).setWidth 64
  | 4 => b.seq.setWidth 64
  | 5 => b.ecause.setWidth 64
  | _ => b.cls.setWidth 64

def execLaneinfo (o : WArgs) (s : State) : Host.Outcome State Fault Refusal :=
  issue (.laneinfo o) s (fun x =>
    .seq s (x.unit.mapSlices x.js (queueScalar o.d (sideItem x.unit.side o.imm.toNat))))

def execLaneinfoV (o : WArgs) (s : State) : Host.Outcome State Fault Refusal :=
  issue (.laneinfoV o) s (fun x => .seq s (x.unit.mapSlices x.js (fun t =>
    queueElems .n32 o.d false false t ((lanesOf (actOf t o.km)).map (fun l =>
      (l, (x.unit.side.lcause.extractLsb' (4 * laneNo t l) 4).toNat))))))

def execLaneinfoClr (o : WArgs) (s : State) : Host.Outcome State Fault Refusal :=
  issue (.laneinfoClr o) s (fun x =>
    let b := x.unit.side
    .seq s { x.unit with side := { b with replay := b.replay &&& ~~~((x.low.getS o.a).setWidth 32) } })

/-! ### Registers by number (R375) -/

/-- The number that sA gives in a slice. -/
def regNumber (o : WArgs) (t : Slice) : Reg := (t.getS o.a).setWidth 6

/-- In a handler, numbers 56 to 63 are the frame's. -/
def inFrame (x : Issue) (r : Reg) : Bool := inHandler x && decide (56 ≤ r.toNat)

/-- Byte addresses of a frame's SAVES and SAVEV. -/
def frameS (u : Unit) (t : Slice) (r : Reg) : Nat := framePa u + savesOff t.idx (r.toNat - 56)
def frameV (u : Unit) (t : Slice) (r : Reg) (l : Fin 4) : Nat := framePa u + savevOff t.idx (r.toNat - 56) + 4 * l.val

/-- A direct store of the unit into its frame that is still pending. -/
def framePending (u : Unit) : Bool :=
  u.direct.any (fun d => decide (d.pa < framePa u + Config.frameBytes ∧ framePa u < d.pa + d.bytes.length))

/-- A scalar by number. -/
def numberedS (s : State) (x : Issue) (t : Slice) (r : Reg) : W64 :=
  if inFrame x r then BitVec.ofNat 64 (fromLe (s.mem.readBytes (frameS x.unit t r) 8)) else t.getS r

/-- A vector lane by number. -/
def numberedV (s : State) (x : Issue) (t : Slice) (r : Reg) (l : Fin 4) : W32 :=
  if inFrame x r then BitVec.ofNat 32 (fromLe (s.mem.readBytes (frameV x.unit t r l) 4)) else t.getV r l

/-- The vector registers that an atomic returns to (R211). -/
def PendingAtomic.regs (a : PendingAtomic) : List Reg :=
  match a.ret with
  | some d => if widthOf (atomT a.ty) = 64 then [d, d + 1] else [d]
  | none => []

/-- Whether a register of the frame is still to be given its value by what the trapped program has issued (R346): an atomic, a QSIG or a
BGATHER. -/
def frameAwaits (s : State) (u : Unit) (t : Slice) (r : Reg) (scalar : Bool) : Bool :=
  u.atomics.any (fun a => a.frame && a.slice == t.idx && (if scalar then a.lane.isNone && a.ret == some r else a.lane.isSome && a.regs.contains r))
    || (frameCommands s u.id).any (fun k => match k.op with
      | .qsig _ _ d js => !scalar && d == r && js.contains t.idx
      | .bgather _ _ _ _ _ d js => scalar && d == r && js.contains t.idx
      | _ => false)

/-- Whether the named register, or pair, is full; in a handler numbers 56 to 63 are the frame's (R375). -/
def numberedFull (s : State) (x : Issue) (t : Slice) (r : Reg) (scalar pair : Bool) : Bool :=
  if inFrame x r then !frameAwaits s x.unit t r scalar && (!pair || !frameAwaits s x.unit t (r + 1) scalar)
  else if scalar then t.fullS r && (!pair || t.fullS (r + 1)) else t.fullV r pair

/-- Whether a group's VRDN or VWRN waits for registers that it names, or for the handler's own stores to its frame. -/
def numberedWaits (s : State) (x : Issue) (o : WArgs) : Bool :=
  !x.slices.all (fun t => numberedFull s x t (regNumber o t) (o.imm.getLsbD 0) (o.imm.getLsbD 1))
    || (x.slices.any (fun t => inFrame x (regNumber o t)) && framePending x.unit)

/-- The checks that VRDN and VWRN share: an odd pair (R19), an empty register; a frame's values stand behind the handler's own
stores to it. -/
def numbered (s : State) (x : Issue) (o : WArgs) (go : Done) : Done :=
  if o.imm.getLsbD 1 && x.slices.any (fun t => (regNumber o t).getLsbD 0) then .trap (illegal 4)
  else if numberedWaits s x o then .stall
  else go

/-- The lanes of a group whose VRDN reads poison in the frame (R363). -/
def frameLost (s : State) (x : Issue) (o : WArgs) : Option Trap :=
  let pair := o.imm.getLsbD 1
  let lost (t : Slice) (r : Reg) (l : Fin 4) : Bool := inFrame x r && (poisoned s (frameV x.unit t r l) 4)
  if o.imm.getLsbD 0 then
    if x.slices.any (fun t => let r := regNumber o t
        inFrame x r && poisoned s (frameS x.unit t r) (if pair then 16 else 8)) then some (poisonTrap 0) else none
  else
    let m := gangView x.slices (fun t => (lanesOf (actOf t o.km)).foldl (fun m l =>
      if lost t (regNumber o t) l || (pair && lost t (regNumber o t + 1) l) then m ||| laneBit l else m) 0)
    if m = 0 then none else some (poisonTrap m)

def execVrdn (o : WArgs) (s : State) : Host.Outcome State Fault Refusal :=
  issue (.vrdn o) s (fun x =>
    let pair := o.imm.getLsbD 1
    numbered s x o (match frameLost s x o with | some t => .trap t | none => .seq s (x.unit.mapSlices x.js (fun t =>
      let r := regNumber o t
      if o.imm.getLsbD 0 then
        let lo := numberedS s x t r
        let hi := numberedS s x t (r + 1)
        let t := queueScalar o.d lo t
        if pair then queueScalar (o.d + 1) hi t else t
      else
        queueElems (if pair then .n64 else .n32) o.d pair false t ((lanesOf (actOf t o.km)).map (fun l =>
          (l, (numberedV s x t r l).toNat + (if pair then 2 ^ 32 * (numberedV s x t (r + 1) l).toNat else 0))))))))

/-- A scalar written by number: into the frame or the register. -/
def writeS (x : Issue) (t : Slice) (r : Reg) (v : W64) (su : State × Unit) : State × Unit :=
  if r = 63 then su
  else if inFrame x r then (writePieces su.1 (frameS x.unit t r) [(0, leBytes v.toNat 8)], su.2)
  else (su.1, su.2.mapSlices [t.idx] (fun y => y.putS r v))

/-- A vector lane written by number. -/
def writeV (x : Issue) (t : Slice) (r : Reg) (l : Fin 4) (v : W32) (su : State × Unit) : State × Unit :=
  if inFrame x r then ({ su.1 with mem := su.1.mem.writeBytes (frameV x.unit t r l) (leBytes v.toNat 4) }, su.2)
  else (su.1, su.2.mapSlices [t.idx] (fun y => y.putV r l v))

/-- One slice's VWRN. -/
def writeNumbered (o : WArgs) (x : Issue) (su : State × Unit) (t : Slice) : State × Unit :=
  let r := regNumber o t
  let pair := o.imm.getLsbD 1
  if o.imm.getLsbD 0 then
    let su := writeS x t r (t.getS o.b) su
    if pair then writeS x t (r + 1) (t.getS (o.b + 1)) su else su
  else (lanesOf (actOf t o.km)).foldl (fun su l =>
    let su := writeV x t r l (t.getV o.b l) su
    if pair then writeV x t (r + 1) l (t.getV (o.b + 1) l) su else su) su

def execVwrn (o : WArgs) (s : State) : Host.Outcome State Fault Refusal :=
  issue (.vwrn o) s (fun x =>
    numbered s x o (let su := x.slices.foldl (writeNumbered o x) (s, x.unit); .seq su.1 su.2))

/-! ### Windows (R376, R377) -/

/-- The live masks of a safe point at a PC (R398). -/
def safePoint? (s : State) (ctx : Nat) (pc : W64) : Option (W64 × W64) :=
  s.refs.findSome? (fun r =>
    if r.ctx != ctx then none
    else match s.objects.find? (fun ob => ob.handle == r.handle) with
      | some ob => (ob.safe.find? (fun e => r.textVa.toNat + e.1 == pc.toNat)).map (fun e => e.2)
      | none => none)

/-- The same; every register where there is none (R376). -/
def liveAt (s : State) (ctx : Nat) (pc : W64) : W64 × W64 := (safePoint? s ctx pc).getD (allLive, allLive)

/-- WMARK: the last slices to come open the window for the gang, and every group goes on behind its own. -/
def execWmark (o : WArgs) (s : State) : Host.Outcome State Fault Refusal :=
  issue (.wmark o) s (fun x =>
    let others := x.unit.slices.filter (fun t => t.alive && !x.js.contains t.idx)
    if !others.all atWmark then .stay s (x.unit.park x.js .wmark x.size)
    else
      let (ls, lv) := liveAt s x.unit.ctx x.pc
      let size := if x.unit.winno = 0xFFFFFFFF#32 then 0 else checkpointSize x.unit ls lv
      withRoom s x.unit size (fun s u =>
        let u := (u.advance x.js x.size).release (others.map (fun t => t.idx))
        let (s, u) := openWindow s u 4 x.pc ls lv
        .jump s u))

def execWmarkDrop (o : WArgs) (s : State) : Host.Outcome State Fault Refusal :=
  issue (.wmarkDrop o) s (fun x =>
    let (s, u) := releaseWindows s x.unit ((x.low.getS o.a).setWidth 32)
    .seq s u)

/-! ### UNDO (R378) -/

/-- UNDO at level S: the step that the operands' fields name. -/
def undoBody (o : WArgs) (team : Bool) (s : State) (x : Issue) : Done :=
  let a := (x.low.getS o.a).toNat
  let b := (x.low.getS o.b).toNat
  let formOk := decide (a < 2 ^ 24 ∧ b < 2 ^ 48)
  let ends (n : Nat) (s : State) : Done :=
    let u := refresh s x.unit
    .seq s (u.mapSlices x.js (fun t => t.putS o.d (BitVec.ofNat 64 n)))
  match reverseStep s (a % 64) (a / 64 % 2 ^ 18) (BitVec.ofNat 32 b) (b / 2 ^ 32 % 2 ^ 16) team formOk with
    | .status n s' => ends n s'
    | .waits s' => .raw s'

def execUndo (o : WArgs) (s : State) : Host.Outcome State Fault Refusal := issueS (.undo o) s (undoBody o false s)
def execUndoTeam (o : WArgs) (s : State) : Host.Outcome State Fault Refusal := issueS (.undoTeam o) s (undoBody o true s)

/-! ### Transactions (R379-R381) -/

/-- A transaction that does not begin: s59 of every slice says why, and the group goes to TBEGIN's own label (R379, R381). -/
def noTransaction (x : Issue) (label why : W64) : Unit :=
  let told (t : Slice) : Slice := t.setNow 59 why
  { x.unit with slices := x.unit.slices.map told }.mapSlices x.js (fun t => t.jumpTo label)

/-- TBEGIN: in a parted gang it aborts with cause 9; at the last window number, which no window can follow, with cause 7 (log
entry 28); otherwise a window opens and the transaction runs. -/
def execTbegin (o : WArgs) (s : State) : Host.Outcome State Fault Refusal :=
  issue (.tbegin o) s (fun x =>
    let label := x.pc + offset16 o.imm <<< 2
    if !x.unit.joined then .jump s (noTransaction x label 9)
    else if x.unit.winno = 0xFFFFFFFF#32 then .jump s (noTransaction x label 7)
    else withRoom s x.unit (checkpointSize x.unit allLive allLive) (fun s u =>
      let (s, u) := openWindow s (u.advance x.js x.size) 7 x.pc allLive allLive
      let t : Txn := { label := label, win := u.winno, reads := [], writes := [], own := [], pages := [], doomed := false,
                       slices := u.slices.map Slice.captured }
      .jump s { u with txn := some t }))

/-- The write set published at one point, with its mark (R380). The gang's older stores stay for its next PHASE (R176, R185). -/
def commitTxn (s : State) (u : Unit) (t : Txn) (pc : W64) : State × Unit :=
  let s := publishOverlay s u.id t.own
  let s := { s with log := s.log.map (fun e =>
                      if e.of u && e.win == t.win && !e.direct && e.order == none then { e with order := some s.nextId } else e)
                    nextId := s.nextId + 1 }
  (logMark s u 5 pc,
   { u with txn := none, committed := Overlay.layer t.own u.committed })

def execTcommit (o : WArgs) (s : State) : Host.Outcome State Fault Refusal :=
  issue (.tcommit o) s (fun x =>
    match x.unit.txn with
    | none => .trap (illegal 12)
    | some t =>
      if x.unit.count 2 ≠ 0 then .stall
      else if t.doomed then .abort 1 0 0
      else withRoom s x.unit 1 (fun s u =>
        let (s, u) := commitTxn s u t x.pc
        .seq s u))

def execTabort (o : WArgs) (s : State) : Host.Outcome State Fault Refusal :=
  issue (.tabort o) s (fun x =>
    match x.unit.txn with
    | none => .trap (illegal 12)
    | some _ => .abort 2 0 o.imm.toNat)

/-! ### Regions (R382) -/

/-- Whether a region id stops its context's gangs. -/
def regionArmed (c : Context) (id : BitVec 16) : Bool := c.dbgctl.getLsbD 0 && c.regions.toList.contains (some id)

/-- A region edge: its mark and checkpoint under REV, then class 9 beside the effect if it is armed. `ids` are those of the edge. -/
def regionEdge (s : State) (x : Issue) (ids : List (BitVec 16)) (f : Slice → Slice) : Done :=
  let c := s.ctx x.unit.ctx
  let rev := c.dbgctl.getLsbD 1
  withRoom s x.unit (if rev then checkpointSize x.unit allLive allLive else 0) (fun s u =>
    let u := u.mapSlices x.js f
    let after := u.advance x.js x.size
    let (s, marked) := if rev then takeCheckpoint s { after with edges := u.edges + 1 } 6 x.pc allLive allLive else (s, after)
    if ids.any (regionArmed c) then
      .trapAfter { cls := 9, sub := 1 } s { u with edges := marked.edges, checkpoints := marked.checkpoints }
    else .seq s { u with edges := marked.edges, checkpoints := marked.checkpoints })

def execRgne (o : WArgs) (s : State) : Host.Outcome State Fault Refusal :=
  issue (.rgne o) s (fun x =>
    if x.slices.any (fun t => Config.stackDepth ≤ t.regions.length) then .trap (illegal 3)
    else regionEdge s x [o.imm] (fun t => { t with regions := o.imm :: t.regions }))

def execRgnl (o : WArgs) (s : State) : Host.Outcome State Fault Refusal :=
  issue (.rgnl o) s (fun x =>
    if x.slices.any (fun t => t.regions.isEmpty) then .trap (illegal 3)
    else regionEdge s x (x.slices.flatMap (fun t => t.regions.take 1)) (fun t => { t with regions := t.regions.drop 1 }))

end Sys2Proof.Machine
end

