-- ==== Sys2Proof/Machine/Fetch.lean ====
section
/-! DEFINITION. Fetching an instruction: who may issue, fetch blocks, roles and the role map, engine members
(04_encoding R52-R58, 13_progress R261, R264, R265). -/

namespace Sys2Proof.Machine

/-! ### Who may issue -/

/-- Whether a group runs its gang's handler. -/
def groupHandles (u : Unit) (js : List Nat) : Bool :=
  match u.handler with
  | some hs => js.all (fun j => hs.contains j)
  | none => false

/-- A slice parked in a PHASE, or on the page of a data access (R214, R322). -/
def Slice.parkedHard (t : Slice) : Bool :=
  match t.run with
  | .parked (.phase _) _ _ => true
  | .parked (.page _ k) _ _ => k != .fetch
  | _ => false

/-- A slice parked on a WAITC (R216). -/
def Slice.parkedCount (t : Slice) : Bool := match t.run with | .parked (.waitc _ _) _ _ => true | _ => false

/-- A slice that stops its whole gang (R214, R216, R322). -/
def Slice.stopsGang (t : Slice) : Bool := t.parkedHard || t.parkedCount

/-- A group that may issue: its slices run; its unit is not stopped, or still in its skid of 32 (R344); beside a handler no
other group runs (R346); a class 13 that waits is taken first (R224). -/
def mayIssue (u : Unit) (js : List Nat) : Bool :=
  !u.exited && !js.isEmpty && (u.pick js).length == js.length && (u.pick js).all Slice.isRunning
    && !u.slices.any Slice.stopsGang
    && (match u.halt with | .none => true | .pending _ _ k => decide (k < 32) | _ => false)
    && (match u.handler with | some hs => js.all (fun j => hs.contains j) | none => u.engineError.isNone)

/-- A gang that a soft pre-emption has brought to a safe point: all its slices stand there, outside a handler and a transaction
(R349). It issues no more until it is saved. -/
def atSafePoint (s : State) (u : Unit) : Option (W64 × W64) :=
  match s.team? u.team, u.slices.filter Slice.alive with
  | some t, x :: xs =>
    if t.softBudget.isSome && u.id.kind == .gang && u.handler.isNone && u.txn.isNone && u.halt == .none
        && (x :: xs).all (fun y => y.isRunning && y.pc == x.pc) then safePoint? s u.ctx x.pc
    else none
  | _, _ => none

/-- A unit that issues no more for now: at a safe point where it is to be saved, or of a team that a hard pre-emption takes off
(R28, R349). -/
def leaving (s : State) (u : Unit) : Bool :=
  (atSafePoint s u).isSome || (match s.team? u.team with | some t => t.stopping | none => false)

/-! ### Blocks (R58, R261) -/

/-- Whether a member holds a role (R56). -/
def holdsRole (s : State) (u : Unit) (role : Nat) : Bool :=
  role == 0 || (match s.team? u.team with | some t => (t.role role).contains u.id | none => false)

/-- The map byte of a block of a context's text (R57); none where no object of the context lies there. -/
def mapByte (s : State) (ctx : Nat) (pc : W64) : Option Byte :=
  s.refs.findSome? (fun r =>
    if r.ctx != ctx then none
    else match s.objects.find? (fun ob => ob.handle == r.handle) with
      | some ob => if r.textVa.toNat ≤ pc.toNat ∧ pc.toNat < r.textVa.toNat + ob.size then
          ob.rolemap[(pc.toNat - r.textVa.toNat) / 64]? else none
      | none => none)

/-- Whether a block reached in sequence is passed without being fetched (R58): at its first word, or at its second behind a long word that
was passed over at the end of the block before (R52). The entry block counts as reached so, as the table behind R269 has it. -/
def skipsBlock (s : State) (u : Unit) (t : Slice) : Bool :=
  t.seqF && (t.pc.toNat % 64 == 0 || t.blk != blockOf t.pc) && (match mapByte s u.ctx t.pc with
    | some b => (List.range 8).all (fun r => !(b.getLsbD r && holdsRole s u r))
    | none => false)

/-- The position of a slice, its PC's block counted; a handler's slices keep that of the trap (R261). -/
def slicePos (u : Unit) (t : Slice) : Nat := if groupHandles u [t.idx] then t.pos else t.entered.pos

/-- The position of a member once slices `js` have passed `more` further blocks: the least of its slices' (log entry 27). -/
def memberPos (u : Unit) (js : List Nat) (more : Nat) : Nat :=
  let pos (t : Slice) : Nat := slicePos u t + if js.contains t.idx then more else 0
  match u.slices.filter Slice.alive with
  | [] => 0
  | t :: ts => ts.foldl (fun p y => min p (pos y)) (pos t)

/-- The slowest position among the other members of a unit's team that have not exited (R261). -/
def slowestOther (s : State) (u : Unit) : Option Nat :=
  match s.units.filter (fun x => x.team == u.team && x.id != u.id && !x.exited) with
  | [] => none
  | x :: xs => some (xs.foldl (fun p y => min p (memberPos y [] 0)) (memberPos x [] 0))

/-- Whether a member's position, once `js` have passed `more` further blocks, exceeds the slowest by more than the drift bound
(R261); where it is itself the slowest, it does not. -/
def beyondDrift (s : State) (u : Unit) (js : List Nat) (more : Nat) : Bool :=
  match slowestOther s u, launchOf s u with
  | some p, some l => decide (p + l.record.drift < memberPos u js more)
  | _, _ => false

/-- Whether the drift bound stalls the fetch of a group: at its block, or before passing over it. Handlers are not subject to it
(R261). -/
def driftStalls (s : State) (u : Unit) (js : List Nat) : Bool :=
  !groupHandles u js && (beyondDrift s u js 0 || (beyondDrift s u js 1 && (u.pick js).head?.any (skipsBlock s u)))

/-! ### Engine members (R264, R265) -/

/-- What an engine member executes from ROLE 0. -/
def sharedStep : Instr → Bool
  | .hand _ | .bara _ | .barw _ | .wbar _ | .exit _ => true
  | _ => false

/-- The instructions of an engine member's table (R264). -/
def memberTable (kind : UnitKind) : Instr → Bool
  | .sadd _ | .ssub _ | .smul _ | .smulh _ | .sdiv _ | .srem _ | .sand _ | .sor _ | .sxor _ | .sshl _ | .sshr _
  | .ssra _ | .smin _ | .smax _ | .sset _ | .sli _ | .sliIns _ => true
  | .br _ | .brc _ | .nop _ | .exit _ | .hand _ | .bara _ | .barw _ | .wbar _ | .tickw _ => true
  | .waitc o => o.d == (if kind = .harrow then 1 else 0)
  | .vadd _ | .vsub _ | .vmul _ | .vmulh _ | .vmad _ | .vand _ | .vor _ | .vxor _ | .vshl _ | .vshr _ | .vsra _ | .vmin _
  | .vmax _ | .vabs _ | .vclz _ | .vpopc _ | .vmov _ | .vsplat _ | .vlane _ => kind == .sluice
  | .tcfg _ | .tld _ | .tst _ | .tzero _ | .mma _ | .mloop _ | .mspan _ | .mspanSelf _ | .tbitsNone _ | .tbitsSeed _
  | .tbitsTile _ | .tout _ => kind == .harrow
  | .cpLd _ | .cpSt _ | .cpx _ | .cps _ | .cpred _ | .cpconv _ | .cpstage _ | .chwait _ | .chrel _ | .rowbar _
  | .moedisp _ | .kst _ | .qsig _ | .bgather _ => kind == .sluice
  | _ => false

def isEngine (u : Unit) : Bool := u.id.kind == .sluice || u.id.kind == .harrow

/-! ### The instruction at a group's PC -/

/-- What stands at a group's PC. -/
inductive Fetched where
  /-- A block that is not fetched. -/
  | skip
  /-- Passed over: an instruction of another role. -/
  | pass (bytes : W64)
  /-- A weight store in its refresh window (R166). -/
  | wait
  /-- A trap of the fetch or of a decode check, with the words that the frame holds. -/
  | trap (t : Trap) (word0 word1 : W32)
  | instr (i : Instr) (word0 word1 : W32)
  deriving DecidableEq, Repr

/-- The trap of a fetch (R271, R319). -/
def fetchTrap (va : W64) (cause : Nat) : Trap :=
  if cause = 1 then { cls := 3, sub := 1, addr := va, pages := [pageOf va], kind := .fetch }
  else { cls := 4, sub := cause, addr := va }

/-- Bytes of an instruction by its L bit (R38). -/
def sizeOf0 (w0 : W32) : W64 := if w0.getLsbD 0 then 8 else 4

/-- The word at a physical address. -/
def wordAt (s : State) (pa : Nat) : W32 := BitVec.ofNat 32 (fromLe (s.mem.readBytes pa 4))

/-- Steps 2 to 5 of R52 on the words of a member that executes them, then the engine members' table. -/
def examine (u : Unit) (pc : W64) (w0 w1 : W32) : Fetched :=
  if w0.getLsbD 0 && pc.toNat / 4 % 16 == 15 then .trap (illegal 2) w0 0
  else match Decode.decode w0 w1 with
    | .error .illegal => .trap (illegal 0) w0 w1
    | .error .registerPair => .trap (illegal 4) w0 w1
    | .ok d =>
      if isEngine u && (!memberTable u.id.kind d.instr || kmOf d.instr != 0) then .trap (illegal 13) w0 w1
      else .instr d.instr w0 w1

/-- Whether a member passes over the words at its PC (R52 step 1, R264): only ROLE and, for an engine member's ROLE 0, the
operation are read. -/
def passesOver (s : State) (u : Unit) (w0 w1 : W32) : Bool :=
  !holdsRole s u (Decode.roleOf w0).toNat
    || (isEngine u && Decode.roleOf w0 == 0 &&
        (match Decode.row? (Decode.longOf w0) w0 w1 with
         | some sh => !sharedStep (sh.build (Decode.longOf w0) w0 w1)
         | none => true))

/-- What a group finds at its PC (R52, R56-R58): its block skipped, a trap, or its instruction. No instruction lies between
words (R38). -/
def fetchAt (s : State) (u : Unit) (t : Slice) : Fetched :=
  if t.pc.toNat % 4 ≠ 0 then .trap (alignTrap t.pc) 0 0
  else if skipsBlock s u t then .skip
  else match translate s (requester u .fetch .plain) t.pc with
    | .error c => .trap (fetchTrap t.pc c) 0 0
    | .ok (pa, _) =>
      if inRefresh s pa then .wait
      else if poisoned s pa 4 then .trap (poisonTrap 0) 0 0
      else
        let w0 := wordAt s pa
        let w1 : W32 := if w0.getLsbD 0 then wordAt s (pa + 4) else 0
        if passesOver s u w0 w1 then .pass (sizeOf0 w0) else examine u t.pc w0 w1

/-! ### One issue -/

/-- The end of a fetch: the instruction to execute with the state in which it executes, or the state after a fetch that
executes none. -/
inductive FetchEnd where
  | run (i : Instr) (s : State)
  | ended (s : State)
  deriving DecidableEq, Repr

/-- Slices of a group as they pass over bytes. -/
def passOver (u : Unit) (js : List Nat) (bytes : W64) : Unit :=
  u.mapSlices js (fun t => { t with pc := t.pc + bytes, seqF := true })

/-- Slices of a group in their PC's block; a handler's slices keep their position (R261). -/
def enterBlock (u : Unit) (js : List Nat) : Unit :=
  u.mapSlices js (if groupHandles u js then (fun t => { t with blk := blockOf t.pc }) else Slice.entered)

/-- Bytes from a PC to the end of its block. -/
def blockRest (pc : W64) : W64 := BitVec.ofNat 64 (64 - pc.toNat % 64)

/-- The fetch of the group that issues. A gang that stood still as its harrow command met poison takes class 14 now (R363, log entry 29).
Where its slices came to the block by different ways, the lowest one's way decides whether the
block is skipped (DESIGN CHOICE, log entry 27). -/
def fetch (s : State) (f : Focus) : FetchEnd :=
  match s.unit? f.unit with
  | none => .ended s
  | some u =>
    if !mayIssue u f.slices || leaving s u then .ended s
    else if driftStalls s u f.slices then .ended (s.setUnit (u.park f.slices .drift 0))
    else match u.lostAt with
    | some pc =>
      let (w0, w1) := wordsAt s u pc
      .ended (takeTrap s { u with lostAt := none } f.slices pc w0 w1 { poisonTrap 0 with async := true })
    | none =>
      match u.pick f.slices with
      | [] => .ended s
      | t :: _ =>
        let v := enterBlock u f.slices
        let seen := fillTlb (s.setUnit v) u.ctx u.id.core t.pc
        match fetchAt s u t with
        | .skip => .ended (s.setUnit (passOver v f.slices (blockRest t.pc)))
        | .wait => .ended s
        | .pass bytes => .ended (seen.setUnit (passOver v f.slices bytes))
        | .trap tr w0 w1 => .ended (takeTrap seen v f.slices t.pc w0 w1 tr)
        | .instr i w0 w1 => .run i { seen with focus := some { unit := f.unit, slices := f.slices, word0 := w0, word1 := w1 } }

/-- After an issue the next granted group stands in focus. -/
def nextFocus (s : State) : State := { s with focus := s.ports.head?, ports := s.ports.drop 1 }

/-- A unit in its skid has issued one instruction more (R344). -/
def countSkid (f : Focus) (before after : State) : State :=
  match before.unit? f.unit with
  | none => after
  | some u =>
    match u.halt with
    | .pending _ _ _ =>
      if after.unit? f.unit = some u then after
      else after.mapUnits (fun x => x.id == f.unit) (fun x => match x.halt with
        | .pending o c k => { x with halt := .pending o c (k + 1) }
        | _ => x)
    | _ => after

end Sys2Proof.Machine
end

