-- ==== Sys2Proof/Machine/Matrix.lean ====
section
/-! DEFINITION. Matrix instructions, and the work of the harrow (05_numbers R73, R74, R81-R84; 08_matrix R134-R152). -/

namespace Sys2Proof.Machine

/-! ### Tiles -/

/-- Fields of a tile control word (R31). -/
def tileFmt (c : W32) : Nat := field c.toNat 0 4
def tileRows (c : W32) : Nat := field c.toNat 4 7
def tileCols (c : W32) : Nat := field c.toNat 11 7
def tileBexp (c : W32) : Int := toInt 9 (field c.toNat 18 9)
/-- bf16 and f16 tiles. -/
def tileFloat (c : W32) : Bool := decide (tileFmt c < 2)
def configured (c : W32) : Bool := tileRows c != 0 && tileCols c != 0

/-- Bytes of a tile (R134). -/
def tileBytes (c : W32) : Nat :=
  let n := tileRows c * tileCols c
  if tileFloat c then 2 * n else n + ((n + 15) / 16 + 1) / 2

/-- The control word that TCFG writes (R142). -/
def tileControl (fmt rows cols bexp : Nat) : W32 :=
  BitVec.ofNat 32 (fmt + rows * 2 ^ 4 + cols * 2 ^ 11 + bexp * 2 ^ 18)

/-- Element (r, c) of a tile; a bfp tile used as B runs column by column (R73, R134). -/
def tileElem (ctl : W32) (isB : Bool) (m : Mem) (r c : Nat) : Val :=
  if tileFloat ctl then
    let a := 2 * (r * tileCols ctl + c)
    (formatOf (if tileFmt ctl = 0 then .bf16 else .f16)).decode (fromLe (m.readBytes a 2))
  else
    let w := tileFmt ctl
    let b := if isB then c * tileRows ctl + r else r * tileCols ctl + c
    let x := toInt w (m.read b).toNat
    let deltas := (m.read (tileRows ctl * tileCols ctl + b / 32)).toNat
    let delta := if b / 16 % 2 = 0 then deltas % 16 else deltas / 16
    .num (x < 0) x.natAbs (tileBexp ctl - delta - ((w : Int) - 2)) false

/-! ### Accumulators -/

/-- Element i × 32 + j of an accumulator. -/
def accGet (m : List (Nat × Acc)) (i : Nat) : Acc := ((m.find? (fun e => e.1 == i)).map (fun e => e.2)).getD 0

/-- Every element of an accumulator rewritten. -/
def accMap (f : Nat → Acc → Acc) (m : List (Nat × Acc)) : List (Nat × Acc) :=
  (List.range 2048).filterMap (fun i => let v := f i (accGet m i); if v = 0 then none else some (i, v))

/-! ### One block of a K-step (R81, R82, R145, R149) -/

/-- Whether a bitmap source gives 1 at a position (R71, R149). -/
def bitmapBit (c : Core) (b : Bitmap) (p : Nat) : Bool :=
  match b with
  | .none => true
  | .seed seed base density => decide ((gen seed (base + BitVec.ofNat 64 p)).toNat % 2 ^ 16 < density.toNat)
  | .tile t => ((c.tile t).read (p / 8)).getLsbD (p % 8)

/-- Element (i, j) after the block of K indices 16·blk to 16·blk + 15, `k0` before the step's first. -/
def blockElem (c : Core) (ta tb : Nat) (ca cb : W32) (ba bb : Bitmap) (k0 blk i j : Nat) (acc : Acc) : Acc :=
  let ks := ((List.range 16).map (fun k => 16 * blk + k)).filter (fun k => bitmapBit c ba (k0 + k) && bitmapBit c bb (k0 + k))
  let s := Val.sum (ks.map (fun k => (tileElem ca false (c.tile ta) i k).mulZ (tileElem cb true (c.tile tb) k j)))
  Acc.round ((Acc.val acc).add .rne s)

/-- Accumulator aD after one block. -/
def blockStep (c : Core) (a ta tb : Nat) (ca cb : W32) (ba bb : Bitmap) (k0 blk : Nat) : Core :=
  c.putAcc a (accMap (fun n x =>
    if n / 32 < tileRows ca ∧ n % 32 < tileCols cb then blockElem c ta tb ca cb ba bb k0 blk (n / 32) (n % 32) x else x)
    (c.acc a))

/-- Tile contents loaded from bytes (R143, R146): the bytes beyond the tile's size stay. -/
def loadTile (c : Core) (t : Nat) (bs : List Byte) : Core :=
  let c := c.putTile t ((c.tile t).writeBytes 0 bs)
  { c with tLost := c.tLost &&& ~~~(1#8 <<< t) }

/-! ### Issue (R136-R139) -/

/-- Cores on which a span command acts (R147). -/
def spanCores (s : State) (u : Unit) (sp : Span) : List Nat :=
  match sp with
  | .self => [u.id.core]
  | .grid m n base =>
    match s.team? u.team with
    | some t => (List.range (m * n)).map (fun k => t.cores.getD (base + k) u.id.core)
    | none => [u.id.core]

/-- The tile that a bitmap source names. -/
def bitmapTiles (b : Bitmap) : List Nat := match b with | .tile t => [t] | _ => []

/-- The tiles that the bitmaps of an MMA or MLOOP name. -/
def bitTiles (x : Issue) : List Nat := bitmapTiles x.low.bitsA ++ bitmapTiles x.low.bitsB

/-- The causes of class 13 of MMA and MLOOP, in the order of R139. A tile that is named as a bitmap and not configured is met here, as the
MMA or MLOOP reads it; TBITS.TILE itself looks at no tile (DESIGN CHOICE, log entry 24). `k` is the total of K indices, `pair` the MLOOP's four
tiles. -/
def matrixCause (c : Core) (ta tb : Nat) (ba bb : Bitmap) (k : Nat) (loop : Bool) : Option Nat :=
  let ca := c.ctl ta
  let cb := c.ctl tb
  let bits := bitmapTiles ba ++ bitmapTiles bb
  let pair := [ta, tb, ta ^^^ 2, tb ^^^ 2]
  if !configured ca || !configured cb || bits.any (fun t => !configured (c.ctl t)) then some 1
  else if tileCols ca ≠ tileRows cb ∨ tileCols ca % 16 ≠ 0 ∨ 32 < tileCols cb
      ∨ bits.any (fun t => decide (tileBytes (c.ctl t) * 8 < k)) then some 2
  else if tileFloat ca != tileFloat cb then some 3
  else if loop ∧ (tb = ta ∨ tb = ta ^^^ 2) then some 4
  else if loop ∧ bits.any (fun t => pair.contains t) then some 6
  else none

/-- A matrix address (R138): its scratchpad offset when `n` bytes from there on lie in the issuing core's scratchpad. -/
def matrixOffset (s : State) (u : Unit) (acc : Access) (va : W64) (n : Nat) : Except Trap Nat :=
  match place s u acc .matrix va with
  | .error c => .error (accessTrap va acc c)
  | .ok (pa, _) =>
    let off := pa - scratchPa u.id.core 0
    if off + n ≤ Config.scratchBytes then .ok off else .error (accessTrap va acc 8)

/-- Offsets of several steps or rows, or the first trap. -/
def matrixOffsets (s : State) (u : Unit) (acc : Access) (n : Nat) : List W64 → Except Trap (List Nat)
  | [] => .ok []
  | va :: vas =>
    match matrixOffset s u acc va n with
    | .error t => .error t
    | .ok off =>
      match matrixOffsets s u acc n vas with
      | .error t => .error t
      | .ok offs => .ok (off :: offs)

/-- The waits of R139 step 7: tiles and accumulators full, and a free entry in each target harrow. -/
def harrowReady (s : State) (cores tiles accs : List Nat) : Bool :=
  cores.all (fun n =>
    let c := s.coreAt n
    tiles.all c.fullT && accs.all c.fullA && c.harrow.length < Config.harrowQueue)

/-- Registers that a command will produce, marked empty. -/
def harrowEmpty (tiles accs : List Nat) (c : Core) : Core :=
  accs.foldl Core.emptyA (tiles.foldl Core.emptyT c)

/-- A change to each core named. -/
def mapCores (s : State) (cores : List Nat) (f : Core → Core) : State :=
  cores.foldl (fun s n => s.setCore (f (s.coreAt n))) s

/-- Scratchpad bytes that a command loads on each of its cores: offsets and lengths (R143, R146). -/
def harrowLoads : HarrowOp → List (Nat × Nat)
  | .tld _ off ctl => [(off, tileBytes ctl)]
  | .mloop _ _ _ ca cb offs _ _ => offs.flatMap (fun p => [(p.1, tileBytes ca), (p.2, tileBytes cb)])
  | _ => []

/-- Whether a command loads poisoned words of a core's scratchpad. -/
def poisonedLoads (s : State) (core : Nat) (op : HarrowOp) : Bool :=
  (harrowLoads op).any (fun p => poisoned s (scratchPa core p.1) p.2)

/-- The format of a TOUT type code (R141). -/
def toutFormat (ty : Nat) : Format := formatOf (if ty = 2 then .f16 else if ty = 3 then .bf16 else .f32)
def toutBytes (ty : Nat) : Nat := if ty < 2 then 4 else 2

/-- Rows that a TOUT writes, or 64-byte pieces that a TST writes. -/
def harrowRows : HarrowOp → Nat
  | .tst _ _ _ ctl => (tileBytes ctl + 63) / 64
  | .tout _ rows _ _ _ _ _ => rows.length
  | _ => 0

/-- Where a row of a TST or TOUT goes: its offset and length. -/
def rowPlace (op : HarrowOp) (k : Nat) : Nat × Nat :=
  match op with
  | .tst _ off _ ctl => (off + 64 * k, min 64 (tileBytes ctl - 64 * k))
  | .tout _ rows cols ty _ _ _ => ((rows.getD k (0, 0)).2, cols * toutBytes ty)
  | _ => (0, 0)

/-- Log entries of one such row, and of all that a command writes on a core (R152). -/
def rowEntries (op : HarrowOp) (k : Nat) : Nat := let p := rowPlace op k; (wordPieces p.1 p.2).length
def harrowEntries (op : HarrowOp) : Nat := (List.range (harrowRows op)).foldl (fun n k => n + rowEntries op k) 0

/-- A harrow command queued on cores and, when counted, added to MATRIX once for all of them (R29, R137). Counters hold at
most 255 (R30). A poisoned tile, accumulator or scratchpad word that the command reads is class 14 (R363). Room in the log for all that
it will append is made here, or class 12 raised, so that the harrow itself never waits for any (R137, R355). -/
def harrowQueue (s : State) (x : Issue) (cores tiles accs : List Nat) (emptyTiles : List Nat) (emptyAccs : List Nat)
    (counted : Bool) (op : HarrowOp) (prep : Core → Core) : Done :=
  if !harrowReady s cores tiles accs || (counted && 255 ≤ x.unit.count 1) then .stall
  else if cores.any (fun n =>
      let c := s.coreAt n
      tiles.any (fun t => c.lostT t && !emptyTiles.contains t) || (counted && accs.any c.lostA) || poisonedLoads s n op) then
    .trap (poisonTrap 0)
  else withRoom s x.unit (cores.length * harrowEntries op) (fun s u =>
    let (id, s) := s.fresh
    let u := if counted then addOp u 1 id cores.length false else u
    let cmd : HarrowCommand :=
      { unit := x.unit.id, op := op, step := 0, blk := 0, win := x.unit.winno
        retireId := if counted then some id else none, satSlice := x.low.idx, pc := x.pc, room := harrowEntries op, withheld := none }
    .seq (mapCores s cores (fun c => let c := harrowEmpty emptyTiles emptyAccs (prep c); { c with harrow := c.harrow ++ [cmd] })) u)

/-- TCFG (R142): the word written at issue. -/
def execTcfg (o : WArgs) (s : State) : Host.Outcome State Fault Refusal :=
  issue (.tcfg o) s (fun x =>
    let c := s.coreAt x.unit.id.core
    if !c.fullT o.d.toNat then .stall
    else
      let fmt := o.sec.toNat
      let bexp := if fmt < 2 then 0 else (x.low.getS o.a).toNat % 2 ^ 9
      let w := tileControl fmt (o.imm >>> 9).toNat (o.imm >>> 2 &&& 0x7F).toNat bexp
      .seq (s.setCore (c.putCtl o.d.toNat w)) x.unit)

/-- TLD and TST (R143). -/
def tileMove (i : Instr) (o : WArgs) (load : Bool) (s : State) : Host.Outcome State Fault Refusal :=
  issue i s (fun x =>
    let t := o.d.toNat
    let ctl := (s.coreAt x.unit.id.core).ctl t
    let va := x.low.getS o.a + offset16 o.imm
    let acc : Access := if load then .read else .write
    if !configured ctl then .trap (engineTrap 1)
    else if va.toNat % 64 ≠ 0 then .trap (alignTrap va)
    else match matrixOffset s x.unit acc va (tileBytes ctl) with
      | .error t => .trap t
      | .ok off =>
        let op : HarrowOp := if load then .tld t off ctl else .tst t off va ctl
        harrowQueue (tlbAfter s x.unit [va]) x [x.unit.id.core] [t] [] (if load then [t] else []) [] true op id)

def execTld (o : WArgs) (s : State) : Host.Outcome State Fault Refusal := tileMove (.tld o) o true s
def execTst (o : WArgs) (s : State) : Host.Outcome State Fault Refusal := tileMove (.tst o) o false s

/-- TZERO (R144): on every core of the span, not counted. -/
def execTzero (o : WArgs) (s : State) : Host.Outcome State Fault Refusal :=
  issue (.tzero o) s (fun x =>
    let a := o.d.toNat
    harrowQueue s x (spanCores s x.unit x.low.span) [] [a] [] [a] false (.tzero a) id)

/-- MMA (R145): one K-step on the issuing core. -/
def execMma (o : WArgs) (s : State) : Host.Outcome State Fault Refusal :=
  issue (.mma o) s (fun x =>
    let c := s.coreAt x.unit.id.core
    let ta := o.a.toNat
    let tb := o.b.toNat
    match matrixCause c ta tb x.low.bitsA x.low.bitsB (tileCols (c.ctl ta)) false with
    | some n => .trap (engineTrap n)
    | none =>
      harrowQueue s x [x.unit.id.core] ([ta, tb] ++ bitTiles x) [o.d.toNat] [] [o.d.toNat] true
        (.mma o.d.toNat ta tb (c.ctl ta) (c.ctl tb) x.low.bitsA x.low.bitsB) id)

/-- Step offsets of an MLOOP operand: its steps lie at fixed distances from the offset of the first (R146); every step is translated, and
lies within the scratchpad (R138, R139). -/
def loopOffsets (s : State) (u : Unit) (n inc bytes : Nat) (base : W64) : Except Trap (List Nat) :=
  let vas := (List.range n).map (fun j => base + BitVec.ofNat 64 (j * inc * 64))
  match matrixOffsets s u .read bytes vas with
  | .error t => .error t
  | .ok offs =>
    let at_ (j : Nat) : Nat := offs.headD 0 + j * inc * 64
    match (List.range n).find? (fun j => decide (Config.scratchBytes < at_ j + bytes)) with
    | some j => .error (accessTrap (base + BitVec.ofNat 64 (j * inc * 64)) .read 8)
    | none => .ok ((List.range n).map at_)

/-- The four tiles of an MLOOP. -/
def loopTiles (o : WArgs) : List Nat := [o.d.toNat / 8, o.xf.toNat % 8, o.d.toNat / 8 ^^^ 2, o.xf.toNat % 8 ^^^ 2]

/-- MLOOP (R146): n K-steps on every core of the span. Fields as R141 has them. Of several operands or steps that fail one check, A's come
before B's and earlier steps before later ones (DESIGN CHOICE, log entry 24). -/
def execMloop (o : WArgs) (s : State) : Host.Outcome State Fault Refusal :=
  issue (.mloop o) s (fun x =>
    let c := s.coreAt x.unit.id.core
    let ta := o.d.toNat / 8
    let a := o.d.toNat % 4
    let tb := o.xf.toNat % 8
    let ca := c.ctl ta
    let cb := c.ctl tb
    let n := o.sec.toNat + 1
    let pair := loopTiles o
    let incA := (o.imm >>> 8).toNat
    let incB := (o.imm &&& 0xFF).toNat
    let steps (base : W64) (inc : Nat) : List W64 := (List.range n).map (fun j => base + BitVec.ofNat 64 (j * inc * 64))
    match matrixCause c ta tb x.low.bitsA x.low.bitsB (n * tileCols ca) true with
    | some k => .trap (engineTrap k)
    | none =>
      if (x.low.getS o.a).toNat % 64 ≠ 0 then .trap (alignTrap (x.low.getS o.a))
      else if (x.low.getS o.b).toNat % 64 ≠ 0 then .trap (alignTrap (x.low.getS o.b))
      else match loopOffsets s x.unit n incA (tileBytes ca) (x.low.getS o.a), loopOffsets s x.unit n incB (tileBytes cb) (x.low.getS o.b) with
        | .error t, _ => .trap t
        | _, .error t => .trap t
        | .ok pas, .ok pbs =>
          harrowQueue (tlbAfter s x.unit (steps (x.low.getS o.a) incA ++ steps (x.low.getS o.b) incB)) x
            (spanCores s x.unit x.low.span) (loopTiles o ++ bitTiles x) [a] pair [a] true
            (.mloop a ta tb ca cb (pas.zip pbs) x.low.bitsA x.low.bitsB)
            (fun c => (((c.putCtl ta ca).putCtl (ta ^^^ 2) ca).putCtl tb cb).putCtl (tb ^^^ 2) cb))

/-- MSPAN (R147): in every executing slice. -/
def execMspan (o : WArgs) (s : State) : Host.Outcome State Fault Refusal :=
  issue (.mspan o) s (fun x =>
    let m := (o.imm >>> 13).toNat + 1
    let n := (o.imm >>> 10 &&& 7).toNat + 1
    let base := (o.imm &&& 0x7F).toNat
    let cores := ((s.team? x.unit.team).map (fun t => t.cores.length)).getD 1
    if cores < base + m * n then .trap (engineTrap 5)
    else .seq s (x.unit.mapSlices x.js (fun t => { t with span := .grid m n base })))

def execMspanSelf (o : WArgs) (s : State) : Host.Outcome State Fault Refusal :=
  issue (.mspanSelf o) s (fun x => .seq s (x.unit.mapSlices x.js (fun t => { t with span := .self })))

/-- TBITS (R149): operand A or B by SEC[0], in every executing slice. -/
def setBits (o : WArgs) (x : Issue) (b : Bitmap) : Unit :=
  x.unit.mapSlices x.js (fun t => if o.sec.getLsbD 0 then { t with bitsB := b } else { t with bitsA := b })

def execTbitsNone (o : WArgs) (s : State) : Host.Outcome State Fault Refusal :=
  issue (.tbitsNone o) s (fun x => .seq s (setBits o x .none))
def execTbitsSeed (o : WArgs) (s : State) : Host.Outcome State Fault Refusal :=
  issue (.tbitsSeed o) s (fun x => .seq s (setBits o x (.seed (x.low.getS o.a) (x.low.getS o.b) o.imm)))
/-- The tile named is not looked at (log entry 24). -/
def execTbitsTile (o : WArgs) (s : State) : Host.Outcome State Fault Refusal :=
  issue (.tbitsTile o) s (fun x => .seq s (setBits o x (.tile o.d.toNat)))

/-- The rounding mode code of a field value. -/
def rmOfNat (n : Nat) : RmCode :=
  match n with | 1 => .rne | 2 => .rtz | 3 => .rup | 4 => .rdn | 5 => .rna | _ => .dyn

/-- TOUT (R150): sB = s63 means a pitch of cols × element bytes. -/
def execTout (o : WArgs) (s : State) : Host.Outcome State Fault Refusal :=
  issue (.tout o) s (fun x =>
    let ty := (o.imm >>> 12).toNat
    let es := toutBytes ty
    let rows := (o.imm >>> 2 &&& 0x3F).toNat + 1
    let cols := o.sec.toNat + 1
    let va := x.low.getS o.a
    let pitch : W64 := if o.b = 63 then BitVec.ofNat 64 (cols * es) else x.low.getS o.b
    let vas := (List.range rows).map (fun i => va + BitVec.ofNat 64 i * pitch)
    if va.toNat % es ≠ 0 ∨ pitch.toNat % es ≠ 0 then .trap (alignTrap va)
    else match matrixOffsets s x.unit .write (cols * es) vas with
      | .error t => .trap t
      | .ok offs =>
        harrowQueue (tlbAfter s x.unit vas) x (spanCores s x.unit x.low.span) [] [o.d.toNat] [] [] true
          (.tout o.d.toNat (vas.zip offs) cols ty (o.imm >>> 9 &&& 7).toNat (o.imm.getLsbD 8) x.low.fpctl) id)

/-! ### The work of a queued command -/

/-- Bytes of the issuing gang's core, or of a span member's, from an offset (R148, R151). -/
def harrowBytes (s : State) (cmd : HarrowCommand) (core off n : Nat) : List Byte :=
  let pa := scratchPa core off
  match s.unit? cmd.unit with
  | some u => if u.id.core = core then (List.range n).map (fun i => engineByte s u (pa + i)) else s.mem.readBytes pa n
  | none => s.mem.readBytes pa n

/-- K-steps of a command, and blocks of one step (R145, R146). -/
def harrowSteps : HarrowOp → Nat
  | .mma _ _ _ _ _ _ _ => 1
  | .mloop _ _ _ _ _ offs _ _ => offs.length
  | _ => 0
def harrowBlocks : HarrowOp → Nat
  | .mma _ _ _ ca _ _ _ => tileCols ca / 16
  | .mloop _ _ _ ca _ _ _ _ => tileCols ca / 16
  | _ => 0

/-- Tiles of step j of an MLOOP (R146). -/
def loopPair (ta tb j : Nat) : Nat × Nat := if j % 2 = 0 then (ta, tb) else (ta ^^^ 2, tb ^^^ 2)

/-- Offsets and lengths that the next piece of a command's work loads. -/
def nextLoads (cmd : HarrowCommand) : List (Nat × Nat) :=
  match cmd.op with
  | .tld _ off ctl => [(off, tileBytes ctl)]
  | .mloop _ _ _ ca cb offs _ _ =>
    if cmd.blk = 0 ∧ cmd.step < offs.length then
      let p := offs.getD cmd.step (0, 0)
      [(p.1, tileBytes ca), (p.2, tileBytes cb)]
    else []
  | _ => []

/-- The tiles and accumulators that the next piece of a command's work reads. -/
def nextReads (cmd : HarrowCommand) : List Nat × List Nat :=
  if harrowSteps cmd.op ≤ cmd.step ∧ harrowRows cmd.op ≤ cmd.step then ([], [])
  else match cmd.op with
    | .tst t _ _ _ => ([t], [])
    | .mma a ta tb _ _ ba bb => ([ta, tb] ++ bitmapTiles ba ++ bitmapTiles bb, [a])
    | .mloop a ta tb _ _ _ ba bb =>
      let p := loopPair ta tb cmd.step
      ((if cmd.blk = 0 then [] else [p.1, p.2]) ++ bitmapTiles ba ++ bitmapTiles bb, [a])
    | .tout a _ _ _ _ _ _ => ([], [a])
    | _ => ([], [])

/-- Whether that piece reads poison (R363). -/
def harrowPoisoned (s : State) (c : Core) (cmd : HarrowCommand) : Bool :=
  (nextLoads cmd).any (fun p => poisoned s (scratchPa c.num p.1) p.2) || (nextReads cmd).1.any c.lostT || (nextReads cmd).2.any c.lostA

/-- The next block of the running K-step on a core, the step's tiles loaded first (R146, R154). -/
def harrowBlock (s : State) (c : Core) (cmd : HarrowCommand) : Core :=
  match cmd.op with
  | .mma a ta tb ca cb ba bb => blockStep c a ta tb ca cb ba bb 0 cmd.blk
  | .mloop a ta tb ca cb offs ba bb =>
    let (pa, pb) := offs.getD cmd.step (0, 0)
    let (t1, t2) := loopPair ta tb cmd.step
    let c := if cmd.blk = 0 then
        loadTile (loadTile c t1 (harrowBytes s cmd c.num pa (tileBytes ca))) t2 (harrowBytes s cmd c.num pb (tileBytes cb))
      else c
    blockStep c a t1 t2 ca cb ba bb (cmd.step * tileCols ca) cmd.blk
  | _ => c

/-- The command after one block: the next block, or the first of the next step. -/
def HarrowCommand.nextBlock (cmd : HarrowCommand) : HarrowCommand :=
  if cmd.blk + 1 < harrowBlocks cmd.op then { cmd with blk := cmd.blk + 1 } else { cmd with blk := 0, step := cmd.step + 1 }

/-- The bytes of a TOUT's row, and whether a conversion clamped (R84, R150). -/
def toutRow (c : Core) (a row cols ty rm : Nat) (sat : Bool) (fpctl : W32) : List Byte × Bool :=
  (List.range cols).foldl (fun r j =>
    let d := (toutFormat ty).deliver (rmFor fpctl (rmOfNat rm)) sat (Acc.val (accGet (c.acc a) (row * 32 + j)))
    (r.1 ++ leBytes d.1 (toutBytes ty), r.2 || d.2.getLsbD 6)) ([], false)

/-- The next row of a TST or TOUT: its address, offset and bytes, and whether it clamped. -/
def harrowRow (c : Core) (cmd : HarrowCommand) : W64 × Nat × List Byte × Bool :=
  match cmd.op with
  | .tst t off va _ =>
    let k := 64 * cmd.step
    (va + BitVec.ofNat 64 k, off + k, (c.tile t).readBytes k (rowPlace cmd.op cmd.step).2, false)
  | .tout a rows cols ty rm sat fpctl =>
    let (va, off) := rows.getD cmd.step (0, 0)
    let r := toutRow c a cmd.step cols ty rm sat fpctl
    (va, off, r.1, r.2)
  | _ => (0, 0, [], false)

/-- What a finished command leaves on its core: the loaded tile, the zeroed accumulator, the registers full (R143-R146). -/
def harrowDone (s : State) (c : Core) (cmd : HarrowCommand) : Core :=
  match cmd.op with
  | .tld t off ctl => (loadTile c t (harrowBytes s cmd c.num off (tileBytes ctl))).fillT t
  | .tst _ _ _ _ => c
  | .tzero a => { (c.putAcc a []).fillA a with aLost := c.aLost &&& ~~~(1#4 <<< a) }
  | .mma a _ _ _ _ _ _ => c.fillA a
  | .mloop a ta tb _ _ _ _ _ => (([ta, tb, ta ^^^ 2, tb ^^^ 2].foldl Core.fillT c)).fillA a
  | .tout _ _ _ _ _ _ _ => c

/-- A command that stops: the registers that it was to produce are full again. -/
def harrowStopped (c : Core) (op : HarrowOp) : Core :=
  match op with
  | .tld t _ _ => c.fillT t
  | .mma a _ _ _ _ _ _ => c.fillA a
  | .mloop a ta tb _ _ _ _ _ => ([ta, tb, ta ^^^ 2, tb ^^^ 2].foldl Core.fillT c).fillA a
  | _ => c

/-- SATD of the lowest slice of the issuing group (R150); a harrow member has none. -/
def raiseSatd (cmd : HarrowCommand) (u : Unit) : Unit :=
  if u.id.kind = .harrow then u else u.mapSlices [cmd.satSlice] (fun t => t.raise Flags.satd)

end Sys2Proof.Machine
end

