-- ==== Sys2Proof/Machine/Moves.lean ====
section
/-! DEFINITION. Masks and moves but for the stream read (06_arithmetic_instructions R115-R117). -/

namespace Sys2Proof.Machine

/-! ### Masks -/

/-- The gang view of a mask operand: slices that do not execute read as zero (R116, R21). -/
def maskView (x : Issue) (r : Reg) : LaneSet := gangView x.slices (fun t => t.getK r.toNat)

/-- A mask instruction: each executing slice writes its own four bits (R116). -/
def maskOp (i : Instr) (o : WArgs) (f : Issue → LaneSet) (s : State) : Host.Outcome State Fault Refusal :=
  issue i s (fun x => .seq s (x.unit.mapSlices x.js (fun t => t.putK o.d.toNat (laneBits (f x) t.idx))))

def execKand (o : WArgs) (s : State) : Host.Outcome State Fault Refusal :=
  maskOp (.kand o) o (fun x => maskView x o.a &&& maskView x o.b) s
def execKor (o : WArgs) (s : State) : Host.Outcome State Fault Refusal :=
  maskOp (.kor o) o (fun x => maskView x o.a ||| maskView x o.b) s
def execKxor (o : WArgs) (s : State) : Host.Outcome State Fault Refusal :=
  maskOp (.kxor o) o (fun x => maskView x o.a ^^^ maskView x o.b) s
def execKnot (o : WArgs) (s : State) : Host.Outcome State Fault Refusal :=
  maskOp (.knot o) o (fun x => ~~~(maskView x o.a)) s

/-- KMOV's four forms by XF: IMM [3] with HI [2], FROMS [1], TOS [0] (R115). -/
def execKmov (o : WArgs) (s : State) : Host.Outcome State Fault Refusal :=
  if o.xf.getLsbD 3 then
    maskOp (.kmov o) o (fun _ => if o.xf.getLsbD 2 then o.imm.setWidth 32 <<< 16 else o.imm.setWidth 32) s
  else if o.xf.getLsbD 1 then
    issue (.kmov o) s (fun x => .seq s (x.unit.mapSlices x.js (fun t =>
      t.putK o.d.toNat (laneBits ((t.getS o.a).setWidth 32) t.idx))))
  else if o.xf.getLsbD 0 then
    issue (.kmov o) s (fun x => .seq s (x.unit.mapSlices x.js (fun t => t.putS o.d ((maskView x o.a).setWidth 64))))
  else maskOp (.kmov o) o (fun x => maskView x o.a) s

def execKpop (o : WArgs) (s : State) : Host.Outcome State Fault Refusal :=
  issue (.kpop o) s (fun x => .seq s (x.unit.mapSlices x.js (fun t =>
    t.putS o.d (BitVec.ofNat 64 (popcount (maskView x o.a).toNat 32)))))

/-! ### Moves -/

/-- VMOV, and VMOV.P on pairs: bits move unchanged. -/
def execVmov (o : WArgs) (s : State) : Host.Outcome State Fault Refusal :=
  let ty : TCode := if o.sec = 2 then .n64 else .n32
  issue (.vmov o) s (fun x => moveLanes s x o.km ty o.d (fun t l => t.elem ty o.a l))

/-- The value that VSPLAT writes: sA, or the immediate sign-extended, or with HIGH at the top of the element. -/
def splatValue (o : WArgs) (t : Slice) : Nat :=
  let pair := o.sec.getLsbD 1
  if o.ib then
    (if o.sec.getLsbD 0 then o.imm.toNat * 2 ^ (if pair then 48 else 16) else (o.imm.signExtend 64).toNat)
  else (t.getS o.a).toNat

def execVsplat (o : WArgs) (s : State) : Host.Outcome State Fault Refusal :=
  let ty : TCode := if o.sec.getLsbD 1 then .n64 else .n32
  issue (.vsplat o) s (fun x => moveLanes s x o.km ty o.d (fun t _ => splatValue o t % 2 ^ widthOf ty))

/-- VEXTR: a lane's element, sign-extended, in sD of every executing slice; the lane is read as n32 (R110, R117). -/
def execVextr (o : WArgs) (s : State) : Host.Outcome State Fault Refusal :=
  let ty : TCode := if o.sec = 2 then .i64 else .i32
  issue (.vextr o) s (fun x => .seq s (x.unit.mapSlices x.js (fun t =>
    let lane := if o.ib then o.imm.toNat else (t.getS o.b).toNat % 2 ^ 32
    t.putS o.d (word64 (toInt (widthOf ty) (laneAt x.slices o.km ty o.a lane))))))

def execVlane (o : WArgs) (s : State) : Host.Outcome State Fault Refusal :=
  issue (.vlane o) s (fun x => moveLanes s x o.km .n32 o.d (fun t l => laneNo t l))

end Sys2Proof.Machine
end

