-- ==== Sys2Proof/Machine/SfuBounds.lean ====
section
/-! DEFINITION. The exact values that bound the special-function unit (05_numbers R87), in fixed point with 320 fraction bits, to
within 2^-300. -/

namespace Sys2Proof.Machine

open Config (SfuFn)

/-- 1, ln 2, 2π and 2/√π in fixed point. -/
def fxOne : Nat := 2 ^ 320
def fxLn2 : Nat := 0xb17217f7d1cf79abc9e3b39803f2f6af40f343267298b62d8a0d175b8baafa2be7b876206debac98
def fxTwoPi : Nat := 0x6487ed5110b4611a62633145c06e0e68948127044533e63a0105df531d89cd9128a5043cc71a026ef
def fxTwoOverSqrtPi : Nat := 0x120dd750429b6d11ae3a914fed7fd8688281341d7587cea2e7342b06199cc416180eb39f0b24e1e22

/-- `m × 2^e` in fixed point, cut to its bits. -/
def toFx (m : Nat) (e : Int) : Nat := if 0 ≤ e + 320 then m * 2 ^ (e + 320).toNat else m / 2 ^ (-(e + 320)).toNat

/-! ### Series -/

/-- The sum of `r^n / n!` from a term on. -/
def expSum (r : Nat) : Nat → Nat → Nat → Nat
  | 0, _, _ => 0
  | k + 1, n, t => t + expSum r k (n + 1) (t * r / fxOne / n)

/-- The alternating sum whose terms fall by `q / (n (n + 1))`, n rising by two: sine from n = 2, cosine from n = 1. -/
def circleSum (q : Int) : Nat → Nat → Int → Int
  | 0, _, _ => 0
  | k + 1, n, t => t + circleSum q k (n + 2) (-(t * q / fxOne / (n * (n + 1) : Nat)))

/-- The sum of `u^n / n` over odd n. -/
def atanhSum (q : Nat) : Nat → Nat → Nat → Nat
  | 0, _, _ => 0
  | k + 1, n, t => t / n + atanhSum q k (n + 2) (t * q / fxOne)

/-- The sum of `2^n y^(2n+1) / (1 · 3 ⋯ (2n+1))`, n odd here. -/
def erfSum (q : Nat) : Nat → Nat → Nat → Nat
  | 0, _, _ => 0
  | k + 1, n, t => t + erfSum q k (n + 2) (t * 2 * q / fxOne / n)

/-! ### Functions -/

/-- 1 / (m × 2^e), for e up to 320. -/
def fxRcp (m : Nat) (e : Int) : Nat := 2 ^ (320 - e).toNat / m
/-- 1/√(m × 2^e), for e up to 640. -/
def fxRsq (m : Nat) (e : Int) : Nat :=
  let q := 2 ^ (640 - e).toNat / m
  sqrtBits q (bitLen q / 2 + 1) 0
/-- e^r for r below ln 2, which lies below 2. -/
def fxExp (r : Nat) : Nat := min (expSum r 80 1 fxOne) (2 * fxOne - 1)
/-- e^−y; 0 where it lies far below the smallest subnormal. -/
def fxExpNeg (y : Nat) : Nat := if 250 * fxOne ≤ y then 0 else fxOne * fxOne / fxExp (y % fxLn2) / 2 ^ (y / fxLn2)
/-- 2^x for x from −150 to 128. -/
def fxExp2 (n : Bool) (m : Nat) (e : Int) : Nat :=
  let x : Int := if n then -(toFx m e : Int) else toFx m e
  let whole : Int := x / fxOne
  let r := fxExp ((x % fxOne).toNat * fxLn2 / fxOne)
  if 0 ≤ whole then r * 2 ^ whole.toNat else r / 2 ^ (-whole).toNat
/-- log2 of m × 2^e. -/
def fxLog2 (m : Nat) (e : Int) : Int :=
  let f := m * fxOne / 2 ^ (bitLen m - 1)
  let u := (f - fxOne) * fxOne / (f + fxOne)
  (e + bitLen m - 1) * fxOne + (2 * atanhSum (u * u / fxOne) 110 1 u * fxOne / fxLn2 : Nat)
/-- A value between −1 and 1. -/
def unitFx (x : Int) : Int := max (-(fxOne : Int)) (min fxOne x)
def fxSin (y : Nat) : Int := let z : Int := (y % fxTwoPi : Nat); unitFx (circleSum (z * z / fxOne) 60 2 z)
def fxCos (y : Nat) : Int := let z : Int := (y % fxTwoPi : Nat); unitFx (circleSum (z * z / fxOne) 60 1 fxOne)
/-- A value that lies below 1, however near. -/
def belowOne (x : Nat) : Nat := min x (fxOne - 1)
def fxTanh (y : Nat) : Nat := let e := fxExpNeg (2 * y); belowOne ((fxOne - e) * fxOne / (fxOne + e))
def fxSigm (n : Bool) (y : Nat) : Nat := let e := fxExpNeg y; belowOne ((if n then e else fxOne) * fxOne / (fxOne + e))
def fxErf (y : Nat) : Nat :=
  if 7 * fxOne ≤ y then belowOne fxOne
  else
    let q := y * y / fxOne
    belowOne (erfSum q 250 3 y * fxExpNeg q / fxOne * fxTwoOverSqrtPi / fxOne)

/-! ### Bounds -/

/-- The gap between the two f32 values nearest a value (R87), in fixed point. At a power of two, and above it by less than half the gap below it,
the nearest two are the power and the value below. -/
def fxUlp (v : Int) : Nat :=
  let b := bitLen v.natAbs
  2 ^ max (if v.natAbs - 2 ^ (b - 1) < 2 ^ (b - 26) then b - 25 else b - 24) 171

/-- The exact value of a function at a finite operand other than zero, and its bound (R87); none where there is none. -/
def sfuBound (fn : SfuFn) (n : Bool) (m : Nat) (e : Int) : Option (Int × Nat) :=
  let y := toFx m e
  let signed (v : Nat) : Int := if n then -(v : Int) else v
  let ulps (v : Int) : Option (Int × Nat) := some (v, 2 * fxUlp v)
  match fn with
  | .rcp => some (signed (fxRcp m e), fxUlp (signed (fxRcp m e)))
  | .rsq => some (fxRsq m e, fxUlp (fxRsq m e))
  | .exp2 => ulps (fxExp2 n m e)
  | .log2 => if fxOne ≤ 2 * y ∧ y ≤ 2 * fxOne then some (fxLog2 m e, 2 ^ 298) else ulps (fxLog2 m e)
  | .sin => if y ≤ 256 * fxOne then some (if n then -fxSin y else fxSin y, 2 ^ 298) else none
  | .cos => if y ≤ 256 * fxOne then some (fxCos y, 2 ^ 298) else none
  | .tanh => ulps (signed (fxTanh y))
  | .sigm => ulps (fxSigm n y)
  | .erf => ulps (signed (fxErf y))
  | _ => none

/-- An f32 magnitude in fixed point; infinity counts as 2^128. -/
def f32Fx (p : Nat) : Option Int :=
  match (formatOf .f32).decode p with
  | .num n m e _ => some (if n then -(toFx m e : Int) else toFx m e)
  | .inf n => some (if n then -(toFx 1 128 : Int) else toFx 1 128)
  | .nan _ => none

/-- Whether bits lie within a bound of a value, to the precision of the value. -/
def fxNear (p : Nat) (v : Int) (tol : Nat) : Bool :=
  match f32Fx p with
  | some w => decide ((w - v).natAbs ≤ tol + 2 ^ 20)
  | none => false

/-- The f32 value next below in magnitude. -/
def fxTrunc (v : Int) : Nat :=
  (formatOf .f32).signBit (v < 0) + (((formatOf .f32).place .rtz (v < 0) v.natAbs (-320) false).1).getD 0

end Sys2Proof.Machine
end

