-- ==== Sys2Proof/Machine/Sfu.lean ====
section
/-! DEFINITION. The special-function unit (05_numbers R87, R88; 06_arithmetic_instructions R106; R305). The f32 result is
the fixed mapping of R88, a free value kept within what the spec says of it (log entry 10). -/

namespace Sys2Proof.Machine

open Config (SfuFn)

/-- f32, in which the SFU computes (R106). -/
def f32 : Format := formatOf .f32

/-- The mapping's f32 result for an operand, under a sign where one is given. -/
def sfuRaw (fn : SfuFn) (x : Nat) (sign : Option Bool) : Nat :=
  let q := (Config.sfu fn (BitVec.ofNat 32 x)).toNat
  match sign with | some k => f32.signBit k + q % 2 ^ 31 | none => q

/-- That result where it lies within a bound of the exact value (R87); else the f32 value next to the exact one. -/
def sfuHeld (fn : SfuFn) (x : Nat) (sign : Option Bool) (v : Int) (tol : Nat) : Nat :=
  let p := sfuRaw fn x sign
  if fxNear p v tol then p else fxTrunc v

/-- The mapping's result within R87's bound. Where there is no bound the result lies within [−1, 1]. -/
def sfuBounded (fn : SfuFn) (x : Nat) (sign : Option Bool) (n : Bool) (m : Nat) (e : Int) : Nat :=
  match sfuBound fn n m e with
  | some (v, tol) => sfuHeld fn x sign v tol
  | none => if sfuRaw fn x sign % 2 ^ 31 ≤ 0x3F800000 then sfuRaw fn x sign else 0

/-- Whether a magnitude is a power of two, and of which exponent. -/
def powerOfTwo (m : Nat) (e : Int) : Option Int :=
  if m ≠ 0 ∧ m = 2 ^ (bitLen m - 1) then some (e + bitLen m - 1) else none

/-- Magnitude bits of 2^n in f32; 0 below the smallest subnormal. -/
def pow2Bits (n : Int) : Nat := ((f32.place .rtz false 1 n false).1).getD (f32.maxFinite + 1)

/-- FEXP2 of a finite value (R106, R305): exact for integral operands from -126 to 127. -/
def exp2Bits (x : Nat) (n : Bool) (m : Nat) (e : Int) : Nat :=
  let fl := (roundInt .rdn n m e false).1
  let whole := !(roundInt .rdn n m e false).2
  if 128 ≤ fl then f32.infBits false
  else if fl < -149 then 0
  else if whole ∧ -126 ≤ fl then pow2Bits fl
  else sfuBounded .exp2 x (some false) n m e

/-- FRCP of a finite value other than zero (R106, R305): exact for the powers of two from 2^-126 to 2^126. Beyond the largest finite
value R87 gives no bound; the result is that value or infinity, with no flag: the model's choice (log entry 10). -/
def rcpBits (x : Nat) (n : Bool) (m : Nat) (e : Int) : Nat :=
  let k := (powerOfTwo m e).getD 127
  if -126 ≤ k ∧ k ≤ 126 then f32.signBit n + pow2Bits (-k)
  else if fxRcp m e < 2 ^ 448 then sfuBounded .rcp x (some n) n m e
  else if sfuRaw .rcp x none % 2 ^ 31 = f32.maxFinite then f32.signBit n + f32.maxFinite else f32.infBits n

/-- 1.0 and 0.5 in f32. -/
def oneBits : Nat := 0x3F800000
def halfBits : Nat := 0x3F000000

/-- The f32 result and flags of a function at an operand that is not NaN (R106). -/
def sfu32 (fn : SfuFn) (x : Nat) : Val → Nat × Flags
  | .nan sg => (f32.qnan, if sg then Flags.nv else 0)
  | .inf n =>
    match fn with
    | .rcp => (f32.signBit n, 0)
    | .rsq => if n then (f32.qnan, Flags.nv) else (0, 0)
    | .sqrt | .log2 => if n then (f32.qnan, Flags.nv) else (f32.infBits false, 0)
    | .exp2 => (if n then 0 else f32.infBits false, 0)
    | .sin | .cos => (f32.qnan, Flags.nv)
    | .tanh | .erf => (f32.signBit n + oneBits, 0)
    | .sigm => (if n then 0 else oneBits, 0)
  | .num n m e _ =>
    if m = 0 then
      match fn with
      | .rcp | .rsq => (f32.infBits n, Flags.dz)
      | .log2 => (f32.infBits true, Flags.dz)
      | .exp2 | .cos => (oneBits, 0)
      | .sigm => (halfBits, 0)
      | _ => (f32.signBit n, 0)
    else
      match fn with
      | .rcp => (rcpBits x n m e, 0)
      | .rsq => if n then (f32.qnan, Flags.nv) else (sfuBounded fn x (some false) n m e, 0)
      | .sqrt => if n then (f32.qnan, Flags.nv) else f32.deliver .rne false (Val.sqrt (.num n m e false))
      | .exp2 => (exp2Bits x n m e, 0)
      | .log2 => if n then (f32.qnan, Flags.nv)
          else if powerOfTwo m e = some 0 then (0, 0) else (sfuBounded fn x none n m e, 0)
      | .sin | .cos => (sfuBounded fn x none n m e, 0)
      | .tanh | .erf => (sfuBounded fn x (some n) n m e, 0)
      | .sigm => (sfuBounded fn x (some false) n m e, 0)

/-- An SFU function under a type (R106): the operand read exactly into f32, the f32 result rounded once more, infinite results clamped
under S. FEXP2's OF and UF are those of its result in T. FTZ flushes no result: R123 keeps it from the SFU codes, which deliver the same bits (log entry 10). -/
def sfuOp (fn : SfuFn) (ty : TCode) (sat : Bool) (a : Nat) : Nat × Flags :=
  let f := formatOf ty
  let v := f.decode a
  let x := (f32.deliver .rne false v).1
  let r := sfu32 fn x (if isNan v then v else f32.decode x)
  let d := if f = f32 then (r.1, (0 : Flags)) else f.deliver .rne false (f32.decode r.1)
  let fl := r.2 ||| (if fn = .sqrt then d.2 &&& Flags.nx else 0)
  let res := f.decode d.1
  let finite : Bool := match v with | .num _ _ _ _ => true | _ => false
  let fl := if fn == .exp2 && finite then
      (match res with | .inf _ => fl ||| Flags.of | .num _ 0 _ _ => fl ||| Flags.uf | _ => fl) else fl
  match res with
  | .inf n => if sat then (f.signBit n + f.maxFinite, fl ||| Flags.satd) else (d.1, fl)
  | _ => (d.1, fl)

/-- An SFU instruction: the destination is emptied and filled once (R25, R106). -/
def sfuInstr (i : Instr) (o : PArgs) (fn : SfuFn) (s : State) : Host.Outcome State Fault Refusal :=
  issue i s (fun x => lanewise s x o.km (fun t l => sfuOp fn o.t o.s (t.elem o.t o.a l)) (queueElems o.t o.d false false))

def execFrcp (o : PArgs) (s : State) : Host.Outcome State Fault Refusal := sfuInstr (.frcp o) o .rcp s
def execFrsq (o : PArgs) (s : State) : Host.Outcome State Fault Refusal := sfuInstr (.frsq o) o .rsq s
def execFsqrt (o : PArgs) (s : State) : Host.Outcome State Fault Refusal := sfuInstr (.fsqrt o) o .sqrt s
def execFexp2 (o : PArgs) (s : State) : Host.Outcome State Fault Refusal := sfuInstr (.fexp2 o) o .exp2 s
def execFlog2 (o : PArgs) (s : State) : Host.Outcome State Fault Refusal := sfuInstr (.flog2 o) o .log2 s
def execFsin (o : PArgs) (s : State) : Host.Outcome State Fault Refusal := sfuInstr (.fsin o) o .sin s
def execFcos (o : PArgs) (s : State) : Host.Outcome State Fault Refusal := sfuInstr (.fcos o) o .cos s
def execFtanh (o : PArgs) (s : State) : Host.Outcome State Fault Refusal := sfuInstr (.ftanh o) o .tanh s
def execFsigm (o : PArgs) (s : State) : Host.Outcome State Fault Refusal := sfuInstr (.fsigm o) o .sigm s
def execFerf (o : PArgs) (s : State) : Host.Outcome State Fault Refusal := sfuInstr (.ferf o) o .erf s

end Sys2Proof.Machine
end

