-- ==== Sys2Proof/Machine/Xv.lean ====
section
/-! DEFINITION. Execute-vector and its companions (07_execute_vector R120-R132). -/

namespace Sys2Proof.Machine

/-- Fields of a lane descriptor (R120). -/
def xvOp (d : W32) : Nat := (d.extractLsb' 24 8).toNat
def xvSa (d : W32) : Nat := (d.extractLsb' 18 6).toNat
def xvSb (d : W32) : Nat := (d.extractLsb' 12 6).toNat
def xvSc (d : W32) : Nat := (d.extractLsb' 6 6).toNat
def xvMode (d : W32) : Nat := (d.extractLsb' 4 2).toNat

/-- Causes of a lane fault (R128). -/
def causeIllegal : Nat := 1
def causePrivileged : Nat := 2
def causeUnderflow : Nat := 3
def causeOverflow : Nat := 4
def causeReserved : Nat := 5

/-- The rows of R123: whether a code exists under a type, i32 or a float one. -/
def xvKnown (int : Bool) (c : Nat) : Bool :=
  c ≤ 0x0C || (0x10 ≤ c && c ≤ 0x16) || (0x50 ≤ c && c ≤ 0x53)
    || (if int then 0x30 ≤ c && c ≤ 0x3B else 0x20 ≤ c && c ≤ 0x2B)

/-- Operands of a code (R123). -/
def xvArity (c : Nat) : Nat :=
  match c with
  | 0x03 | 0x08 | 0x09 | 0x0B | 0x0C => 3
  | 0x06 | 0x07 | 0x0A | 0x36 | 0x37 | 0x38 => 1
  | 0x50 | 0x51 | 0x52 | 0x53 => 0
  | c => if 0x20 ≤ c ∧ c ≤ 0x2A then 1 else if 0xE0 ≤ c then 0 else 2

/-- A selector in a position that the code uses, or 56 where it uses none (R121). -/
def selectorOk (int used : Bool) (sel : Nat) : Bool :=
  if used then sel ≤ 60 && !(int && sel == 59) else sel == 56

/-- Distinct stack positions read by the used selectors (R122). -/
def stackReads (d : W32) : List Nat :=
  (((if 1 ≤ xvArity (xvOp d) then [xvSa d] else []) ++ (if 2 ≤ xvArity (xvOp d) then [xvSb d] else [])
    ++ (if 3 ≤ xvArity (xvOp d) then [xvSc d] else [])).filter (fun k => 48 ≤ k && k < 56)).map (fun k => k - 48) |>.eraseDups

/-- The cause of a lane fault, in the order of R126; 0 for none. `depth` is the lane's stack depth. -/
def xvCause (levelS int : Bool) (d : W32) (depth : Nat) : Nat :=
  let c := xvOp d
  let n := xvArity c
  let stackCode := decide (0x50 ≤ c ∧ c ≤ 0x53)
  let reads := stackReads d
  let pushes := bit01 (xvMode d == 1 || xvMode d == 2)
  if xvMode d = 3 ∨ d.extractLsb' 0 4 ≠ 0 then causeReserved
  else if 0xE0 ≤ c ∧ c ≤ 0xEF then
    if !levelS then causePrivileged
    else if 0xE4 ≤ c then causeIllegal
    else if xvSa d ≠ 56 ∨ xvSb d ≠ 56 ∨ xvSc d ≠ 56 then causeReserved
    else if Config.operandDepth < depth + pushes then causeOverflow
    else 0
  else if !xvKnown int c then causeIllegal
  else if !(selectorOk int (1 ≤ n) (xvSa d) && selectorOk int (2 ≤ n) (xvSb d) && selectorOk int (3 ≤ n) (xvSc d)) then
    causeReserved
  else if stackCode then
    if xvMode d ≠ 0 then causeReserved
    else if depth < (if c = 0x50 ∨ c = 0x52 then 1 else 2) then causeUnderflow
    else if (c = 0x50 ∨ c = 0x53) ∧ depth = Config.operandDepth then causeOverflow
    else 0
  else if reads.any (fun p => depth ≤ p) then causeUnderflow
  else if Config.operandDepth < depth - reads.length + pushes then causeOverflow
  else 0

/-- Integer lane codes (R123): the exact result, and whether S applies. -/
def xvInt (c : Nat) (a b d : Int) : Int × Bool :=
  let ua := wrapNat 32 a
  let sh := wrapNat 32 b % 32
  match c with
  | 0x00 => (a + b, true)
  | 0x01 => (a - b, true)
  | 0x02 => (a * b, true)
  | 0x03 => (a * b + d, true)
  | 0x04 => (min a b, false)
  | 0x05 => (max a b, false)
  | 0x06 => (-a, true)
  | 0x07 => (a.natAbs, true)
  | 0x08 => (if d ≠ 0 then a else b, false)
  | 0x09 => (min (max a b) d, false)
  | 0x0A => (a, false)
  | 0x0B => (d - a * b, true)
  | 0x0C => (a + d * (b - a), true)
  | 0x10 => (bit01 (a == b), false)
  | 0x11 => (bit01 (a != b), false)
  | 0x12 => (bit01 (decide (a < b)), false)
  | 0x13 => (bit01 (decide (a ≤ b)), false)
  | 0x14 => (bit01 (decide (b < a)), false)
  | 0x15 => (bit01 (decide (b ≤ a)), false)
  | 0x16 => (0, false)
  | 0x30 => (Nat.land ua (wrapNat 32 b), false)
  | 0x31 => (Nat.lor ua (wrapNat 32 b), false)
  | 0x32 => (Nat.xor ua (wrapNat 32 b), false)
  | 0x33 => (a * 2 ^ sh, false)
  | 0x34 => ((ua / 2 ^ sh : Nat), false)
  | 0x35 => (a / 2 ^ sh, false)
  | 0x36 => (-a - 1, false)
  | 0x37 => (leadingZeros 32 ua, false)
  | 0x38 => (popcount ua 32, false)
  | 0x39 => ((a * b) / 2 ^ 32, false)
  | 0x3A => ((ua * 2 ^ sh + ua * 2 ^ sh / 2 ^ 32 : Nat), false)
  | _ => ((ua / 2 ^ sh + ua * 2 ^ (32 - sh) : Nat), false)

/-- The result of an integer lane code: wrapped, or clamped under S with SATD. -/
def xvIntResult (sat : Bool) (r : Int × Bool) : Nat × Flags := fitInt .i32 (sat && r.2) r.1

/-- The SFU function of a lane code. -/
def xvSfu (c : Nat) : Option Config.SfuFn :=
  match c with
  | 0x20 => some .rcp | 0x21 => some .rsq | 0x22 => some .sqrt | 0x23 => some .exp2 | 0x24 => some .log2
  | 0x25 => some .sin | 0x26 => some .cos | 0x27 => some .tanh | 0x28 => some .sigm | 0x29 => some .erf
  | _ => none

/-- 1 and 0 in a format. -/
def oneIn (f : Format) : Nat := (f.deliver .rne false (Val.ofInt 1)).1

/-- The sign of a float replaced without rounding; a NaN becomes canonical (R62, R100). -/
def withSign (f : Format) (neg : Bool) (a : Nat) : Nat × Flags :=
  copySign f 0 a (f.signBit neg)

/-- A sign that bits hold. -/
def signBitOf (f : Format) (a : Nat) : Bool := a / 2 ^ (f.ebits + f.fbits) % 2 == 1

/-- S on a result that passed an infinity on without rounding: the largest finite value of its sign, with SATD (R67, R123). -/
def clampInf (f : Format) (sat : Bool) (r : Nat × Flags) : Nat × Flags :=
  match f.decode r.1 with
  | .inf n => if sat then (f.signBit n + f.maxFinite, r.2 ||| Flags.satd) else r
  | _ => r

/-- Float lane codes on operands already flushed (R123): bits and flags. -/
def xvFloat (f : Format) (rm : Rm) (sat ftz : Bool) (c a b d : Nat) : Nat × Flags :=
  let va := f.decode a
  let vb := f.decode b
  let vd := f.decode d
  let out (v : Val) : Nat × Flags := f.flushOut ftz (f.deliver rm sat v)
  let clamp (r : Nat × Flags) : Nat × Flags := clampInf f sat r
  let sig := if sigOf va || sigOf vb || sigOf vd then Flags.nv else 0
  let cmp (cc : Nat) : Nat × Flags := let r := fcmp cc va vb; (if r.1 then oneIn f else 0, r.2)
  match c with
  | 0x00 => out (va.add rm vb)
  | 0x01 => out (va.add rm vb.neg)
  | 0x02 => out (va.mul vb)
  | 0x03 => out (Val.fma rm va vb vd)
  | 0x04 => clamp (fminmax f false a b)
  | 0x05 => clamp (fminmax f true a b)
  | 0x06 => withSign f (!signBitOf f a) a
  | 0x07 => withSign f false a
  | 0x08 =>
    let take := match vd with | .num _ m _ _ => m != 0 | .inf _ => true | .nan _ => false
    let r := out (if take then va else vb)
    (r.1, r.2 ||| sig)
  | 0x09 =>
    let r := fminmax f true a b
    let q := fminmax f false r.1 d
    clamp (q.1, r.2 ||| q.2)
  | 0x0A => out va
  | 0x0B => out (vd.add rm (va.mul vb).neg)
  | 0x0C => out (va.add rm (vd.mul (vb.add rm va.neg)))
  | 0x10 => cmp 0 | 0x11 => cmp 1 | 0x12 => cmp 2 | 0x13 => cmp 3 | 0x14 => cmp 4 | 0x15 => cmp 5 | 0x16 => cmp 6
  | 0x2A => clamp (toIntegral f rm va)
  | _ => clamp (copySign f 0 a b)

/-- The type of an XV (R125). -/
def xvT : TCode → TCode
  | .f16 => .f16
  | .i32 => .i32
  | _ => .f32

/-- A selected operand: register element, stack position, constant or lane number (R121). -/
def xvOperand (ty : TCode) (t : Slice) (l : Fin 4) (sel : Nat) : Nat :=
  if sel < 48 then t.elem ty (BitVec.ofNat 6 sel) l
  else if sel < 56 then ((t.stack l).getD (sel - 48) 0).toNat % 2 ^ widthOf ty
  else
    let int := ty == .i32
    let f := formatOf ty
    let of (x : Int) : Nat := if int then wrapNat 32 x else (f.deliver .rne false (Val.ofInt x)).1
    match sel with
    | 57 => of 1
    | 58 => of (-1)
    | 59 => (f.deliver .rne false (.num false 1 (-1) false)).1
    | 60 => of (laneNo t l)
    | _ => 0

/-- What a lane of an XV that does not fault leaves: its stack, its vD element if MODE writes one, its flags. -/
structure XvLane where
  stack : List W32
  elem : Option Nat
  flags : Flags
  deriving DecidableEq, Repr

/-- The stack after a stack code (R123), position 0 first. -/
def xvStackCode (c : Nat) (st : List W32) : List W32 :=
  match c, st with
  | 0x50, a :: st => a :: a :: st
  | 0x51, a :: b :: st => b :: a :: st
  | 0x52, _ :: st => st
  | 0x53, a :: b :: st => b :: a :: b :: st
  | _, st => st

/-- The 32-bit pattern of a privileged code (R124): the cycle counter and the temperature at the core's own sensor are free
values (log entry 5), the allowance is the state's. -/
def xvPrivileged (s : State) (core c : Nat) : Nat :=
  let cycles := (Config.freeValue s.nonce).toNat
  match c with
  | 0xE0 => cycles % 2 ^ 32
  | 0xE1 => cycles / 2 ^ 32
  | 0xE2 => (Config.freeValue (s.nonce + 1)).toNat % 2 ^ 32
  | _ => (max 0 (min (s.allowance.getD (clusterOf core) 0) (2 ^ 32 - 1))).toNat

/-- A lane that does not fault (R123, R126). -/
def xvLane (s : State) (core : Nat) (o : PArgs) (t : Slice) (l : Fin 4) (d : W32) : XvLane :=
  let ty := xvT o.t
  let c := xvOp d
  let st := t.stack l
  if 0x50 ≤ c ∧ c ≤ 0x53 then { stack := xvStackCode c st, elem := none, flags := 0 }
  else
    let ftz := ftzOf t.fpctl
    let rd (sel : Nat) : Nat := xvOperand ty t l sel
    let fl (x : Nat) : Nat := (formatOf ty).flushIn ftz x
    let (y, flags) : Nat × Flags :=
      if 0xE0 ≤ c then (xvPrivileged s core c, 0)
      else if ty = .i32 then
        let i (sel : Nat) : Int := toInt 32 (rd sel)
        xvIntResult o.s (xvInt c (i (xvSa d)) (i (xvSb d)) (i (xvSc d)))
      else match xvSfu c with
        | some fn => sfuOp fn ty o.s (rd (xvSa d))
        | none => xvFloat (formatOf ty) (rmFor t.fpctl o.rm) o.s ftz c (fl (rd (xvSa d))) (fl (rd (xvSb d))) (fl (rd (xvSc d)))
    let reads := stackReads d
    let rest := st.zipIdx.filterMap (fun p => if reads.contains p.2 then none else some p.1)
    let mode := xvMode d
    { stack := if mode = 1 ∨ mode = 2 then BitVec.ofNat 32 y :: rest else rest
      elem := if mode = 0 ∨ mode = 2 then some y else none
      flags := flags }

/-- The lane faults of a group: each lane with its cause (0 for none), in gang numbers. -/
def laneCauses (ts : List Slice) (km : Nat) (f : Slice → Fin 4 → Nat) : List (Nat × Nat) :=
  (groupLanes ts km).map (fun p => (laneNo p.1 p.2, f p.1 p.2))

/-- Class 1 with the faulted lanes and their causes (R128). -/
def laneTrap (cs : List (Nat × Nat)) : Trap :=
  let bad := cs.filter (fun c => c.2 != 0)
  let mask : LaneSet := bad.foldl (fun m c => m ||| 1#32 <<< c.1) 0
  { cls := 1, sub := 0, replay := mask, faulted := mask
    lcause := bad.foldl (fun m c => m ||| (BitVec.ofNat 128 c.2 <<< (4 * c.1))) 0 }

/-- A slice's earlier XV is still in flight (R127). -/
def xvBusy (ts : List Slice) : Bool :=
  ts.any (fun t => t.results.any (fun r => match r with | .vector _ _ _ _ _ _ xv => xv | _ => false))

/-- Every register that a selector of an active lane's descriptor names (R126). -/
def xvRegs (o : PArgs) (ts : List Slice) : List Reg :=
  (groupLanes ts o.km).flatMap (fun p =>
    let d := p.1.getV o.a p.2
    ([xvSa d, xvSb d, xvSc d].filter (fun k => k < 48)).map (BitVec.ofNat 6))

/-- The commit of an XV in one slice: stacks, the elements on their way to the emptied vD, flags. -/
def xvCommit (o : PArgs) (rs : List (Fin 4 × XvLane)) (t : Slice) : Slice :=
  let t := rs.foldl (fun t r => t.putStack r.1 r.2.stack) t
  let t := queueElems .n32 o.d false true t (rs.filterMap (fun r => r.2.elem.map (fun y => (r.1, y))))
  t.raise (rs.foldl (fun m r => m ||| r.2.flags) 0)

/-- XV (R126). -/
def execXv (o : PArgs) (s : State) : Host.Outcome State Fault Refusal :=
  issue (.xv o) s (fun x =>
    let core := x.unit.id.core
    let cause (t : Slice) (l : Fin 4) : Nat := xvCause x.unit.isS (xvT o.t == .i32) (t.getV o.a l) (t.stack l).length
    let results (t : Slice) : List (Fin 4 × XvLane) :=
      (lanesOf (actOf t o.km)).filterMap (fun l =>
        if cause t l = 0 then some (l, xvLane s core o t l (t.getV o.a l)) else none)
    if xvBusy x.slices then .stall
    else if (groupLanes x.slices o.km).isEmpty then .seq s x.unit
    else if !(xvRegs o x.slices).all (fun r => x.slices.all (fun t => t.fullV r false)) then .stall
    else
      let hit := x.slices.foldl (fun h t => (results t).foldl (fun h r => h ||| enabled t.fpctl r.2.flags) h) (0 : BitVec 5)
      let lanes := gangView x.slices (fun t => (results t).foldl
        (fun m r => if enabled t.fpctl r.2.flags = 0 then m else m ||| laneBit r.1) 0)
      if hit ≠ 0 then .trap (arithTrap hit lanes)
      else
        let s' := if x.unit.isS then { s with nonce := s.nonce + 2 } else s
        let u := x.unit.mapSlices x.js (fun t => xvCommit o (results t) t)
        let cs := laneCauses x.slices o.km cause
        if cs.all (fun c => c.2 == 0) then .seq s' u else .trapAfter (laneTrap cs) s' u)

/-! ### Companions (R129) -/

/-- A companion: each active lane's cause, and its effect where there is none. -/
def stackOp (i : Instr) (o : WArgs) (cause : List W32 → Nat) (f : Slice → Fin 4 → Slice) (s : State) :
    Host.Outcome State Fault Refusal :=
  issue i s (fun x =>
    if xvBusy x.slices then .stall
    else
      let bad (t : Slice) (l : Fin 4) : Nat := cause (t.stack l)
      let u := x.unit.mapSlices x.js (fun t =>
        (lanesOf (actOf t o.km)).foldl (fun t' l => if bad t l = 0 then f t' l else t') t)
      let cs := laneCauses x.slices o.km bad
      if cs.all (fun c => c.2 == 0) then .seq s u else .trapAfter (laneTrap cs) s u)

def execXpush (o : WArgs) (s : State) : Host.Outcome State Fault Refusal :=
  stackOp (.xpush o) o (fun st => if Config.operandDepth ≤ st.length then causeOverflow else 0)
    (fun t l => t.putStack l (t.getV o.a l :: t.stack l)) s

def execXpop (o : WArgs) (s : State) : Host.Outcome State Fault Refusal :=
  stackOp (.xpop o) o (fun st => if st.isEmpty then causeUnderflow else 0)
    (fun t l => (t.putV o.d l ((t.stack l).headD 0)).putStack l (t.stack l).tail) s

def execXpeek (o : WArgs) (s : State) : Host.Outcome State Fault Refusal :=
  stackOp (.xpeek o) o (fun st => if st.length ≤ o.b.toNat then causeUnderflow else 0)
    (fun t l => t.putV o.d l ((t.stack l).getD o.b.toNat 0)) s

def execXdepth (o : WArgs) (s : State) : Host.Outcome State Fault Refusal :=
  stackOp (.xdepth o) o (fun _ => 0) (fun t l => t.putV o.d l (BitVec.ofNat 32 (t.stack l).length)) s

def execXclr (o : WArgs) (s : State) : Host.Outcome State Fault Refusal :=
  stackOp (.xclr o) o (fun _ => 0) (fun t l => t.putStack l []) s

end Sys2Proof.Machine
end

