-- ==== Sys2Proof/Machine/Ready.lean ====
section
/-! DEFINITION. What an issue group's next instruction waits for beyond the full/empty bits of its own operands, so that the group is not ready
(13_progress R253): a room in a queue, a register named in another way, a payload, a PHASE before it. -/

namespace Sys2Proof.Machine

/-- Commands of the sluice queue (R221, R253). -/
def usesSluice : Instr → Bool
  | .cpLd _ | .cpSt _ | .cpx _ | .cps _ | .cpred _ | .cpconv _ | .cpstage _ | .moedisp _ | .kst _ | .qsig _ | .bgather _ => true
  | _ => false

/-- The cores, tiles and accumulators of a matrix instruction's command (R137, R139); none for another instruction. -/
def harrowNeeds (s : State) (x : Issue) : Instr → Option (List Nat × List Nat × List Nat)
  | .tld o | .tst o => some ([x.unit.id.core], [o.d.toNat], [])
  | .tzero o | .tout o => some (spanCores s x.unit x.low.span, [], [o.d.toNat])
  | .mma o => some ([x.unit.id.core], [o.a.toNat, o.b.toNat] ++ bitTiles x, [o.d.toNat])
  | .mloop o => some (spanCores s x.unit x.low.span, loopTiles o ++ bitTiles x, [o.d.toNat % 4])
  | _ => none

/-- Whether a free entry is wanting in a queue that an instruction needs, or a tile or accumulator of it is empty. -/
def queueWaits (s : State) (x : Issue) (i : Instr) : Bool :=
  (usesSluice i && decide (Config.sluiceQueue ≤ (s.coreAt x.unit.id.core).sluice.length))
    || (match harrowNeeds s x i with
      | some (cores, tiles, accs) => !harrowReady s cores tiles accs
      | none => false)

/-- Whether KST or QSIG waits for what FENCE or .ORD orders before its reading of the descriptor, or for the registers that this gives it. -/
def signWaits (s : State) (x : Issue) (head : W64) (r : Reg) (ord : Bool) : Bool :=
  head.toNat % 128 == 0 && (fencePending x.unit ord
    || (match cmdRead s x.unit (seenNow x.unit ord) x.unit.id.core false (head + 50) 1 with
      | .ok bs => !signFull x (signRegs x.unit (fromLe bs + 1) r).1
      | .error _ => false))

/-- What an instruction's own effect waits for. -/
def effectWaits (s : State) (x : Issue) : Instr → Bool
  | .tcfg o => !(s.coreAt x.unit.id.core).fullT o.d.toNat
  | .satom o => o.rel && !x.unit.quiet
  | .vatom o | .gatom o => o.rel && !x.unit.quiet
  | .patom o => o.rel && !x.unit.quiet
  | .ret o => x.slices.any (fun t => retCalls o.a t && !t.fullS 60)
  | .hand o => match s.team? x.unit.team with
    | some t => ((t.role (handFrom o)).contains x.unit.id || (t.role (handTo o)).contains x.unit.id) && !handBad t o && handWaits s t x o
    | none => false
  | .kst o => signWaits s x (x.low.getS o.a) o.d o.ordBit
  | .qsig o => signWaits s x (x.low.getS o.a) o.b o.ordBit
  | .vrdn o | .vwrn o => !(o.imm.getLsbD 1 && x.slices.any (fun t => (regNumber o t).getLsbD 0)) && numberedWaits s x o
  | .xv o => xvBusy x.slices || !(xvRegs o x.slices).all (fun r => x.slices.all (fun t => t.fullV r false))
  | .xpush _ | .xpop _ | .xpeek _ | .xdepth _ | .xclr _ => xvBusy x.slices
  | _ => false

/-- Whether a group's next instruction is held back (R26, R27, R253). One that its transaction does not survive, or that a register's policy
makes a trap, is not. -/
def waitsToIssue (s : State) (x : Issue) (i : Instr) : Bool :=
  if x.unit.txn.isSome && abortsTxn i then false
  else match holdBack (s.coreAt x.unit.id.core) x.slices i with
    | .trap _ => false
    | .wait => true
    | .free => queueWaits s x i || effectWaits s x i

/-- Instructions that may go on at their own address, and so leave a unit as it was. -/
def transfers : Instr → Bool
  | .br _ | .brc _ | .brv _ | .join _ | .loopb _ | .brk _ | .loope _ | .call _ | .calli _ | .ret _ | .brw _ | .tbegin _ => true
  | _ => false

end Sys2Proof.Machine
end

