-- ==== Sys2Proof/Machine/Issue.lean ====
section
/-! DEFINITION. Cycles: issue arbitration, the power allowance, counts, refresh windows, TLB evictions; pools, power gating, the
drift bound's release (09_memory_places R166, 13_progress R253-R261, 18 R320, 25 R417). -/

namespace Sys2Proof.Machine

/-! ### Weights (R256) -/

/-- Weight of a vector float, conversion or FDIV row, by whether a type of it is f64. -/
def floatWeight (wide : Bool) : Nat := if wide then 16 else 4

/-- The allowance that an instruction's issue debits. -/
def weightOf : Instr → Nat
  | .tld _ | .tst _ | .tout _ => 16
  | .fadd o | .fsub o | .fmul o | .ffma o | .fmin o | .fmax o | .fsgn o | .fcmp o | .fclass o | .fscale o | .frint o
  | .fdiv o => floatWeight (o.t == .f64)
  | .fcvt o | .fcvti o | .icvtf o => floatWeight (o.t == .f64 || WellFormed.convSrc o == .f64)
  | .bfpack o => floatWeight (o.t == .f64)
  | .cpLd _ | .cpSt _ | .cpx _ | .cps _ | .cpred _ | .cpconv _ | .cpstage _ | .moedisp _ | .kst _ | .qsig _
  | .bgather _ => 8
  | .frcp _ | .frsq _ | .fsqrt _ | .fexp2 _ | .flog2 _ | .fsin _ | .fcos _ | .ftanh _ | .fsigm _ | .ferf _ | .xv _
  | .vdiv _ => 4
  | .vadd _ | .vsub _ | .vmul _ | .vmulh _ | .vmad _ | .vand _ | .vor _ | .vxor _ | .vshl _ | .vshr _ | .vsra _ | .vmin _
  | .vmax _ | .vabs _ | .vclz _ | .vpopc _ | .vcmp _ | .vsel _ => 2
  | .vshuf _ | .vbcast _ | .vred _ | .vscan _ | .vconf _ | .vcomb _ | .vcmprs _ | .vexpnd _ => 2
  | .vmov _ | .vmovStream _ | .vsplat _ | .vextr _ | .vlane _ | .xpush _ | .xpop _ | .xpeek _ | .xdepth _ | .xclr _ => 2
  | .sld _ | .sst _ | .vld _ | .vst _ | .vldg _ | .vstg _ | .vatom _ | .satom _ | .gatom _ | .phase _ | .fence _ | .waitc _
  | .mwait _ | .pst _ | .patom _ | .pref _ | .chwait _ | .chrel _ | .rowbar _ => 2
  | _ => 1

/-! ### Ready groups (R253) -/

/-- The issue groups of a unit: the numbers of their slices. -/
def groupsOf (u : Unit) : List (List Nat) :=
  let live := u.slices.filter Slice.alive
  (live.filter (fun t => t.grp == t.idx || !live.any (fun x => x.grp == t.grp && decide (x.idx < t.idx)))).map
    (fun t => (live.filter (fun x => x.grp == t.grp)).map (fun x => x.idx))

/-- A ready group: what it would issue, how it ranks, and when it last issued. -/
structure Ready where
  unit : UnitId
  js : List Nat
  weight : Nat
  rank : Nat
  age : Nat
  served : Option Nat
  withheld : Option Nat
  deriving DecidableEq, Repr

/-- A group that is ready for its next instruction; words passed over and traps need nothing. -/
def readyGroup (s : State) (u : Unit) (js : List Nat) : Option Ready :=
  if !mayIssue u js || driftStalls s u js || leaving s u then none
  else match u.pick js with
    | [] => none
    | t :: ts =>
      let rank := if groupHandles u js then 8 else ((launchOf s u).map (effectivePrio s)).getD 7
      let r (w : Nat) : Ready := { unit := u.id, js := js, weight := w, rank := rank, age := t.age, served := t.served, withheld := t.withheld }
      match fetchAt s u t with
      | .instr i w0 w1 =>
        if waitsToIssue s { unit := u, low := t, rest := ts, word0 := w0, word1 := w1 } i then none else some (r (weightOf i))
      | .wait => none
      | _ => some (r 0)

/-- Insertion by an order. -/
def insertBy {α : Type} (before : α → α → Bool) (x : α) : List α → List α
  | [] => [x]
  | y :: ys => if before y x then y :: insertBy before x ys else x :: y :: ys

/-- A list in an order; equals keep their places. -/
def sortBy {α : Type} (before : α → α → Bool) (xs : List α) : List α := xs.foldl (fun acc x => insertBy before x acc) []

/-- Higher rank first, then the older. -/
def ranksBefore (x y : Ready) : Bool := decide (y.rank < x.rank) || (x.rank == y.rank && decide (x.age ≤ y.age))
/-! ### The allowance (R256, R257) -/

/-- P and CAP of a cluster's pool. -/
def budgetOf (s : State) (cl : Nat) : W32 × W32 := s.budgets.getD (s.pools.getD cl 1).toNat (0, 0)

/-- A number as a 32-bit signed counter holds it. -/
def signed32 (x : Int) : Int := (BitVec.ofInt 32 x).toInt

/-- The counter of a cluster. -/
def allowanceOf (s : State) (cl : Nat) : Int := s.allowance.getD cl 0
def setAllowance (s : State) (cl : Nat) (x : Int) : State := { s with allowance := s.allowance.set cl (signed32 x) }

/-- Every cluster's counter at the start of a cycle. -/
def replenish (s : State) : State :=
  { s with allowance := s.allowance.mapIdx (fun cl a =>
      let b := budgetOf s cl
      signed32 (min (a + (b.1.toNat : Int)) (b.2.toNat : Int))) }

/-- A request withheld for 4,096 cycles: it is granted whatever the counter holds. -/
def Ready.due (now : Nat) (r : Ready) : Bool := match r.withheld with | some t => decide (t + 4096 ≤ now) | none => false

/-- Whether one issue lies no later than another; none lies before all. -/
def noLater : Option Nat → Option Nat → Bool
  | none, _ => true
  | some _, none => false
  | some a, some b => decide (a ≤ b)

/-- Requests that are due first, then the lower weight, then the one that issued less recently (R257). -/
def grantsBefore (now : Nat) (x y : Ready) : Bool :=
  if x.due now != y.due now then x.due now
  else decide (x.weight < y.weight) || (x.weight == y.weight && noLater x.served y.served)

/-- Grants in order while the counter covers them; a core's two ports take one request each, and a harrow's step takes none. -/
def grant (now : Nat) : Int → List Nat → List Ready → List Ready × Int
  | a, _, [] => ([], a)
  | a, used, r :: rs =>
    if r.unit.kind == .gang && decide (2 ≤ (used.filter (fun c => c == r.unit.core)).length) then grant now a used rs
    else if r.due now || decide ((r.weight : Int) ≤ a) then
      let (gs, a') := grant now (a - (r.weight : Int)) (if r.unit.kind == .gang then r.unit.core :: used else used) rs
      (r :: gs, a')
    else grant now a used rs

/-! ### Counts (R417) -/

/-- A cluster's counts. -/
def blankCounts : ClusterCounts := { issued := 0, byCtx := [], stall := 0, wait := 0, ksteps := 0, rows := 0, energy := 0, corr := 0 }
def countsOf (s : State) (cl : Nat) : ClusterCounts := ((s.counts.find? (fun c => c.1 == cl)).map (fun c => c.2)).getD blankCounts
def setCounts (s : State) (cl : Nat) (c : ClusterCounts) : State :=
  { s with counts := (cl, c) :: s.counts.filter (fun x => x.1 != cl) }
/-- A count that saturates. -/
def satAdd (x : W32) (n : Nat) : W32 := BitVec.ofNat 32 (min (x.toNat + n) (2 ^ 32 - 1))

/-- Instructions issued, for their contexts (R258, R417). -/
def countIssues (c : ClusterCounts) (ctxs : List Nat) : ClusterCounts :=
  { c with issued := c.issued + ctxs.length, byCtx := ctxs.foldl countUp c.byCtx }

/-- Groups of a core's gangs, and of its engine members and management units, which issue beside the ports (R265). -/
def coreGroups (s : State) (core : Nat) (gang : Bool) : List (Unit × List Nat) :=
  (s.units.filter (fun u => u.id.core == core && (u.id.kind == .gang) == gang)).flatMap (fun u => (groupsOf u).map (fun js => (u, js)))

/-- Groups of a unit parked on a wait. -/
def parkedGroups (u : Unit) : Nat :=
  ((groupsOf u).filter (fun js => (u.pick js).any (fun t => match t.run with | .parked _ _ _ => true | _ => false))).length

/-- A cycle counted for a cluster: its parked groups, and a stall while a ready group is withheld for power. -/
def countCycle (s : State) (cl : Nat) : State :=
  let us := s.units.filter (fun u => clusterOf u.id.core == cl && u.id.kind == .gang)
  let c := countsOf s cl
  let held := us.any (fun u => u.slices.any (fun t => t.withheld.isSome))
  setCounts s cl { c with stall := c.stall + bit01 held, wait := c.wait + us.foldl (fun n u => n + parkedGroups u) 0 }

/-! ### Weight-store refresh (R166, R337) -/

/-- REFRESH_WINDOW_START. -/
def execRefreshWindowStart (die : Nat) (s : State) : Ended := .next (if die < 16 ∧ windowDue s die then startWindow s die else s)

/-- REFRESH_WINDOW_END. -/
def execRefreshWindowEnd (die : Nat) (s : State) : Ended := .next (if windowOver s die then endWindow s die else s)

/-! ### Cycles -/

/-- A TLB may lose an entry at any time (R320): at each tick one, by a free value, or none. -/
def evict (s : State) : State :=
  { s with tlb := s.tlb.eraseIdx ((s.freeAt (2 ^ 20)).toNat % (s.tlb.length + 1)), nonce := s.nonce + 1 }

/-- The start of a cycle: GTICK advances (log entry 6), allowances are replenished, refresh windows turn. -/
def startCycle (s : State) : State := evict (turnWindows (replenish { s with gtick := s.gtick + 1 }))

/-- The end of a cycle: what its clusters count. -/
def endCycle (s : State) : State :=
  let cls := (s.units.filter (fun u => u.id.kind == .gang)).foldl (fun cs u =>
    if cs.contains (clusterOf u.id.core) then cs else cs ++ [clusterOf u.id.core]) []
  cls.foldl countCycle s

/-! ### Arbitration (R253, R256, R257) -/

/-- A change to the slices of a group. -/
def mapGroup (s : State) (r : Ready) (f : Slice → Slice) : State :=
  match s.unit? r.unit with | some u => s.setUnit (u.mapSlices r.js f) | none => s

/-- Groups that get their issue slots. -/
def giveSlots (s : State) (rs : List Ready) : State :=
  let fs : List Focus := rs.map (fun r => { unit := r.unit, slices := r.js, word0 := 0, word1 := 0 })
  let s := rs.foldl (fun s r => mapGroup s r (fun t => { t with age := s.gtick.toNat, withheld := none })) s
  match s.focus, fs with
  | none, f :: rest => { s with focus := some f, ports := s.ports ++ rest }
  | _, _ => { s with ports := s.ports ++ fs }

/-- The requests of a core's gangs in a cycle: those withheld, and the two that its ports pick; a group that has issued in this cycle asks
for the next one. -/
def coreRequests (s : State) (core : Nat) : List Ready :=
  let ready := ((coreGroups s core true).filterMap (fun g => readyGroup s g.1 g.2)).filter (fun r => r.served != some s.gtick.toNat)
  ready.filter (fun r => r.withheld.isSome) ++ (sortBy ranksBefore (ready.filter (fun r => r.withheld.isNone))).take 2

/-- Whether a harrow command still has K-steps to run. -/
def HarrowCommand.multiplies (cmd : HarrowCommand) : Bool := decide (cmd.step < harrowSteps cmd.op)

/-- The K-step that a core's harrow asks to start. -/
def stepRequest (s : State) (core : Nat) : List Ready :=
  let c := s.coreAt core
  match c.harrow with
  | cmd :: _ =>
    if cmd.multiplies && cmd.blk == 0 then
      [{ unit := { core := core, kind := .harrow, slot := 0 }, js := [], weight := 64, rank := 0
         age := s.gtick.toNat, served := c.stepped, withheld := cmd.withheld }]
    else []
  | [] => []

/-- Cores that hold something. -/
def coresInUse (s : State) : List Nat :=
  (s.units.map (fun u => u.id.core) ++ s.cores.map (fun c => c.num)).foldl (fun cs c => if cs.contains c then cs else cs ++ [c]) []

/-- The ports that a cluster's groups have used in this cycle, by their cores. -/
def portsUsed (s : State) (cl : Nat) : List Nat :=
  (s.units.filter (fun u => u.id.kind == .gang && clusterOf u.id.core == cl)).flatMap (fun u =>
    ((groupsOf u).filter (fun js => (u.pick js).head?.any (fun t => t.served == some s.gtick.toNat))).map (fun _ => u.id.core))

/-- What a cluster's counter grants in a cycle, of all its requests, and what it then holds. -/
def clusterGrants (s : State) (cl : Nat) : List Ready × Int :=
  let requests := ((coresInUse s).filter (fun c => clusterOf c == cl)).flatMap (fun c => coreRequests s c ++ stepRequest s c)
  grant s.gtick.toNat (allowanceOf s cl) (portsUsed s cl) (sortBy (grantsBefore s.gtick.toNat) requests)

/-- What a cycle's arbitration of a core grants, and whom it withholds; requests of the cluster's other cores and harrows that stand
before its own keep their share of the counter. The counter is debited as each group issues (R256). -/
def arbitrate (s : State) (core : Nat) : State :=
  let cl := clusterOf core
  let now := s.gtick.toNat
  let (grants, left) := clusterGrants s cl
  let granted := grants.filter (fun r => r.unit.core == core && r.unit.kind == .gang)
  let short := (coreRequests s core).filter (fun r => !granted.contains r && decide (left < r.weight))
  let idle := (coreGroups s core true).filter (fun g => (readyGroup s g.1 g.2).isNone)
  let members := (coreGroups s core false).filterMap (fun g => readyGroup s g.1 g.2)
  let s := short.foldl (fun s r => mapGroup s r (fun t => { t with withheld := match t.withheld with | none => some now | w => w })) s
  let s := idle.foldl (fun s g =>
    mapGroup s { unit := g.1.id, js := g.2, weight := 0, rank := 0, age := 0, served := none, withheld := none } (fun t => { t with age := now })) s
  giveSlots s (granted ++ members)

/-- Whether a pool's clock change holds a cluster back (R259). -/
def clockPaused (s : State) (cl : Nat) : Bool := s.poolChange.any (fun c => c.1 == cl)

/-- ISSUE_ARBITRATION (R253-R257): a cycle of a core. In a pool's clock change nothing issues (R259). -/
def execIssueArbitration (core : Nat) (s : State) : Ended :=
  let s := startCycle s
  .next (endCycle (if clockPaused s (clusterOf core) then s else arbitrate s core))

/-- WITHHOLD_EXPIRY (R257): a request withheld for 4,096 cycles is granted whatever the counter holds. -/
def execWithholdExpiry (unit : UnitId) (sl : Nat) (s : State) : Ended :=
  .next (match s.unit? unit with
    | none => s
    | some u =>
      match (groupsOf u).find? (fun js => js.contains sl) with
      | none => s
      | some js =>
        match readyGroup s u js with
        | none => s
        | some r =>
          let cl := clusterOf unit.core
          if r.due s.gtick.toNat && !clockPaused s cl then
            giveSlots s [r]
          else s)

/-! ### An instruction issued (R256-R258, R417) -/

/-- Whether the group in focus has issued: its unit is changed, or it has gone on at its own address. One that had to wait has not. -/
def issued (i : Instr) (f : Focus) (before after : State) : Bool :=
  after.unit? f.unit != before.unit? f.unit
    || (transfers i && (match before.issuer with | some x => !waitsToIssue before x i | none => false))

/-- What an issue adds for its cluster: its weight debited, a count for its context, and when the group issued. Management cores lie in no
cluster (R310). -/
def chargeIssue (i : Instr) (f : Focus) (before after : State) : State :=
  match before.unit? f.unit with
  | none => after
  | some u =>
    if !issued i f before after then after
    else
      let cl := clusterOf f.unit.core
      let s := after.mapUnits (fun x => x.id == f.unit) (fun x => x.mapSlices f.slices (fun t => { t with served := some after.gtick.toNat }))
      if f.unit.kind == .mgmt then s
      else setCounts (setAllowance s cl (allowanceOf s cl - (weightOf i : Int))) cl (countIssues (countsOf s cl) [u.ctx])

/-! ### Power gating (R260) -/

def setPower (s : State) (core : Nat) (p : Power) : State := s.setCore { s.coreAt core with power := p }

def execGatingRequest (core : Nat) (s : State) : Ended :=
  .next (if coreFree s core && corePowered s core then setPower s core (.window s.gtick.toNat) else s)

def execGatingWindowExpiry (core : Nat) (s : State) : Ended :=
  .next (match (s.coreAt core).power with
    | .window start => if start + 64 ≤ s.gtick.toNat ∧ coreFree s core then setPower s core .off else s
    | _ => s)

def execPowerUpComplete (core : Nat) (s : State) : Ended :=
  .next (match (s.coreAt core).power with
    | .rising _ => setPower s core .on
    | _ => s)

/-! ### Drift (R261) -/

/-- DRIFT_STALL_RELEASE: groups whose next block is within the bound again fetch on. -/
def execDriftStallRelease (unit : UnitId) (s : State) : Ended :=
  .next (match s.unit? unit with
    | none => s
    | some u =>
      let free := (groupsOf u).filter (fun js => !driftStalls s u js)
      s.setUnit (u.mapSlices free.flatten (fun t => match t.run with
        | .parked .drift _ _ => { t with run := .running }
        | _ => t)))

/-! ### Pools (R258, R259) -/

/-- The ceiling of demand in a pool's class, as a level (R258). -/
def classLevel (c : BitVec 2) : Nat := match c.toNat with | 3 => 1 | 0 => 2 | 1 => 3 | _ => 4

/-- The demand of a cluster as DEMAND reads it (R258, R407). -/
def demandOf (s : State) (cl : Nat) : Nat :=
  min (classLevel (s.pools.getD cl 1))
    ((s.units.filter (fun u => clusterOf u.id.core == cl)).foldl (fun m u => u.slices.foldl (fun m t => max m t.demand) m) 0)

/-- A cluster moved to a pool (R259, R419); its pause lasts at most 600 ticks (R259). -/
def moveCluster (s : State) (cl : Nat) (cls : BitVec 2) : State :=
  { s with pools := s.pools.set cl cls
           poolChange := (cl, s.gtick.toNat + 600) :: s.poolChange.filter (fun c => c.1 != cl) }

def execPoolReassign (cluster : Nat) (cls : BitVec 2) (s : State) : Ended :=
  .next (if cluster < 128 ∧ accepting s then moveCluster s cluster cls else s)

def execPoolChangeComplete (cluster : Nat) (s : State) : Ended :=
  .next { s with poolChange := s.poolChange.filter (fun c => c.1 != cluster) }

end Sys2Proof.Machine
end

