-- ==== Sys2Proof/Machine/Engines.lean ====
section
/-! DEFINITION. The harrow's steps, and the performing of loads, stores and atomics (03_state R25, R28-R30, 08_matrix
R140-R154, 09_memory_places R161-R163, 11_memory_instructions R210-R214). -/

namespace Sys2Proof.Machine

/-! ### Where a gang takes an asynchronous trap (R224) -/

/-- The issue group of a slice. -/
def groupWith (u : Unit) (sl : Nat) : List Nat := ((groupsOf u).find? (fun js => js.contains sl)).getD []

/-- Slices that go back to their instruction: the wait is over without effect and nothing is on its way from it. -/
def Slice.abandon (t : Slice) : Slice :=
  match t.run with
  | .parked (.mwait _ _ _ _ _ _) _ _ | .parked (.chwait _ _ _) _ _ => { t.unwait with run := .running }
  | .parked (.handRecv off _ _ _) _ _ =>
    { t with handPass := (off, countOf t.handPass off - 1) :: t.handPass.filter (fun e => e.1 != off), run := .running }
  | .parked _ _ _ => { t with run := .running }
  | _ => t

/-- The waits that an engine error ends. -/
def Wait.yields : Wait → Bool
  | .waitc _ _ | .mwait _ _ _ _ _ _ | .chwait _ _ _ | .rowbar _ _ | .barw _ _ | .handRecv _ _ _ _ | .tickw _ | .regang => true
  | _ => false

/-- The group at an issue slot: one at a WAITC, which holds the others back; else one that runs; else one whose wait is abandoned. -/
def slotGroup (u : Unit) : Option (List Nat) :=
  let gs := groupsOf u
  match gs.find? (fun js => (u.pick js).all Slice.parkedCount) with
  | some js => some js
  | none => match gs.find? (fun js => (u.pick js).all Slice.isRunning) with
    | some js => some js
    | none => gs.find? (fun js => (u.pick js).all (fun t => match t.run with | .parked w _ _ => w.yields | _ => false))

/-- A group whose wait is abandoned without effect, its monitors released. -/
def abandonGroup (s : State) (u : Unit) (js : List Nat) : State × Unit :=
  (js.foldl (fun s j => dropMonitor s u.id j) s, u.mapSlices js Slice.abandon)

/-- Whether a gang can take a fatal trap of one of its commands now: it does not stand still. One in its handler takes it there (log entry
29). -/
def takesNow (u : Unit) : Bool := u.halt == .none

/-- Class 4 or 14 of a command issued at `pc` (R224, R363): the gang's set halts; that of an exited gang is S's. -/
def fatalTrap (s : State) (u : Unit) (pc : W64) (t : Trap) : State :=
  if u.exited then
    broadcastHalt (report (s.setUnit { u with halt := .trapped (t.cls + 16) }) u t pc) u .set (t.cls + t.sub * 2 ^ 8)
  else
    let (w0, w1) := wordsAt s u pc
    let js := (slotGroup u).getD []
    let (s, u) := abandonGroup s u js
    takeTrap (s.setUnit u) u js pc w0 w1 t

/-! ### The harrow (R137, R140, R145, R146, R154, R256) -/

/-- The head of a queue replaced. -/
def setHarrowHead (c : Core) (cmd : HarrowCommand) : Core := { c with harrow := cmd :: c.harrow.drop 1 }

/-- Whether the next block may start: one within its step, or a step that the cluster's counter grants beside its other requests. -/
def stepGranted (s : State) (core : Nat) (cmd : HarrowCommand) : Bool :=
  cmd.blk != 0 || (clusterGrants s (clusterOf core)).1.any (fun r => r.unit.kind == .harrow && r.unit.core == core)

/-- A command whose next piece of work reads poison stops, and its gang takes class 14 (R363); one that stands still takes it as it goes on
(log entry 29). -/
def harrowLost (s : State) (c : Core) (cmd : HarrowCommand) : Option State :=
  if !harrowPoisoned s c cmd then none
  else match s.unit? cmd.unit with
    | none => none
    | some u =>
      let s := retireOp (s.setCore { harrowStopped c cmd.op with harrow := c.harrow.drop 1 }) cmd.unit cmd.retireId
      let u := refresh s u
      some (if takesNow u || u.exited then fatalTrap s u cmd.pc { poisonTrap 0 with async := true }
        else s.setUnit { u with lostAt := some (u.lostAt.getD cmd.pc) })

/-- HARROW_KSTEP: the next block of the running K-step; a step's first block debits the allowance (R256). None starts in a
pool's clock change (R259). -/
def execHarrowKstep (core : Nat) (s : State) : Ended :=
  let c := s.coreAt core
  let cl := clusterOf core
  .next (match c.harrow with
    | [] => s
    | cmd :: _ =>
      if !cmd.multiplies || clockPaused s cl then s
      else if !stepGranted s core cmd then
        s.setCore (setHarrowHead c { cmd with withheld := match cmd.withheld with | none => some s.gtick.toNat | w => w })
      else match harrowLost s c cmd with
        | some s' => s'
        | none =>
          let first := cmd.blk == 0
          let k := countsOf s cl
          let after := setHarrowHead (harrowBlock s c cmd) { cmd.nextBlock with withheld := none }
          let after := if first then { after with stepped := some s.gtick.toNat } else after
          let s := if first then setCounts (setAllowance s cl (allowanceOf s cl - 64)) cl { k with ksteps := k.ksteps + 1 } else s
          s.setCore after)

/-- The next row of a TST or TOUT written (R150, R152): logged under the window current at its issue, in the room that the issue
reserved. -/
def writeHarrowRow (s : State) (c : Core) (cmd : HarrowCommand) : State :=
  match s.unit? cmd.unit with
  | none => s.setCore { c with harrow := c.harrow.drop 1 }
  | some u =>
    let (va, off, bs, sat) := harrowRow c cmd
    let s := engineWrite s u cmd.win cmd.pc va (scratchPa c.num off) true bs
    let s := s.setCore (setHarrowHead (s.coreAt c.num) { cmd with step := cmd.step + 1, room := cmd.room - rowEntries cmd.op cmd.step })
    if sat then s.setUnit (raiseSatd cmd (refresh s u)) else s

/-- HARROW_COMMAND_COMPLETE (R137, R143-R146, R150): a TST's or TOUT's next row while one is left, else the end of the command. -/
def execHarrowCommandComplete (core : Nat) (s : State) : Ended :=
  let c := s.coreAt core
  .next (match c.harrow with
    | [] => s
    | cmd :: rest =>
      if cmd.multiplies then s
      else match harrowLost s c cmd with
        | some s' => s'
        | none =>
          if cmd.step < harrowRows cmd.op then writeHarrowRow s c cmd
          else retireOp (s.setCore { harrowDone s c cmd with harrow := rest }) cmd.unit cmd.retireId)

/-! ### Loads, stores and atomics -/

/-- LOAD_DATA_RETURN (R25): the slice's oldest result that is there is written, and its register is full. -/
def execLoadDataReturn (unit : UnitId) (sl : Nat) (s : State) : Ended :=
  .next (match s.unit? unit with
    | none => s
    | some u => s.setUnit (u.mapSlices [sl] (fun t =>
        match t.results.find? Result.ready with
        | none => t
        | some r => { landResult t r with results := t.results.eraseIdx (t.results.findIdx Result.ready) })))

/-- STORE_PERFORM (R161): a unit's oldest direct store to a core. -/
def execStorePerform (unit : UnitId) (dest : Nat) (s : State) : Ended :=
  .next (match s.unit? unit with
    | none => s
    | some u => let (s, u) := performDirect s u dest; s.setUnit u)

/-- STORE_RETIRE (R214): a unit's oldest GLOBAL-counted store is held at the cluster cache. -/
def execStoreRetire (unit : UnitId) (s : State) : Ended :=
  .next (match s.unit? unit with
    | none => s
    | some u => match u.ops.find? (fun o => o.cls == 2 && o.store && o.left != 0) with
      | some o => s.setUnit (completeOp u o.id)
      | none => s)

/-- ATOMIC_PERFORM: one of those that may come next, by a free value. -/
def execAtomicPerform (unit : UnitId) (s : State) : Ended :=
  .next (match s.unit? unit with
    | none => s
    | some u =>
      let is := nextAtomics u
      let i := is.getD ((s.freeAt 0).toNat % is.length) 0
      match u.atomics[i]? with
      | none => s
      | some a => performAtomic s u i a)

end Sys2Proof.Machine
end

