-- ==== Sys2Proof/Machine/Waits.lean ====
section
/-! DEFINITION. The ends of waits (13_progress R266-R269, 11 R214-R217, 12 R233, 14 R287-R292, 18 R321, 19 R339-R340). -/

namespace Sys2Proof.Machine

/-- A change to the group of a slice that waits, if it waits so. -/
def atWait (s : State) (unit : UnitId) (sl : Nat) (f : Unit → List Nat → Slice → Wait → State) : Ended :=
  .next (match s.unit? unit with
    | none => s
    | some u =>
      match u.slice? sl with
      | none => s
      | some t => match t.run with
        | .parked w _ _ => f u (groupWith u sl) t w
        | _ => s)

/-! ### PHASE (R214) -/

/-- A slice in a PHASE, and what follows it. -/
def phasing (t : Slice) : Option (After × Nat) := match t.run with | .parked (.phase a) n _ => some (a, n) | _ => none

/-- Entries that a PHASE and what it opens append. -/
def phaseEntries (u : Unit) (after : After) : Nat := entriesFor u 0 (if after = .wbar then 2 else 1)

/-- PHASE_COMPLETE: a PHASE whose stores are held and whose atomics are performed takes its place; with the log full under
TRAP its instruction raises class 12 (R355). -/
def execPhaseComplete (unit : UnitId) (s : State) : Ended :=
  .next (match s.unit? unit with
    | none => s
    | some u =>
      match u.slices.find? (fun t => (phasing t).isSome) with
      | none => s
      | some t =>
        match phasing t with
        | none => s
        | some (after, size) =>
          let js := ((u.slices.filter (fun x => x.grp == t.grp && (phasing x).isSome)).map (fun x => x.idx))
          if !u.quiet then s
          else match makeRoom s u (phaseEntries u after) with
            | .room s' => completePhase s' (refresh s' u) js t.pc (BitVec.ofNat 64 size) after
            | .trap =>
              let (w0, w1) := wordsAt s u t.pc
              takeTrap s (u.mapSlices js Slice.abandon) js t.pc w0 w1 { cls := 12, sub := 0 }
            | _ => s)

/-! ### MWAIT (R165, R217) -/

/-- The slice's atomic read: it holds, or it goes on waiting. The word is translated anew at each read: after a TLBINV or a restore it
may lie elsewhere (R320, R351), and where it no longer translates, or is poisoned, the group issues its MWAIT again and so meets the
fault. When every slice of the group has held, MWAIT returns and its PHASE follows. -/
def mwaitRead (s : State) (u : Unit) (js : List Nat) (t : Slice) (w : Wait) : State :=
  match w, t.run with
  | .mwait va w32 uns cond value d, .parked _ size false =>
    match place s u .read .plain va with
    | .error _ => let (s, u) := abandonGroup s u js; s.setUnit u
    | .ok (pa, _) =>
      if inRefresh s pa then s
      else if poisoned s pa (if w32 then 4 else 8) then (let (s, u) := abandonGroup s u js; s.setUnit u)
      else
        let word := mwaitWord s pa w32 uns
        if mwaitHolds w32 uns cond word value then
          let u := u.mapSlices [t.idx] (mwaitPark (.mwait va w32 uns cond word d) size true)
          let u := { u with autoCount := u.autoCount + 1 }
          let s := fillTlb (dropMonitor s u.id t.idx) u.ctx u.id.core va
          if (u.pick js).all (fun x => match x.run with | .parked (.mwait _ _ _ _ _ _) _ held => held | _ => false) then
            s.setUnit (u.mapSlices js mwaitReturn)
          else s.setUnit u
        else s
  | _, _ => s

/-- Whether a slice has a monitor. -/
def monitored (s : State) (id : UnitId) (j : Nat) : Bool := s.monitors.any (fun m => m.unit == id && m.slice == j)

/-- MWAIT_MONITOR_WAKE: a write at the watched word wakes the slice, which reads again. -/
def execMwaitMonitorWake (unit : UnitId) (sl : Nat) (s : State) : Ended :=
  if monitored s unit sl then atWait s unit sl (mwaitRead s) else .next s

/-- MWAIT_POLL_EXPIRY: without a monitor the slice reads again every 4,096 ticks. -/
def execMwaitPollExpiry (unit : UnitId) (sl : Nat) (s : State) : Ended :=
  if monitored s unit sl then .next s else atWait s unit sl (mwaitRead s)

/-! ### Channels and counters (R216, R233) -/

/-- CHANNEL_WAKE: a WPTR advance satisfies a CHWAIT or ROWBAR; a descriptor that no longer reads sends the group back to its
instruction, which then traps. -/
def execChannelWake (unit : UnitId) (sl : Nat) (s : State) : Ended :=
  atWait s unit sl (fun u js _ w => match w with
    | .chwait va n d =>
      match readChan s u u.id.core .read .plain va with
      | .error _ => s.setUnit (u.mapSlices js Slice.abandon)
      | .ok c =>
        if n < c.full then s.setUnit ((u.mapSlices js (giveScalar d (c.slot (c.rptr + BitVec.ofNat 32 n)))).release js) else s
    | .rowbar va n =>
      match readChan s u u.id.core .read .plain va with
      | .error _ => s.setUnit (u.mapSlices js Slice.abandon)
      | .ok c => if n.toNat ≤ c.full then s.setUnit (u.release js) else s
    | _ => s)

/-- WAITC_RETURN. -/
def execWaitcReturn (unit : UnitId) (sl : Nat) (s : State) : Ended :=
  atWait s unit sl (fun u js _ w => match w with
    | .waitc cls n => if u.count cls ≤ n then s.setUnit ((u.cover cls).release js) else s
    | _ => s)

/-! ### HAND, barriers, ticks, REGANG (R267, R269, R287-R292) -/

/-- HAND_RECEIVE_WAKE: the payload of the pass is deposited. -/
def execHandReceiveWake (unit : UnitId) (sl : Nat) (s : State) : Ended :=
  atWait s unit sl (fun u js _ w => match w, s.team? u.team with
    | .handRecv off pass vec d, some t =>
      match t.hand.find? (fun h => h.off == off && h.pass == pass) with
      | none => s
      | some h =>
        let (s, u) := receiveHand s t u h js vec d
        s.setUnit (u.release js)
    | _, _ => s)

/-- Slices parked at a barrier's BARA make their pass, and their member arrives at the next generation once each of its
slices has made that pass. -/
def passBara (s : State) (team g : Nat) (id : UnitId) : State :=
  match s.unit? id, s.team? team with
  | some u, some t =>
    let js := (u.slices.filter (fun y => match y.run with | .parked (.bara k) _ _ => k == g | _ => false)).map (fun y => y.idx)
    let u := (u.mapSlices js (fun y => { y with barPass := countUp y.barPass g })).release js
    match t.group? g with
    | none => s.setUnit u
    | some b => let (s, u) := arriveAt s t b u; s.setUnit u
  | _, _ => s

/-- Slices parked at BARW whose generation has completed go on. -/
def passBarw (g gen : Nat) (u : Unit) : Unit :=
  u.release ((u.slices.filter (fun y => match y.run with
    | .parked (.barw k n) _ _ => k == g && decide (n ≤ gen)
    | _ => false)).map (fun y => y.idx))

/-- Whether the generation in progress is complete: every member has arrived. A member that exits stays one of it, and leaves at the
next; with all of them exited it completes empty (R267, log entry 22). -/
def generationDone (s : State) (b : GroupState) : Bool :=
  !b.members.isEmpty && (b.members.all b.arrived.contains || b.members.all (memberExited s))

/-- BARRIER_GENERATION_COMPLETE (R267, R290): exited members leave, waiters go on, members parked at BARA arrive anew. -/
def execBarrierGenerationComplete (team group : Nat) (s : State) : Ended :=
  .next (match s.team? team with
    | none => s
    | some t => match t.group? group with
      | none => s
      | some b =>
        if generationDone s b then
          let b' := { b with gen := b.gen + 1, arrived := [], members := b.members.filter (fun m => !memberExited s m) }
          let s := s.setTeam (t.setGroup b')
          let s := s.mapUnits (fun u => b.members.contains u.id && u.team == team) (passBarw group b'.gen)
          b'.members.foldl (fun s m => passBara s team group m) s
        else s)

/-- TICKW_RELEASE (R269, R292). -/
def execTickwRelease (unit : UnitId) (sl : Nat) (s : State) : Ended :=
  atWait s unit sl (fun u js _ w => match w with
    | .tickw target => if target.toNat ≤ s.gtick.toNat then s.setUnit (u.release js) else s
    | _ => s)

/-- A slice parked at a REGANG. -/
def atRegang (t : Slice) : Bool := match t.run with | .parked .regang _ _ => true | _ => false

/-- REGANG_JOIN (R287): every slice has exited or waits at a REGANG; those of one PC become one group and go on. -/
def execRegangJoin (unit : UnitId) (s : State) : Ended :=
  .next (match s.unit? unit with
    | none => s
    | some u =>
      let live := u.slices.filter Slice.alive
      if !live.isEmpty && live.all atRegang then
        let js := live.map (fun t => t.idx)
        s.setUnit ((u.regroup js).release js)
      else s)

/-! ### TLBINV and ECALL (R339, R340) -/

/-- What a TLBINV names (R339): a context's translations or everyone's, all of them or those of an address, whatever their page's size. -/
structure Named where
  ctx : Option Nat
  page : Option W64
  deriving DecidableEq, Repr

/-- Whether it names translations of a context at all. -/
def Named.inCtx (n : Named) (c : Nat) : Bool := match n.ctx with | none => true | some k => k == c

/-- Whether it names the page that translated an access. -/
def Named.at (n : Named) (c : Nat) (page : PageSpan) : Bool :=
  n.inCtx c && (match n.page with
    | none => true
    | some p => page.1 ≤ p.toNat && p.toNat < page.1 + page.2)

/-- Whether it names a translation that a command holds. -/
def Named.pin (n : Named) (e : TlbEntry) : Bool := n.at e.ctx (e.va, e.size)

/-- Whether a unit's accesses under such a translation are still to be performed (R320): its direct stores, atomics and unpublished
stores, and operations of its GLOBAL counter, of which only the context is kept. -/
def translatedBy (n : Named) (u : Unit) : Bool :=
  u.direct.any (fun d => n.at u.ctx d.page) || u.atomics.any (fun a => n.at u.ctx a.page) || u.ownPages.any (n.at u.ctx)
    || (match u.txn with | some t => t.pages.any (n.at u.ctx) | none => false)
    || (n.inCtx u.ctx && u.count 2 != 0)

/-- The units of the package, those of saved teams too. -/
def everyUnit (s : State) : List Unit := s.units ++ s.saved.flatMap (fun x => x.units)

/-- Whether any access translated under what a TLBINV names is still to be performed (R320, R339): a unit's; a sluice command's, which
keeps its translations until it retires (R240), that of a saved team too; a harrow command's that stands in a queue; a write on its way to
a peer; weights not yet published. Other saved commands, commands between rows and MWAITs translate anew. -/
def translated (s : State) (n : Named) : Bool :=
  let ofUnit (id : UnitId) : Bool := s.units.any (fun u => u.id == id && n.inCtx u.ctx)
  (everyUnit s).any (translatedBy n)
    || (s.cores ++ s.saved.flatMap (fun x => x.cores.map (fun c => c.1))).any (fun c => c.sluice.any (fun k => k.pins.any n.pin))
    || s.cores.any (fun c => c.harrow.any (fun k => ofUnit k.unit))
    || s.peerOps.any (fun q => (everyUnit s).any (fun u => u.id == q.unit && n.inCtx u.ctx)
      || s.launches.any (fun l => l.id == q.launch && n.inCtx l.ctx))
    || s.launches.any (fun l => n.inCtx l.ctx && !l.weights.isEmpty)

/-- TLBINV_COMPLETE. -/
def execTlbinvComplete (unit : UnitId) (s : State) : Ended :=
  .next (match s.unit? unit with
    | none => s
    | some u =>
      let js := (u.slices.filter (fun t => match t.run with
        | .parked (.tlbinv ctx page) _ _ => !translated s { ctx := ctx, page := page }
        | _ => false)).map (fun t => t.idx)
      s.setUnit (u.release js))

/-- ECALL_COMPLETE, of a group whose team is resident: s0 and s1 of every executing slice, and on. -/
def execEcallComplete (unit : UnitId) (sl : Nat) (status value : W64) (s : State) : Ended :=
  match s.ecalls.find? (fun r => r.unit == unit && r.slice == sl
      && (match s.unit? unit with | some u => u.team == r.team | none => false)) with
  | none => .next s
  | some q =>
    let s' := { s with ecalls := s.ecalls.filter (fun r => !(r.unit == unit && r.slice == sl && r.team == q.team)) }
    atWait s' unit sl (fun u js _ w => match w with
      | .ecall => s'.setUnit ((u.mapSlices js (fun t => (t.setNow 0 status).setNow 1 value)).release js)
      | _ => s')

/-! ### Recoverable faults (R321, R322) -/

/-- A slice that awaited a page under a request that is complete no longer does; with none left it issues its instruction again. -/
def Slice.pageHere (r : FaultRequest) (t : Slice) : Slice :=
  match t.run with
  | .parked (.page pages k) n h =>
    let rest := if r.kind.covers k then pages.filter (fun p => p != r.page) else pages
    if rest.isEmpty then { t with run := .running } else { t with run := .parked (.page rest k) n h }
  | _ => t

/-- FAULT_REQUEST_COMPLETE (R321): S has written the page's entries and completes the oldest request for it; units parked on it walk
again as they issue anew, and commands suspended on it as they resume. -/
def execFaultRequestComplete (ctx page : Nat) (s : State) : Ended :=
  .next (match s.requests.find? (fun r => r.ctx == ctx && r.page == page) with
    | none => s
    | some r =>
      { s with requests := s.requests.erase r }.mapUnits (fun u => u.ctx == ctx) (fun u =>
        { u with slices := u.slices.map (Slice.pageHere r) }))

/-- Pages that a slice awaits, with the kind of its fault, for which no request is outstanding. -/
def unasked (s : State) (u : Unit) (t : Slice) : List (Nat × Access) :=
  match t.run with
  | .parked (.page pages k) _ _ =>
    (pages.filter (fun p => (requestFor s u.ctx p k).isNone)).map (fun p => (p, k))
  | _ => []

/-- FAULT_ROOM_RECHECK (R321): a fault that found no room posts its requests if there is room now. -/
def execFaultRoomRecheck (unit : UnitId) (s : State) : Ended :=
  .next (match s.unit? unit with
    | none => s
    | some u => (u.slices.flatMap (unasked s u)).foldl
        (fun s p => postRequest s u.ctx p.1 p.2 (coreDie u.id.core)) s)

end Sys2Proof.Machine
end

