-- ==== Sys2Proof/Machine/SluiceRun.lean ====
section
/-! DEFINITION. The work of the sluice: the start, the rows and the end of its commands, link steps and probes
(12_sluice R222-R240). A gang has one command under way at a time (log entry 8). -/

namespace Sys2Proof.Machine

/-! ### Commands of a core -/

/-- A command replaced. -/
def setCommand (s : State) (core : Nat) (k : SluiceCommand) : State :=
  let c := s.coreAt core
  s.setCore { c with sluice := c.sluice.map (fun x => if x.retireId == k.retireId then k else x) }

/-- The gang whose turn is over goes to the end of the queue, its commands in their order (R222). -/
def rotate (s : State) (core : Nat) (id : UnitId) : State :=
  let c := s.coreAt core
  s.setCore { c with sluice := c.sluice.filter (fun x => x.unit != id) ++ c.sluice.filter (fun x => x.unit == id) }

/-- A gang's oldest command that has not completed. -/
def isOldest (s : State) (k : SluiceCommand) : Bool :=
  s.cores.all (fun c => c.sluice.all (fun x => x.unit != k.unit || decide (k.retireId ≤ x.retireId)))

/-- A command's gang may go on with its commands (R224). -/
def notHeld (s : State) (k : SluiceCommand) : Bool := match s.unit? k.unit with | some u => !u.errorHold | none => true

/-- A queued command that may start (R215, R222, R224). -/
def startable (s : State) (k : SluiceCommand) : Bool :=
  k.phase == .queued && k.fencedDirect == 0 && k.fencedAtomics == 0 && isOldest s k && notHeld s k

/-- A command whose work is over. -/
def overdue (s : State) (k : SluiceCommand) : Bool :=
  (match k.phase with | .finished => true | .stopped _ => true | _ => false) && isOldest s k && notHeld s k

/-! ### The registers that a command writes -/

/-- A scalar emptied by a command keeps its old value. -/
def keepScalar (d : Reg) (t : Slice) : Slice :=
  { t.fillS d with results := t.results.filter (fun r => r != .scalarWait d) }

/-- The vector that QSIG emptied. -/
def ownVector (d : Reg) : Result → Bool
  | .vector r _ _ missing _ _ _ => r == d && missing != 0
  | _ => false

/-- It keeps its old value. -/
def keepVector (d : Reg) (t : Slice) : Slice :=
  if t.results.any (ownVector d) then { t.fillV d false with results := t.results.filter (fun r => !ownVector d r) } else t

/-- It receives the signature in every lane. -/
def giveVector (d : Reg) (x : W32) (t : Slice) : Slice :=
  { t with results := t.results.map (fun r =>
      if ownVector d r then .vector d false 0xF 0 (Vector.replicate 4 x) (Vector.replicate 4 0) false else r) }

/-- Slices that wait for a probe. -/
def atProbe (u : Unit) (js : List Nat) : List Nat :=
  ((u.pick js).filter (fun t => match t.run with | .parked .probe _ _ => true | _ => false)).map (fun t => t.idx)

/-- A command that stops writes no register; a group held by it continues behind it (R224). What it would have written into a frame
stays as the frame has it. -/
def giveUp (u : Unit) (k : SluiceCommand) : Unit :=
  match k.op with
  | .qsig _ _ d js => if k.toFrame then u else u.deliver js (keepVector d)
  | .bgather _ _ _ _ _ d js =>
    let held := atProbe u js
    (if k.toFrame then u else u.deliver held (keepScalar d)).release held
  | _ => u

/-- A command's scalar for slices, or their frame while that holds the register (R346). -/
def deliverScalar (s : State) (u : Unit) (k : SluiceCommand) (js : List Nat) (d : Reg) (x : W64) : State :=
  if k.toFrame then writePieces s (framePa u) (js.map (fun j => (savesOff j (d.toNat - 56), leBytes x.toNat 8)))
  else s.setUnit ((refresh s u).deliver js (giveScalar d x))

/-- A command's word for every lane of slices, or for their frame. -/
def deliverVector (s : State) (u : Unit) (k : SluiceCommand) (js : List Nat) (d : Reg) (x : W32) : State :=
  if k.toFrame then
    writePieces s (framePa u) (js.map (fun j => (savevOff j (d.toNat - 56), (List.replicate 4 (leBytes x.toNat 4)).flatten)))
  else s.setUnit ((refresh s u).deliver js (giveVector d x))

/-! ### What a snag does (R224) -/

/-- Class 4 or 14 of a command (R224, R363): it stops, and its gang's set halts. A gang that stands still meets it when it goes on. -/
def fatalCommand (s : State) (core : Nat) (u : Unit) (k : SluiceCommand) (t : Trap) : State :=
  if !takesNow u && !u.exited then rotate s core u.id
  else
    let s := (setCommand s core { k with phase := .stopped 0 }).setUnit (giveUp u k)
    fatalTrap s (refresh s u) k.pc { t with async := true }

/-- What a snag does to a command (R224). -/
def meetSnag (s : State) (core : Nat) (u : Unit) (k : SluiceCommand) (start : Bool) : Snag → State
  | .wait => rotate (setCommand s core k) core u.id
  | .page va acc =>
    let s := postRequest s u.ctx (pageOf va) acc (coreDie k.execOn)
    let kind := ((requestFor s u.ctx (pageOf va) acc).map (fun r => r.kind)).getD acc
    setCommand s core { k with phase := .suspended (pageOf va) kind start }
  | .fatal va cause => fatalCommand s core u k { cls := 4, sub := cause, addr := va }
  | .lost => fatalCommand s core u k (poisonTrap 0)
  | .stop cause => (setCommand s core { k with phase := .stopped (BitVec.ofNat 8 cause) }).setUnit (giveUp u k)

/-! ### The start (R226, R228, R231, R236-R240) -/

/-- Rows, slots, lanes or tokens of a command. -/
def rowTotal (k : SluiceCommand) : Nat :=
  match k.op with
  | .cp _ _ _ _ rows _ fmtx => if fmtx = 3 then 1 else rows
  | .cpx _ _ _ idx _ | .cps _ _ idx _ | .cpred _ _ idx _ _ _ => idx.length
  | .cpconv _ _ _ _ _ count => count
  | .moedisp _ _ lanes => lanes.length
  | .kst _ _ _ | .qsig _ _ _ _ => 1
  | .bgather _ _ _ _ _ _ _ => k.tokens.length

/-- A channel whose slots hold rows of `n` bytes (cause 18). -/
def slotsHold (s : State) (u : Unit) (core : Nat) (va : W64) (n : Nat) : Except Snag Bool :=
  match readChan s u core .write .engine va with
  | .error e => .error e
  | .ok c => if c.slotsz < n then .error (.stop 18) else .ok true

/-- The layout record that a command names. -/
def SluiceOp.record : SluiceOp → Option W64
  | .cp _ _ lrec _ _ _ _ | .cpconv _ _ lrec _ _ _ => some lrec
  | _ => none

/-- A command with its record, which it reads once (R171): one that starts again keeps what it has read. -/
def withRecord (s : State) (u : Unit) (core : Nat) (k : SluiceCommand) : Except Snag SluiceCommand :=
  match k.layout, k.op.record with
  | none, some va => match readLayout s u core k va with
    | .error e => .error e
    | .ok l => .ok { k with layout := some l }
  | _, _ => .ok k

/-- CP's window, in its record. Of causes 19 and 20 the format's comes first, as in `startConv`, where that of the slots, 18, comes last
(DESIGN CHOICE, log entry 23). -/
def startCopy (k : SluiceCommand) (l : LayoutRec) (ld : Bool) (origin : W64) (rows cols fmtx : Nat) : Except Snag SluiceCommand :=
  if !windowAccepts l.fmt fmtx cols origin || (!ld && fmtx != 0) then .error (.stop 19)
  else if l.extent 2 * l.extent 3 * l.extent 4 ≤ field origin.toNat 48 16 ∨ (l.ndim = 1 ∧ rows ≠ 1) then .error (.stop 20)
  else .ok { k with phase := .rows }

/-- CPCONV's record, geometry and slots. -/
def startConv (s : State) (u : Unit) (core : Nat) (k : SluiceCommand) (l : LayoutRec) (sp : Bool) (dst geom : W64) :
    Except Snag SluiceCommand :=
  if l.ndim ≠ 4 ∨ l.fmt = 7 then .error (.stop 19)
  else if field geom.toNat 0 16 = 0 ∨ field geom.toNat 16 16 = 0 then .error (.stop 20)
  else if sp then .ok { k with phase := .rows }
  else match slotsHold s u core dst (l.extent 0 * fmtBytes l.fmt) with
    | .error e => .error e
    | .ok _ => .ok { k with phase := .rows }

/-- The start of a command: what it has read and reads checked. -/
def startCommand (s : State) (u : Unit) (core : Nat) (k : SluiceCommand) : Except Snag SluiceCommand :=
  let go : SluiceCommand := { k with phase := if rowTotal k = 0 then .finished else .rows }
  match k.op with
  | .cp ld _ _ origin rows cols fmtx => match k.layout with
    | some l => startCopy k l ld origin rows cols fmtx
    | none => .ok go
  | .cpx sp dst _ _ n =>
    if sp then .ok go else match slotsHold s u core dst n with | .error e => .error e | .ok _ => .ok go
  | .cps _ _ _ _ | .cpred _ _ _ _ _ _ => .ok go
  | .cpconv sp dst _ _ geom _ => match k.layout with
    | some l => startConv s u core k l sp dst geom
    | none => .ok go
  | .moedisp _ desc _ =>
    match readDispatch s u core k desc with
    | .error e => .error e
    | .ok (ws, ps) => .ok { go with tokens := ws, pins := ps }
  | .kst head token key =>
    match readHead s u core k head .write true with
    | .error e => .error e
    | .ok (h, ps) =>
      if badKey h key then .error (.stop 23)
      else if h.tmax ≤ token.toNat then .error (.stop 25)
      else .ok { go with head := some h, pins := ps }
  | .qsig head q _ _ =>
    match readHead s u core k head .read false with
    | .error e => .error e
    | .ok (h, ps) => if badKey h q then .error (.stop 23) else .ok { go with head := some h, pins := ps }
  | .bgather head _ _ _ chan _ _ =>
    match readHead s u core k head .read true with
    | .error e => .error e
    | .ok (h, ps) =>
      match slotsHold s u core chan (16 + h.krow + h.vbytes) with
      | .error e => .error e
      | .ok _ => .ok { k with head := some h, pins := ps, phase := .probe }

/-- SLUICE_COMMAND_START. -/
def execSluiceCommandStart (core : Nat) (s : State) : Ended :=
  .next (match (s.coreAt core).sluice.find? (startable s) with
    | none => s
    | some k =>
      match s.unit? k.unit with
      | none => s
      | some u =>
        let s' := { s with nonce := s.nonce + 1 }
        match withRecord s u k.execOn k with
        | .error e => meetSnag s' core u k true e
        | .ok k => match startCommand s u k.execOn k with
          | .error e => meetSnag s' core u k true e
          | .ok k' => rotate (setCommand s' core k') core u.id)

/-! ### Rows -/

/-- A row moved: its writes, and the command behind it. -/
structure RowEnd where
  writes : List EngineStore
  cmd : SluiceCommand
  deriving DecidableEq, Repr

/-- A command behind a row of `n` counted items. -/
def SluiceCommand.moved (k : SluiceCommand) (n : Nat) (ws : List EngineStore) : RowEnd :=
  let last := k.row + 1 == rowTotal k
  let after : SluicePhase := match k.op with | .kst _ _ _ => .link | _ => .finished
  { writes := ws
    cmd := { k with row := k.row + 1, count := k.count + n, touched := touchedBy k.touched ws
                    phase := if last then after else k.phase } }

/-- A flag of the completion record, from bit 40 on. -/
def SluiceCommand.flag (k : SluiceCommand) (i : Nat) (b : Bool) : SluiceCommand :=
  if b then { k with flags := k.flags ||| 1#5 <<< i } else k

/-- A window's place in the scratchpad of the core that executes CP (R138, R228). -/
def windowWrite (s : State) (u : Unit) (core : Nat) (va : W64) (bs : List Byte) : Except Snag (List EngineStore) :=
  match cmdRange s u core .write .matrix true va bs.length with
  | .error e => .error e
  | .ok ps => .ok (ps.map (fun p =>
      { atomic := false, va := p.va, pa := p.pa, direct := isDirect p.attrs, bytes := slice bs p.off p.len }))

def windowRead (s : State) (u : Unit) (core : Nat) (k : SluiceCommand) (va : W64) (n : Nat) : Except Snag (List Byte) :=
  match cmdRange s u core .read .matrix true va n with
  | .error e => .error e
  | .ok ps => partsBytes s k.seen ps

/-- A tile of CP.LD under FMTX 3, whole. -/
def tileRow (s : State) (u : Unit) (core : Nat) (k : SluiceCommand) (l : LayoutRec) (spad origin : W64) (rows cols : Nat) :
    Except Snag RowEnd :=
  match eachOk (windowRow s u core k l origin cols) (List.range rows) with
  | .error e => .error e
  | .ok xss =>
    let xs := xss.flatten
    let (bs, bexp, flushed) := tileOf l.fmt (toInt 9 (Config.freeValue (s.nonce + 1)).toNat) xs
    match windowWrite s u core spad bs with
    | .error e => .error e
    | .ok ws =>
      .ok ((({ k with bexp := BitVec.ofInt 9 bexp }.flag 0 flushed).flag 1 (nanScale l.fmt xs)).moved (rows * cols) ws)

/-- A row of CP.LD under FMTX 0 to 2. -/
def loadRow (s : State) (u : Unit) (core : Nat) (k : SluiceCommand) (l : LayoutRec) (spad origin : W64) (cols fmtx : Nat) :
    Except Snag RowEnd :=
  match windowRow s u core k l origin cols k.row with
  | .error e => .error e
  | .ok xs =>
    let n := if fmtx = 0 then fmtBytes l.fmt else 2
    match windowWrite s u core (spad + BitVec.ofNat 64 (k.row * cols * n)) (xs.flatMap (outBytes l.fmt fmtx)) with
    | .error e => .error e
    | .ok ws => .ok ((k.flag 1 (nanScale l.fmt xs)).moved cols ws)

/-- A row of CP.ST. -/
def storeRow (s : State) (u : Unit) (core : Nat) (k : SluiceCommand) (l : LayoutRec) (spad origin : W64) (cols : Nat) :
    Except Snag RowEnd :=
  let n := fmtBytes l.fmt
  match windowRead s u core k (spad + BitVec.ofNat 64 (k.row * cols * n)) (cols * n) with
  | .error e => .error e
  | .ok bs =>
    match eachOk (fun c =>
        let cs := windowCoords l origin k.row c
        if insideWindow l cs then cmdWrite s u core false (l.base + word64 (l.elem cs * n)) (slice bs (c * n) n) else .ok [])
        (List.range cols) with
    | .error e => .error e
    | .ok wss => .ok (k.moved cols wss.flatten)

/-- The byte offset of an indexed row (R230). -/
def rowOffset (idx : List W32) (i n : Nat) : W64 := BitVec.ofNat 64 ((idx.getD i 0).toNat * n)

/-- A row of CPX. -/
def gatherRow (s : State) (u : Unit) (core : Nat) (k : SluiceCommand) (sp : Bool) (dst src : W64) (idx : List W32) (n : Nat) :
    Except Snag RowEnd :=
  match cmdRead s u k.seen core false (src + rowOffset idx k.row n) n with
  | .error e => .error e
  | .ok bs =>
    match (if sp then cmdWrite s u core true (dst + BitVec.ofNat 64 (k.row * n)) bs else chanPush s u core dst (some bs)) with
    | .error e => .error e
    | .ok ws => .ok (k.moved 1 ws)

/-- A row of CPS. -/
def scatterRow (s : State) (u : Unit) (core : Nat) (k : SluiceCommand) (dst src : W64) (idx : List W32) (n : Nat) :
    Except Snag RowEnd :=
  match cmdRead s u k.seen core true (src + BitVec.ofNat 64 (k.row * n)) n with
  | .error e => .error e
  | .ok bs => match cmdWrite s u core false (dst + rowOffset idx k.row n) bs with
    | .error e => .error e
    | .ok ws => .ok (k.moved 1 ws)

/-- The atomics of a row's elements, in order, each on what the ones before it have left (R230); `new` are their words so far. -/
def reduceStores (s : State) (u : Unit) (core : Nat) (base : W64) (bs : List Byte) (op : BitVec 4) (ty : BitVec 3) :
    Overlay → List Nat → Except Snag (List EngineStore)
  | _, [] => .ok []
  | new, e :: es =>
    let w := tyBytes ty
    let va := base + BitVec.ofNat 64 (e * w)
    match cmdPlace s u core .write (.reduce op ty) false va with
    | .error x => .error x
    | .ok (pa, a) =>
      if poisoned s pa w then .error .lost
      else
        let old := fromLe ((List.range w).map (fun i => (Overlay.find new (pa + i)).getD (s.mem.read (pa + i))))
        let out := leBytes (atomNew op ty old (fromLe (slice bs (e * w) w)) 0) w
        match reduceStores s u core base bs op ty (Overlay.putBytes new pa out) es with
        | .error x => .error x
        | .ok ws => .ok ({ atomic := true, va := va, pa := pa, direct := isDirect a, bytes := out } :: ws)

/-- A row of CPRED: an atomic for each element. -/
def reduceRow (s : State) (u : Unit) (core : Nat) (k : SluiceCommand) (dst src : W64) (idx : List W32) (n : Nat)
    (op : BitVec 4) (ty : BitVec 3) : Except Snag RowEnd :=
  match cmdRead s u k.seen core true (src + BitVec.ofNat 64 (k.row * n)) n with
  | .error e => .error e
  | .ok bs =>
    match reduceStores s u core (dst + rowOffset idx k.row n) bs op ty [] (List.range (n / tyBytes ty)) with
    | .error x => .error x
    | .ok ws => .ok (k.moved 1 ws)

/-- The pixel of CPCONV (R232): none for a void row, its coordinates if it lies in the picture. -/
def convPixel (l : LayoutRec) (first geom : W64) (i : Nat) : Option (Option (List Nat)) :=
  let g := geom.toNat
  let p := first.toNat + i
  let oh := field g 0 16
  let ow := field g 16 16
  let st := field g 32 4 + 1
  let dil := field g 36 4 + 1
  let y : Int := (p / ow % oh * st : Nat) - (field g 40 8 : Int) + (field g 56 4 * dil : Nat)
  let x : Int := (p % ow * st : Nat) - (field g 48 8 : Int) + (field g 60 4 * dil : Nat)
  if l.extent 3 ≤ p / (oh * ow) then none
  else if 0 ≤ y ∧ y < l.extent 2 ∧ 0 ≤ x ∧ x < l.extent 1 then some (some [x.toNat, y.toNat, p / (oh * ow)]) else some none

/-- The bytes of a pixel's row. -/
def convBytes (s : State) (u : Unit) (core : Nat) (k : SluiceCommand) (l : LayoutRec) : Option (List Nat) → Except Snag (List Byte)
  | none => .ok ((List.range (l.extent 0)).flatMap (fun _ => leBytes l.pad.toNat (fmtBytes l.fmt)))
  | some at_ =>
    match eachOk (fun c => readElem s u core k l (c :: at_)) (List.range (l.extent 0)) with
    | .error e => .error e
    | .ok xs => .ok (xs.flatMap (fun x => leBytes x.1 (fmtBytes l.fmt)))

/-- A row of CPCONV. -/
def convRow (s : State) (u : Unit) (core : Nat) (k : SluiceCommand) (l : LayoutRec) (sp : Bool) (dst first geom : W64) :
    Except Snag RowEnd :=
  match convPixel l first geom k.row with
  | none =>
    match (if sp then .ok [] else chanPush s u core dst none) with
    | .error e => .error e
    | .ok ws => .ok (({ k with nvoid := k.nvoid + 1 }.flag 2 true).moved 1 ws)
  | some at_ =>
    match convBytes s u core k l at_ with
    | .error e => .error e
    | .ok bs =>
      match (if sp then cmdWrite s u core true (dst + BitVec.ofNat 64 (k.row * bs.length)) bs else chanPush s u core dst (some bs)) with
      | .error e => .error e
      | .ok ws => .ok (k.moved 1 ws)

/-- The header of a dispatched row (R235). -/
def dispatchHeader (ovf : Nat) (token : W64) (e : W32) : List Byte :=
  leBytes ovf 4 ++ leBytes token.toNat 4 ++ leBytes e.toNat 4 ++ leBytes 0 4

/-- A lane of MOEDISP. -/
def dispatchRow (s : State) (u : Unit) (core : Nat) (k : SluiceCommand) (token desc : W64) (lanes : List (Nat × W32)) :
    Except Snag RowEnd :=
  let x := fromLe (k.tokens.flatMap (fun w => leBytes w.toNat 4))
  let w (lo : Nat) : W64 := BitVec.ofNat 64 (field x lo 64)
  let (lane, e) := lanes.getD k.row (0, 0)
  let i := token + BitVec.ofNat 64 lane
  let rowb := field x 320 16
  let cap := field x 352 32
  let stat (n : Nat) := cmdWrite s u core false (w 192 + 4 * i) (leBytes n 4)
  let entry (ovf : Nat) (va : W64) : Except Snag (List EngineStore) :=
    match cmdRead s u k.seen core false (w 0 + i * BitVec.ofNat 64 rowb) rowb with
    | .error x => .error x
    | .ok bs => cmdWrite s u core false va (dispatchHeader ovf i e ++ bs)
  let ends (resid : Bool) (n : Nat) (step : List EngineStore) (put : Except Snag (List EngineStore)) (st : Nat) : Except Snag RowEnd :=
    match put, stat st with
    | .error x, _ => .error x
    | _, .error x => .error x
    | .ok a, .ok b => .ok ((k.flag 4 resid).moved n (step ++ a ++ b))
  if field x 336 16 ≤ e.toNat then ends false 0 [] (.ok []) 0xFFFFFFFF
  else
    let cnt := w 256 + BitVec.ofNat 64 (4 * e.toNat)
    if pinnedLost s k.pins cnt then .error .lost else
    let old := pinnedWord s k.pins cnt
    if old < cap then
      ends false 1 [pinnedStore k.pins cnt (old + 1)]
        (entry 0 (w 64 + BitVec.ofNat 64 ((e.toNat * cap + old) * (rowb + 16)))) (e.toNat * 2 ^ 16 + old)
    else
      if pinnedLost s k.pins (desc + 52) then .error .lost else
      let r := pinnedWord s k.pins (desc + 52)
      if r < field x 384 32 then
        ends true 0 [pinnedStore k.pins (desc + 52) (r + 1)] (entry 1 (w 128 + BitVec.ofNat 64 (r * (rowb + 16)))) (2 ^ 31 + r)
      else ends true 0 [] (.ok []) 0xFFFFFFFE

/-- The key row of KST. -/
def keyRow (s : State) (u : Unit) (core : Nat) (k : SluiceCommand) (h : Head) (token : W64) (key : List W32) : Except Snag RowEnd :=
  match cmdWrite s u core false (h.kbase + token * BitVec.ofNat 64 h.kpitch) (key.flatMap (fun x => leBytes x.toNat h.ksize)) with
  | .error e => .error e
  | .ok ws => .ok (k.moved 1 ws)

/-- A candidate's slot of BGATHER (R239). -/
def candidateRow (s : State) (u : Unit) (core : Nat) (k : SluiceCommand) (h : Head) (chan : W64) : Except Snag RowEnd :=
  let t := k.tokens.getD k.row 0
  let at_ (base : W64) (pitch : Nat) : W64 := base + BitVec.ofNat 64 (t.toNat * pitch)
  match cmdRead s u k.seen core false (at_ h.kbase h.kpitch) (h.d * h.ksize),
    cmdRead s u k.seen core false (at_ h.vbase h.vpitch) h.vbytes with
  | .error e, _ => .error e
  | _, .error e => .error e
  | .ok kb, .ok vb =>
    match chanPush s u core chan (some (leBytes t.toNat 4 ++ leBytes 0 12 ++ kb ++ leBytes 0 (h.krow - kb.length) ++ vb)) with
    | .error e => .error e
    | .ok ws => .ok (k.moved 1 ws)

/-- A command's next row. -/
def nextRow (s : State) (u : Unit) (core : Nat) (k : SluiceCommand) : Except Snag RowEnd :=
  match k.op, k.layout, k.head with
  | .cp true spad _ origin rows cols fmtx, some l, _ =>
    if fmtx = 3 then tileRow s u core k l spad origin rows cols else loadRow s u core k l spad origin cols fmtx
  | .cp false spad _ origin _ cols _, some l, _ => storeRow s u core k l spad origin cols
  | .cpx sp dst src idx n, _, _ => gatherRow s u core k sp dst src idx n
  | .cps dst src idx n, _, _ => scatterRow s u core k dst src idx n
  | .cpred dst src idx n op ty, _, _ => reduceRow s u core k dst src idx n op ty
  | .cpconv sp dst _ first geom _, some l, _ => convRow s u core k l sp dst first geom
  | .moedisp token desc lanes, _, _ => dispatchRow s u core k token desc lanes
  | .kst _ token key, _, some h => keyRow s u core k h token key
  | .qsig _ _ _ _, _, some _ => .ok (k.moved 0 [])
  | .bgather _ _ _ _ chan _ _, _, some h => candidateRow s u core k h chan
  | _, _, _ => .ok (k.moved 0 [])

/-- The signature that QSIG writes with its row. -/
def rowRegisters (s : State) (u : Unit) (k : SluiceCommand) : State :=
  match k.op, k.head with
  | .qsig _ q d js, some h => deliverVector s u k js d (BitVec.ofNat 32 (signature h q))
  | _, _ => s

/-- Rows that a row's end has written: none for a void one or for QSIG (R417). -/
def rowsWritten (k : SluiceCommand) (r : RowEnd) : Nat :=
  match k.op with
  | .qsig _ _ _ _ => 0
  | _ => if k.nvoid < r.cmd.nvoid then 0 else 1

/-- A row's writes performed, at one step with all that the row reads (DESIGN CHOICE, log entry 23), once the log has room for their entries; without it the gang's turn is over (R222). -/
def performRow (s : State) (core : Nat) (u : Unit) (k : SluiceCommand) (r : RowEnd) : State :=
  withEngineRoom s u (storeEntries r.writes) (rotate s core u.id) (fun s =>
    let s := runStores s (refresh s u) k.win k.pc r.writes
    let s := rowRegisters s (refresh s u) k
    let cl := clusterOf k.execOn
    let n := countsOf s cl
    let s := setCounts (setCommand s core r.cmd) cl { n with rows := n.rows + rowsWritten k r }
    rotate { s with nonce := s.nonce + 2 } core u.id)

/-- SLUICE_ROW_COMPLETE. -/
def execSluiceRowComplete (core : Nat) (s : State) : Ended :=
  .next (match (s.coreAt core).sluice.find? (fun k => k.phase == .rows) with
    | none => s
    | some k =>
      match s.unit? k.unit with
      | none => s
      | some u =>
        match nextRow s u k.execOn k with
        | .error e => meetSnag { s with nonce := s.nonce + 2 } core u k false e
        | .ok r => performRow s core u k r)

/-! ### Link steps and probes -/

/-- KST_LINK (R238): one step at the base die. -/
def execKstLink (core : Nat) (s : State) : Ended :=
  .next (match (s.coreAt core).sluice.find? (fun k => k.phase == .link) with
    | none => s
    | some k =>
      match s.unit? k.unit, k.op, k.head with
      | some u, .kst _ token key, some h =>
        if indexLost s h k.pins false [signature h key] then meetSnag s core u k false .lost
        else match linkStores s h k.pins (signature h key) token.toNat with
          | none => meetSnag s core u k false (.stop 24)
          | some ws =>
            withEngineRoom s u (storeEntries ws) (rotate s core u.id) (fun s =>
              setCommand (runStores s (refresh s u) k.win k.pc ws) core { k with touched := touchedBy k.touched ws, phase := .finished })
      | _, _, _ => s)

/-- Class 10 of a probe: the gang stops at its BGATHER, sD with its old value (R239). -/
def refuseProbe (s : State) (core : Nat) (u : Unit) (k : SluiceCommand) (d : Reg) (js : List Nat) (sub : Nat) : State :=
  let held := atProbe u js
  let u := (u.deliver held (keepScalar d)).mapSlices held (fun t => { t with run := .running })
  let (w0, w1) := wordsAt s u k.pc
  let s := setCommand s core { k with phase := .stopped 0 }
  if held.isEmpty then s.setUnit u else takeTrap s u held k.pc w0 w1 { cls := 10, sub := sub }

/-- BGATHER_PROBE (R239). A gang that stands still, or runs a handler whose frame is in use, takes its class 10 when it goes on. -/
def execBgatherProbe (core : Nat) (s : State) : Ended :=
  .next (match (s.coreAt core).sluice.find? (fun k => k.phase == .probe) with
    | none => s
    | some k =>
      match s.unit? k.unit, k.op, k.head with
      | some u, .bgather _ sig near denseOk _ d js, some h =>
        if indexLost s h k.pins true (pansOf h (sig.toNat % 2 ^ h.b) near) then meetSnag s core u k false .lost
        else match probe s h k.pins sig near denseOk with
          | .cause c => meetSnag s core u k false (.stop c)
          | .refused sub => if takesNow u && u.handler.isNone then refuseProbe s core u k d js sub else rotate s core u.id
          | .found ts dense =>
            let held := atProbe u js
            let x := BitVec.ofNat 64 (ts.length + bit01 dense * 2 ^ 32)
            let k' := { k with tokens := ts, phase := if ts.isEmpty then .finished else .rows }.flag 3 dense
            let s := deliverScalar (setCommand s core k') u k held d x
            s.setUnit ((refresh s u).release held)
      | _, _, _ => s)

/-! ### The end (R224, R225) -/

/-- The sixteen bytes of a completion record. -/
def recordBytes (k : SluiceCommand) : List Byte :=
  let ver := match k.layout with | some l => l.ver.toNat | none => 0
  leBytes (k.seq.toNat + k.major.toNat * 2 ^ 32 + k.flags.toNat * 2 ^ 40 + k.bexp.toNat * 2 ^ 48) 8
    ++ leBytes (k.count % 2 ^ 32 + ver * 2 ^ 32 + k.nvoid % 2 ^ 16 * 2 ^ 48) 8

/-- Where it lies in the issuing core's scratchpad. -/
def recordOffset (u : Unit) (seq : W32) : Nat :=
  (if u.id.kind = .gang then Config.gangRing + 256 * u.id.slot else Config.memberRing) + 16 * (seq.toNat % 16)

/-- A context's name for an offset of its core's scratchpad (R399). -/
def spadName (s : State) (u : Unit) (off : Nat) : W64 :=
  (((launchOf s u).bind (launchRef s)).map (fun p => p.1.spadVa)).getD 0 + BitVec.ofNat 64 off

/-- A command gone: counted off, its touched words for a later Wait, its cause for the gang's next slot; an exited gang's
goes to S. -/
def retireCommand (s : State) (core : Nat) (id : UnitId) (k : SluiceCommand) : State :=
  let c := s.coreAt core
  let s := s.setCore { c with sluice := c.sluice.filter (fun x => x.retireId != k.retireId) }
  match s.unit? id with
  | none => s
  | some u =>
    let u := { u with engineDone := u.engineDone ++ [(k.retireId, k.touched)] }
    let s := match k.phase with
      | .stopped cause =>
        if cause = 0 then s.setUnit u
        else if u.exited then report (s.setUnit u) u { cls := 13, sub := cause.toNat } k.pc
        else s.setUnit { u with engineError := some (k.seq, cause, k.pc), errorHold := true }
      | _ => s.setUnit u
    retireOp s id (some k.retireId)

/-- SLUICE_COMMAND_COMPLETE. -/
def execSluiceCommandComplete (core : Nat) (s : State) : Ended :=
  .next (match (s.coreAt core).sluice.find? (overdue s) with
    | none => s
    | some k =>
      match s.unit? k.unit with
      | none => s
      | some u =>
        let off := recordOffset u k.seq
        withEngineRoom s u 2 (rotate s core u.id) (fun s =>
          let s := engineWrite s (refresh s u) k.win k.pc (spadName s u off) (scratchPa u.id.core off) true (recordBytes k)
          retireCommand s core u.id k))

/-- SLUICE_ENGINE_ERROR (R224): class 13 at the gang's next issue slot, with the command's PC and words. -/
def execSluiceEngineError (unit : UnitId) (s : State) : Ended :=
  .next (match s.unit? unit with
    | none => s
    | some u =>
      match u.engineError, slotGroup u with
      | some (seq, cause, pc), some js =>
        if u.exited || u.halt != .none || u.handler.isSome || u.slices.any Slice.parkedHard then s
        else
          let (w0, w1) := wordsAt s u pc
          let (s, u) := abandonGroup s { u with engineError := none } js
          let s := takeTrap s u js pc w0 w1 { cls := 13, sub := cause.toNat, seq := seq, ecause := cause, async := true }
          s.mapUnits (fun x => x.id == unit && x.halt == .none && x.handler.isNone) (fun x => { x with errorHold := false })
      | _, _ => s)

/-- A suspended command whose request is complete, or was never posted for want of room. -/
def resumable (s : State) (k : SluiceCommand) : Option SluicePhase :=
  match k.phase, s.unit? k.unit with
  | .suspended page kind start, some u =>
    if s.requests.any (fun r => r.ctx == u.ctx && r.page == page && r.kind == kind) then none
    else some (if start then .queued else .rows)
  | _, _ => none

/-- SLUICE_FAULT_RESUME (R224): the page has come; a command that met it at its start starts again. -/
def execSluiceFaultResume (core : Nat) (s : State) : Ended :=
  .next (s.setCore (let c := s.coreAt core
    { c with sluice := c.sluice.map (fun k => match resumable s k with
      | some p => { k with phase := p }
      | none => k) }))

end Sys2Proof.Machine
end

