-- ==== Sys2Proof/Machine/Preempt.lean ====
section
/-! DEFINITION. Pre-emption, saving and restoring teams, and teardown (13_progress R252, 20_recovery R349-R351, R366). A save holds a
team as the model's own data, not as the bytes of S's save area (log entry 9). -/

namespace Sys2Proof.Machine

/-! ### Saving (R28, R350) -/

/-- A unit's pending atomics performed, in order. -/
def performPending : Nat → UnitId → State → State
  | 0, _, s => s
  | n + 1, id, s =>
    match s.unit? id with
    | none => s
    | some u => match u.atomics with
      | [] => s
      | a :: _ => performPending n id (performAtomic s u 0 a)

/-- What a save completes of a unit first: a transaction is aborted (R360), stores and atomics on their way are performed,
registers receive what their producers have, the register of a wait what it held (R28), monitors are released. -/
def finishWork (s : State) (id : UnitId) : State :=
  match s.unit? id with
  | none => s
  | some u =>
    let (s, u) := if u.txn.isSome then abortTxn s u 8 0 0 else (s, u)
    let s := performPending u.atomics.length id (s.setUnit u)
    let s := settle s (refresh s u)
    let s := u.slices.foldl (fun s t => dropMonitor s id t.idx) s
    s.mapUnits (fun x => x.id == id) (fun x => { x with slices := x.slices.map Slice.captured })

/-- The sluice commands of a team. -/
def commandsOf (s : State) (team : Nat) : List SluiceCommand :=
  let mine := s.units.filter (fun u => u.team == team)
  s.cores.flatMap (fun c => c.sluice.filter (fun k => mine.any (fun u => u.id == k.unit)))

/-- A command that has still to write its register. -/
def SluiceCommand.owes (k : SluiceCommand) : Bool :=
  match k.op, k.phase with
  | .qsig _ _ _ _, .queued | .qsig _ _ _ _, .rows | .qsig _ _ _ _, .suspended _ _ _ => true
  | .bgather _ _ _ _ _ _ _, .queued | .bgather _ _ _ _ _ _ _, .probe => true
  | .bgather _ _ _ _ _ _ _, .suspended _ _ start => start
  | _, _ => false

/-- Whether what a command meets keeps it where it is, so long as its gang stands and nobody else acts: a full channel, or a fatal trap that a
gang which stands still cannot take. A page that is not present is S's to bring (R224). -/
def snagBlocks (u : Unit) : Snag → Bool
  | .wait => true
  | .page _ _ | .stop _ => false
  | .fatal _ _ | .lost => !takesNow u && !u.exited

/-- Whether the log takes no `k` entries of a unit's command for now (R222, R355). -/
def roomBlocks (s : State) (u : Unit) (k : Nat) : Bool := match makeRoom s u k with | .trap | .wait => true | _ => false

/-- Whether a command can make no step of its own where it is: at its start, a row, a link step, a probe or its end. A refresh window passes
(R166). -/
def stepBlocks (s : State) (u : Unit) (k : SluiceCommand) : Bool :=
  let s := { s with refresh := [] }
  match k.phase, k.op, k.head with
  | .queued, _, _ => isOldest s k && (match withRecord s u k.execOn k with
    | .error e => snagBlocks u e
    | .ok k => match startCommand s u k.execOn k with | .error e => snagBlocks u e | .ok _ => false)
  | .rows, _, _ => (match nextRow s u k.execOn k with
    | .error e => snagBlocks u e
    | .ok r => roomBlocks s u (storeEntries r.writes))
  | .link, .kst _ token key, some h =>
    if indexLost s h k.pins false [signature h key] then snagBlocks u .lost
    else (match linkStores s h k.pins (signature h key) token.toNat with
      | some ws => roomBlocks s u (storeEntries ws)
      | none => false)
  | .probe, .bgather _ sig near denseOk _ _ _, some h =>
    if indexLost s h k.pins true (pansOf h (sig.toNat % 2 ^ h.b) near) then snagBlocks u .lost
    else (match probe s h k.pins sig near denseOk with
      | .refused _ => !takesNow u || u.handler.isSome
      | _ => false)
  | .finished, _, _ | .stopped _, _, _ => roomBlocks s u 2
  | _, _, _ => false

/-- A command that cannot go on while its team stands: behind a class 13 that its gang has still to take, or at a step that it cannot make.
One suspended on a page goes on once S has brought it (R28, R224). -/
def stuck (s : State) (k : SluiceCommand) : Bool :=
  !notHeld s k || (match s.unit? k.unit with
    | none => true
    | some u => stepBlocks s u k)

/-- Whether a team's registers have what their producers can still give (R28): no command that can go on owes one, nor does one that
waits behind it. One behind a stuck command is saved with its register still to come (log entry 20). -/
def producersDone (s : State) (team : Nat) : Bool :=
  let ks := commandsOf s team
  (ks.filter SluiceCommand.owes).all (fun k => ks.any (fun h => h.unit == k.unit && decide (h.retireId ≤ k.retireId) && stuck s h))

/-- Whether a team may be saved: its registers filled, and no store or atomic of another unit on its way to its cores (R309). -/
def savable (s : State) (t : Team) : Bool := producersDone s t.id && !aimedAt s t.cores (fun u => u.team != t.id)

/-- A core's scratchpad, by offset. -/
def scratchOf (s : State) (core : Nat) : Mem :=
  let lo := scratchPa core 0
  (s.mem.filter (fun c => lo ≤ c.1 && c.1 < lo + Config.scratchBytes)).map (fun c => (c.1 - lo, c.2))

/-- Its poisoned words, by offset. -/
def poisonOf (s : State) (core : Nat) : List Nat :=
  let lo := scratchPa core 0
  (s.poison.filter (fun a => lo ≤ a && a < lo + Config.scratchBytes)).map (fun a => a - lo)

/-- Groups of a team no longer have issue slots. -/
def dropSlots (s : State) (gone : UnitId → Bool) : State :=
  let fs := (s.focus.toList ++ s.ports).filter (fun f => !gone f.unit)
  { s with focus := fs.head?, ports := fs.drop 1 }

/-- What a save does first: the work of its units finished, and their log entries spilled (R350). -/
def beforeSave (s : State) (team : Nat) : State :=
  spillTeam (((s.units.filter (fun u => u.team == team)).map (fun u => u.id)).foldl finishWork s) team

/-- A team whose work is finished, taken off its cores. Gangs at a safe point of a soft pre-emption keep their live masks. -/
def takeOff (s : State) (t : Team) (swapped : Bool) (soft : List (UnitId × W64 × W64)) : State :=
  let mine := s.units.filter (fun u => u.team == t.id)
  let saved : SavedTeam :=
    { team := { (s.team? t.id).getD t with softBudget := none, stopping := false }, units := mine, soft := soft, swapped := swapped
      cores := t.cores.map (fun c => (s.coreAt c, scratchOf s c, poisonOf s c)) }
  let s := dropSlots s (fun id => mine.any (fun u => u.id == id))
  let s := t.cores.foldl (fun s c => s.setCore { s.coreAt c with sluice := [], harrow := [] }) s
  { s with saved := s.saved ++ [saved], units := s.units.filter (fun u => u.team != t.id)
           teams := s.teams.filter (fun x => x.id != t.id) }

/-- A team saved and taken off its cores; while its log waits for its ring, for a page that is not present or a transaction to end, it stays
(R322, R355). -/
def saveTeam (s : State) (t : Team) (swapped : Bool) : State :=
  let soft := (s.units.filter (fun u => u.team == t.id)).filterMap (fun u => (atSafePoint s u).map (fun m => (u.id, m.1, m.2)))
  let s := beforeSave s t.id
  if spillingTeam s t.id then s else takeOff s t swapped soft

/-- A team that stands on its cores. -/
def Team.resident (t : Team) : Bool := t.started && !t.ended

/-- A hard save: the team's gangs issue no more, and it is saved once its registers are full and its log has left its slices (R28, R349,
R350). -/
def hardSave (s : State) (t : Team) : State :=
  let s := s.setTeam { t with stopping := true }
  if savable s t then saveTeam s t false else s

/-- HARD_PREEMPT (R349): every gang stops at an instruction boundary and the team is saved; the same step again where it had to wait. -/
def execHardPreempt (team : Nat) (s : State) : Ended :=
  .next (match s.team? team with
    | some t => if t.resident then hardSave s t else s
    | none => s)

/-- Every gang has exited or stands at a safe point, and the team's commands have run to completion (R349, R350). -/
def softSettled (s : State) (t : Team) : Bool :=
  (s.units.filter (fun u => u.team == t.id)).all (fun u => u.exited || u.id.kind != .gang || (atSafePoint s u).isSome)
    && t.cores.all (fun c => (s.coreAt c).sluice.isEmpty && (s.coreAt c).harrow.isEmpty)
    && !aimedAt s t.cores (fun u => u.team != t.id)

/-- SOFT_PREEMPT (R349): the request with its budget of 0 to 1,048,575 cycles, and the save once every gang stands at its safe
point. -/
def execSoftPreempt (team budget : Nat) (s : State) : Ended :=
  .next (match s.team? team with
    | none => s
    | some t =>
      if !t.resident then s
      else match t.softBudget with
        | none => if budget < 2 ^ 20 then s.setTeam { t with softBudget := some (s.gtick.toNat + budget) } else s
        | some _ => if softSettled s t then saveTeam s t false else s)

/-- SOFT_PREEMPT_BUDGET_EXPIRY: gangs that are not at a safe point are saved hard. -/
def execSoftPreemptBudgetExpiry (team : Nat) (s : State) : Ended :=
  .next (match s.team? team with
    | none => s
    | some t => match t.softBudget with
      | some d => if t.resident && decide (d ≤ s.gtick.toNat) then hardSave s t else s
      | none => s)

/-- A team whose members have all arrived at the round, its registers full (R28). -/
def swapsOut (s : State) (t : Team) : Bool := (s.units.filter (fun u => u.team == t.id)).all atRound && savable s t

/-- TEAM_SWAP_OUT (R252): a team that waits at WBAR makes room for its launch's unplaced teams. -/
def execTeamSwapOut (team : Nat) (s : State) : Ended :=
  .next (match s.team? team with
    | none => s
    | some t => match s.launch? t.launch with
      | none => s
      | some l =>
        if t.resident && l.waiting && swapsOut s t then saveTeam s t true else s)

/-! ### Restoring (R351) -/

/-- A core of the old footprint as a core of the new one. -/
def moveCore (old new : List Nat) (c : Nat) : Nat := new.getD (old.idxOf c) c
def moveId (old new : List Nat) (id : UnitId) : UnitId := { id with core := moveCore old new id.core }

/-- The team's own tables on its new footprint. -/
def moveTeam (new : List Nat) (t : Team) : Team :=
  let f := moveId t.cores new
  { t with
    cores := new, roles := t.roles.map (fun e => (e.1, e.2.map f))
    groups := t.groups.map (fun g => { g with members := g.members.map f, arrived := g.arrived.map f })
    hand := t.hand.map (fun h => { h with taken := h.taken.map f, slices := h.slices.map (fun e => (f e.1, e.2)) }) }

/-- A slice put back: one parked on a page issues again, and its lanes are translated anew (R133, R351). An MWAIT reads again at the
address that its word has then. -/
def Slice.back (t : Slice) : Slice := match t.run with | .parked (.page _ _) _ _ => { t with run := .running } | _ => t

/-- The register of a wait emptied again, as its instruction left it (R217, R233). -/
def Slice.rewait (t : Slice) : Slice :=
  match t.waitReg with
  | some d => if d = 63 then t else { t.emptyS d with results := t.results ++ [.scalarWait d] }
  | none => t

/-- A slice of a gang saved softly: registers outside the live masks read 0 (R350). -/
def Slice.softBack (m : Option (UnitId × W64 × W64)) (t : Slice) : Slice :=
  match m with
  | none => t
  | some (_, ls, lv) => maskLive { win := 0, edge := 0, liveS := ls, liveV := lv, slices := [] } t

/-- A member on the new footprint. -/
def moveUnit (x : SavedTeam) (new : List Nat) (u : Unit) : Unit :=
  { u with id := moveId x.team.cores new u.id
           slices := u.slices.map (fun t => (t.softBack (x.soft.find? (fun e => e.1 == u.id))).rewait.back) }

/-- A core of the saved footprint laid onto another. -/
def restoreCore (f : UnitId → UnitId) (s : State) (p : Nat × Core × Mem × List Nat) : State :=
  let (n, c, m, lost) := p
  let lo := scratchPa n 0
  let mem := Overlay.publish (m.map (fun e => (lo + e.1, e.2))) (s.mem.clear lo (lo + Config.scratchBytes))
  let s := clearPoison { s with mem := mem } lo Config.scratchBytes
  let s := { s with poison := s.poison ++ lost.map (fun a => lo + a) }
  s.setCore { c with num := n, power := (s.coreAt n).power
                     sluice := c.sluice.map (fun k => { k with unit := f k.unit, execOn := (f { k.unit with core := k.execOn }).core })
                     harrow := c.harrow.map (fun k => { k with unit := f k.unit }) }

/-- A scratchpad address of the old footprint in the new one. -/
def movePa (old new : List Nat) (pa : Nat) : Nat :=
  match scratchCore pa with
  | some c => scratchPa (moveCore old new c) (pa % 2 ^ 18)
  | none => pa

/-- A gang id of the old footprint in the new one. -/
def moveGang (old new : List Nat) (g : BitVec 18) : BitVec 18 := BitVec.ofNat 18 (moveCore old new (g.toNat / 16) * 16 + g.toNat % 16)

/-- Log entries of the team as its gangs' under their new names, and at the words' new places (R342, R351). The bytes of a spilled one stay as
they were written. -/
def moveEntry (old new : List Nat) (e : LogEntry) : LogEntry :=
  { e with core := moveCore old new e.core, pa := movePa old new e.pa, owner := moveGang old new e.owner
           gang := if e.spilled.isSome then e.gang else moveGang old new e.gang }

/-- A saved team put back. -/
def putBack (s : State) (x : SavedTeam) (new : List Nat) : State :=
  let f := moveId x.team.cores new
  let s := (new.zip x.cores).foldl (fun s p => restoreCore f s (p.1, p.2.1, p.2.2.1, p.2.2.2)) s
  { s with
    saved := s.saved.filter (fun y => y.team.id != x.team.id), teams := s.teams ++ [moveTeam new x.team]
    units := s.units ++ x.units.map (moveUnit x new)
    ecalls := s.ecalls.map (fun r => if r.team == x.team.id then { r with unit := f r.unit } else r)
    log := s.log.map (fun e => if e.team == x.team.id then moveEntry x.team.cores new e else e) }

/-- Whether a saved team may return to cores: one that the distributor took off at its own turn in the order of placement, on cores as R260
has them (R251, R266); one that S saved as S says. -/
def returns (s : State) (x : SavedTeam) (l : Launch) (cores : List Nat) : Bool :=
  takes s x l cores && (!x.swapped || (restoreAllowed s l && powerOrder s x l cores))

/-- TEAM_RESTORE; gated cores of the footprint power up first (R260). -/
def execTeamRestore (team : Nat) (cores : List Nat) (s : State) : Ended :=
  .next (match s.saved.find? (fun x => x.team.id == team) with
    | none => s
    | some x => match s.launch? x.team.launch with
      | none => s
      | some l =>
        if !returns s x l cores then s
        else if cores.all (corePowered s) then putBack s x cores
        else cores.foldl (fun s c => let k := s.coreAt c; s.setCore { k with power := powerUp s.gtick.toNat k.power }) s)

/-! ### Teardown (R366) -/

/-- A unit of a context that is gone; its commands run on to completion (R282, R365). -/
def Unit.lost (u : Unit) : Unit :=
  { u.exitSlices (u.slices.map (fun t => t.idx)) with
    halt := .none, handler := none, txn := none, own := [], ownPages := [], direct := [], atomics := [], engineError := none
    errorHold := false }

/-- A context's launches end with a status; its teams and its requests go. -/
def dropContext (s : State) (c : Nat) (status : Byte) : State :=
  let of (u : Unit) : Bool := u.ctx == c && u.id.kind != .mgmt
  let gone (id : UnitId) : Bool := s.units.any (fun u => u.id == id && of u)
  { s with
    units := s.units.map (fun u => if of u then u.lost else u)
    teams := s.teams.map (fun t => if t.ctx == c then { t with ended := true } else t)
    saved := s.saved.filter (fun x => x.team.ctx != c)
    launches := s.launches.map (fun l => if l.ctx == c && (l.status == 0 || l.status == 4) then { l with status := status } else l)
    monitors := s.monitors.filter (fun m => !gone m.unit)
    requests := s.requests.filter (fun r => r.ctx != c), ecalls := s.ecalls.filter (fun r => r.ctx != c) }

/-- Commands of a context's teams, with the rails that they ran on (R364). -/
def dropCommands (s : State) (c : Nat) : State :=
  let gone (id : UnitId) : Bool := s.units.any (fun u => u.id == id && u.ctx == c)
  { s with cores := s.cores.map (fun k =>
      { k with sluice := k.sluice.filter (fun x => !gone x.unit), harrow := k.harrow.filter (fun x => !gone x.unit) }) }

/-- CONTEXT_TEARDOWN: status context-lost; footprints follow by R365. -/
def execContextTeardown (ctx : Nat) (s : State) : Ended := .next (dropContext s ctx 6)

end Sys2Proof.Machine
end

