-- ==== Sys2Proof/Machine/Halts.lean ====
section
/-! DEFINITION. Halts and their release, traps that S ends, errors of slices and of data, and the spilling of the log
(20_recovery R344-R348, R352, R361-R363). -/

namespace Sys2Proof.Machine

/-! ### Halted siblings (R344-R346) -/

/-- Slices parked on a wait. -/
def waitingSlices (u : Unit) : List Nat :=
  (u.slices.filter (fun t => match t.run with | .parked _ _ _ => true | _ => false)).map (fun t => t.idx)

/-- The record of a halt (R372). -/
def haltSide (cause : Nat) : SideBuffer :=
  { replay := 0, faulted := 0, lcause := 0, seq := 0, ecause := 0, cls := BitVec.ofNat 4 cause }

/-- SIBLING_HALT: a unit stops, its skid at an end. A gang aborts its transaction (R360) and writes its part of the frame and the record,
in a handler too (R8, R346, R372). -/
def execSiblingHalt (unit : UnitId) (s : State) : Ended :=
  .next (match s.unit? unit with
    | none => s
    | some u => match u.halt with
      | .pending origin cause skid =>
        let intx := u.txn.isSome
        let (s, u) := if intx then abortTxn s u 8 0 0 else (s, u)
        let stopped := { u with halt := .halted origin (waitingSlices u) }
        if u.id.kind ≠ .gang then s.setUnit stopped
        else writeSiblingFrame (s.setUnit { stopped with side := haltSide cause }) u cause intx origin skid
      | _ => s)

/-- A halted unit goes on: its slices at their PCS, those whose wait was over meanwhile behind it, with the masks of LMASK (R371). -/
def resumeUnit (s : State) (u : Unit) (waiting : List Nat) : Unit :=
  if u.id.kind ≠ .gang then { u with halt := .none }
  else
    let lmask : LaneSet := BitVec.ofNat 32 (fromLe (s.mem.readBytes (framePa u + 48) 4))
    { u with halt := .none
             slices := u.slices.map (fun t =>
               let pc := BitVec.ofNat 64 (fromLe (s.mem.readBytes (framePa u + 64 + 8 * t.idx) 8))
               let t := { t with mask := laneBits lmask t.idx }
               if waiting.contains t.idx || pc == t.pc then t else t.jumpTo pc) }

/-- A team's units that stand halted, and of those the ones in a handler, which go on before the others (R344). -/
def haltedUnits (s : State) (team : Nat) : List Unit :=
  s.units.filter (fun u => u.team == team && (match u.halt with | .halted _ _ => true | _ => false))

/-- Whether a team's halted gangs may go on (R344): S has ended its traps and does not hold its set, and no gang runs a handler, or
gangs stand halted within theirs. -/
def releasable (s : State) (team : Nat) : Bool :=
  s.units.all (fun u => u.team != team || (match u.halt with | .none => true | .halted _ _ => true | _ => false))
    && (match s.team? team with | some t => !setHeld s t.launch t.set | none => true)
    && (s.units.all (fun u => u.team != team || u.handler.isNone) || (haltedUnits s team).any (fun u => u.handler.isSome))

/-- TEAM_RELEASE: handlers that a halt has stopped go on first. -/
def execTeamRelease (team : Nat) (s : State) : Ended :=
  .next (if releasable s team then
      let inner := (haltedUnits s team).any (fun u => u.handler.isSome)
      s.mapUnits (fun u => u.team == team && (!inner || u.handler.isSome)) (fun u => match u.halt with
        | .halted _ ws => resumeUnit s u ws
        | _ => u)
    else s)

/-! ### Traps that S ends (R348, R371) -/

/-- An engine member or a management unit behind its trap: in place after an asynchronous one, else by the continuation. -/
def resumeMember (s : State) (u : Unit) (cls : Nat) (mode : TretMode) : Unit :=
  let u := { u with halt := .none, errorHold := false }
  match mode, u.slices.find? Slice.alive with
  | .next, some t =>
    if 16 ≤ cls then u
    else u.advance ((u.slices.filter (fun x => x.alive && x.grp == t.grp)).map (fun x => x.idx)) (sizeOf0 (wordsAt s u t.pc).1)
  | _, _ => u

/-- The continuation of a mode number. -/
def tretMode (m : BitVec 2) : Option TretMode :=
  match m.toNat with | 0 => some .next | 1 => some .replay | 2 => some .reex | _ => none

/-- A trap with which S holds a unit. -/
def Unit.trapped (u : Unit) : Bool := match u.halt with | .trapped _ => true | _ => false
/-- A unit that the port or a reverse step holds. -/
def Unit.atPort (u : Unit) : Bool := match u.halt with | .port _ => true | _ => false

/-- Units of a team that a reverse step or the port has stopped go on; while S holds a trap of the team they stand halted by it. -/
def resumePort (s : State) (team : Nat) : State :=
  let stopper := s.units.find? (fun u => u.team == team && u.trapped)
  let free (t : Team) : Team := if t.id == team then { t with held := false } else t
  { s with teams := s.teams.map free }.mapUnits (fun u => u.team == team) (fun u => match u.halt, stopper with
    | .port ws, none => resumeUnit s u ws
    | .port ws, some x => { u with halt := .halted x.gangId.toNat ws }
    | _, _ => u)

/-- Whether the port or a reverse step keeps a team stopped. -/
def teamHeld (s : State) (team : Nat) : Bool :=
  (match s.team? team with | some t => t.held | none => false) || s.units.any (fun u => u.team == team && u.atPort)

/-- A gang behind a trap that S ends: on its way, or at the port while its team is held there (R411). -/
def endTrap (s : State) (u : Unit) (m : TretMode) : State :=
  let v := { trapReturn s u m with handler := u.handler }
  let s := s.commandsToFrame u.id u.handler.isSome
  if teamHeld s u.team then
    let v := { v with halt := .port [] }
    writePcs (s.setUnit v) v
  else s.setUnit v

/-- SUPERVISOR_TRAP_RESUME: a trap that was not delegated, by the frame as it stands; one that stood in a handler leaves the gang in
it. An engine member of a team that the port holds stands at the port, too (R411). A unit that a reverse step stopped goes on with its team; one that the port holds waits for its RESUME. -/
def execSupervisorTrapResume (unit : UnitId) (mode : BitVec 2) (s : State) : Ended :=
  .next (match s.unit? unit, tretMode mode with
    | some u, some m => match u.halt with
      | .trapped c =>
        if u.exited then s.setUnit { u with halt := .none }
        else if u.id.kind = .gang then endTrap s u m
        else
          let v := resumeMember s u c m
          s.setUnit (if teamHeld s u.team then { v with halt := .port [] } else v)
      | .port _ => if (match s.team? u.team with | some t => t.held | none => false) then s else resumePort s u.team
      | _ => s
    | _, _ => s)

/-! ### Errors in slices (R361, R362) -/

/-- A corrected error counted for a core or a stack (R407); a core's also for its cluster's record (R417). -/
def countCorrected (s : State) (index : Nat) : State :=
  let n := ((s.corr.find? (fun c => c.1 == index)).map (fun c => c.2)).getD 0
  let s := { s with corr := (index, satAdd n 1) :: s.corr.filter (fun c => c.1 != index) }
  if index < 16384 then
    let k := countsOf s (clusterOf index)
    setCounts s (clusterOf index) { k with corr := k.corr + 1 }
  else s

/-- CORRECTED_ERROR (R361): cores are 0 to 16,383, stacks 16,384 to 16,399. -/
def execCorrectedError (index : Nat) (s : State) : Ended := .next (if index < 16400 then countCorrected s index else s)

/-- Whether a gang's current window can be run again (R362). -/
def retryable (s : State) (u : Unit) : Bool :=
  match afterTarget u u.winno 0 s.log with
  | none => false
  | some es => decide (u.earliest ≤ u.winno.toNat) && !es.any (fun e => e.kind == 3 || e.kind == 5)
      && u.checkpoints.any (fun c => c.win == u.winno && c.edge == 0)

/-- A machine check at a slice (R362). -/
def machineCheck (s : State) (u : Unit) (t : Slice) (sub : Nat) : State :=
  let (w0, w1) := wordsAt s u t.pc
  takeTrap s { u with halt := .none } (groupWith u t.idx) t.pc w0 w1 { cls := 14, sub := sub }

/-- Where a gang stands behind a retry: as it did. -/
def Halt.rewound : Halt → Halt
  | .halted o _ => .halted o []
  | .port _ => .port []
  | .error _ h => h.rewound
  | h => h

/-- A transaction behind a retry: stores of its own that the retry withdraws are gone. -/
def Txn.rewound (t : Txn) (u : Unit) (kept gone : List LogEntry) : Txn :=
  { t with own := (withdraw t.own [] (kept.filter (t.entry u)) (gone.filter (t.entry u))).1 }

/-- The gang back at the start of its window, where it stood otherwise; the place of the error is remembered (R362). -/
def retryWindow (s : State) (u : Unit) (t : Slice) : State :=
  let mine := s.log.filter (fun e => e.of u)
  let gone := (afterTarget u u.winno 0 mine).getD []
  let place : ErrorPlace := { core := u.id.core, slice := t.idx, win := u.winno, pc := t.pc, passed := false }
  let s' := (undoGang (s.setUnit u) u.id u.winno 0).mapUnits (fun x => x.id == u.id) (fun x =>
    { x with halt := u.halt.rewound, retried := place :: u.retried
             txn := x.txn.map (fun y => y.rewound u (mine.take (mine.length - gone.length)) gone) })
  match u.halt with
  | .halted _ _ | .port _ => writePcs s' (refresh s' u)
  | _ => s'

/-- What an uncorrectable error of a slice comes to, once the gang's engine operations have completed (R362, R383). A gang at a trap of
its own or in its handler is not rolled back (log entry 29). -/
def sliceError (s : State) (u : Unit) (t : Slice) : State :=
  if u.id.kind ≠ .gang ∨ u.trapped ∨ u.handler.isSome ∨ !retryable s u then machineCheck s u t 1
  else if u.retried.any (fun p => p.core == u.id.core && p.slice == t.idx && p.win == u.winno && p.pc == t.pc) then
    machineCheck { s with defective := if s.defective.contains u.id.core then s.defective else s.defective ++ [u.id.core] } u t 2
  else retryWindow s u t

/-- SLICE_UNCORRECTABLE_ERROR: the gang stops; the same step again, when its operations have completed, retries or stops it. -/
def execSliceUncorrectableError (unit : UnitId) (sl : Nat) (s : State) : Ended :=
  .next (match s.unit? unit with
    | none => s
    | some u =>
      match u.slice? sl with
      | none => s
      | some t =>
        if u.exited || !t.alive then s
        else match u.halt with
          | .error j h => match u.slice? j with
            | some y => if drained u then sliceError s { u with halt := h } y else s
            | none => s
          | h => if drained u then sliceError s u t else s.setUnit { u with halt := .error sl h })

/-- Places of errors that an issue of a group has passed: the faults were transient, and are counted (R362). -/
def passPlaces (f : Focus) (before after : State) : State :=
  match before.unit? f.unit with
  | none => after
  | some u =>
    let passes (p : ErrorPlace) : Bool :=
      !p.passed && p.core == u.id.core && f.slices.contains p.slice && p.win == u.winno && (u.slice? p.slice).any (fun t => t.pc == p.pc)
    if !u.retried.any passes then after
    else if after.unit? f.unit = some u then after
    else
      let s := after.mapUnits (fun x => x.id == f.unit) (fun x =>
        { x with retried := x.retried.map (fun p => if passes p then { p with passed := true } else p) })
      (u.retried.filter passes).foldl (fun s _ => countCorrected s u.id.core) s

/-! ### Poison (R363) -/

/-- A poisoned word or line listed once. -/
def addPoison (s : State) (pa : Nat) : State :=
  let b := (poisonUnit pa).1
  if s.poison.contains b then s else { s with poison := s.poison ++ [b] }

/-- The entries that share a line of 128 bytes with an entry of a core's log slice: four from a multiple of four on, by their places in the
slice (log entry 29). -/
def lineOfLog (s : State) (n : Nat) : List LogEntry :=
  match s.log.find? (fun e => e.id == n) with
  | none => []
  | some e =>
    let held := unspilled s e.core
    let i := held.findIdx (fun x => x.id == n)
    if i < held.length then (held.drop (i / 4 * 4)).take 4 else [e]

/-- DATA_POISON. A poisoned line of a log slice makes the windows that it covers unreversible. -/
def execDataPoison (place : PoisonPlace) (s : State) : Ended :=
  .next (match place with
    | .memory a => match placeOf a with
      | .hbm _ | .weight _ | .scratch _ => addPoison s (canonPa a)
      | _ => s
    | .tile c t => let k := s.coreAt c; if t < 8 then s.setCore { k with tLost := k.tLost ||| 1#8 <<< t } else s
    | .acc c a => let k := s.coreAt c; if a < 4 then s.setCore { k with aLost := k.aLost ||| 1#4 <<< a } else s
    | .log n => discardWindows s (lineOfLog s n))

/-! ### The log's spilling (R352, R333) -/

/-- LOG_SPILL: a core's oldest entries of one ring; a not-present page posts a request. -/
def execLogSpill (core count : Nat) (s : State) : Ended := .next (spill s (spillable s core count))

end Sys2Proof.Machine
end

