-- ==== Sys2Proof/Machine/Host.lean ====
section
/-! DEFINITION. The host: memory writes, the control window, peers, heat, the latches of the counters (01_device R8,
18_isolation R312, 20_recovery R364, 25_host R406-R419). -/

namespace Sys2Proof.Machine

/-! ### The context table (R312) -/

/-- A context as its entry gives it. One that comes into being starts with its other registers at reset values; a running
one keeps them (R370). -/
def contextFrom (old : Context) (x : Nat) : Context :=
  let base := if !old.live && field x 0 1 = 1 then Context.blank else old
  { base with
    live := field x 0 1 = 1, formOk := field x 1 11 == 0 && field x 52 12 == 0 && field x 304 208 == 0 && field x 275 29 == 0
    root := field x 12 40, linkb := BitVec.ofNat 64 (field x 64 64), qmask := BitVec.ofNat 64 (field x 128 64)
    trapbase := BitVec.ofNat 64 (field x 192 64), deleg := BitVec.ofNat 16 (field x 256 16), dbgctl := BitVec.ofNat 32 (field x 272 32) }

/-- The place of a context's entry. -/
def entryPa (s : State) (c : Nat) : Nat := s.ctxtab.toNat + 64 * c

/-- Every context as the table at CTXTAB gives it. -/
def readContexts (s : State) : State :=
  { s with contexts := s.contexts.mapIdx (fun c k => contextFrom k (fromLe (deviceBytes s (entryPa s c) 64))) }

/-- The cells of memory in the parts of the table, by which a write to it shows. -/
def tableCells (s : State) : Mem :=
  let parts := (pageParts 3 s.ctxtab.toNat 4096 0).map (fun p => (canonPa (s.ctxtab.toNat + p.1), p.2))
  s.mem.filter (fun c => parts.any (fun p => p.1 ≤ c.1 && c.1 < p.1 + p.2))

/-- Contexts whose entries a step has changed are as their entries now have them (R312). -/
def readChanged (before after : State) : State :=
  if tableCells before = tableCells after then after
  else { after with contexts := after.contexts.mapIdx (fun c k =>
      let now := deviceBytes after (entryPa after c) 64
      if deviceBytes before (entryPa after c) 64 = now then k else contextFrom k (fromLe now)) }

/-! ### Writes of the host to memory (R162, R406) -/

/-- HOST_WRITE: the host writes its own memory at one point of the publication order. -/
def execHostWrite (addr : Nat) (bytes : List Byte) (s : State) : Ended :=
  .next (if addr + bytes.length ≤ 2 ^ 50 then publishAt s device (0x8000000000000 + addr) bytes else s)

/-- Bytes that reach the device's own memory from outside a program: a scratchpad's are performed, others published. -/
def deviceWrite (s : State) (pa : Nat) (bs : List Byte) : State :=
  (pageParts (bs.length / 4096 + 2) pa bs.length 0).foldl (fun s p =>
    let a := canonPa (pa + p.1)
    match placeOf a with
    | .hbm _ | .weight _ => publishAt s device a (slice bs p.1 p.2)
    | .scratch _ => performAt s a (slice bs p.1 p.2)
    | _ => s) s

/-- The AtomicOps of which the package is a completer: FetchAdd, Swap and CAS of 32 or 64 bits, aligned (R163, R406). -/
def completes (addr : Nat) (op : BitVec 4) (ty : BitVec 3) : Bool :=
  (op == 0 || op == 6 || op == 7) && decide (4 ≤ tyBytes ty) && addr % tyBytes ty == 0

/-- HOST_WINDOW_WRITE: what S sends through BAR2, bytes or an AtomicOp; not in reset-hold (R6). -/
def execHostWindowWrite (addr : Nat) (op : WindowOp) (s : State) : Ended :=
  .next (if !accepting s then s
    else match op with
      | .bytes bs => readChanged s (deviceWrite s addr bs)
      | .atomic k ty data cmp =>
        let n := tyBytes ty
        let old := fromLe (deviceBytes s addr n)
        if completes addr k ty then readChanged s (deviceWrite s addr (leBytes (atomNew k ty old (data.toNat % 2 ^ (8 * n)) cmp.toNat) n))
        else s)

/-! ### The peer table (R414, R416) -/

/-- UP follows the trained ports, and SYNC does not outlast it. -/
def trainPeers (s : State) : State :=
  { s with peers := s.peers.map (fun p =>
      let up := s.links.any (fun l => p.ports.getLsbD l.1 && l.2 == p.pkg)
      { p with up := up, sync := p.sync && up && p.en }) }

/-- An entry as written; UP and SYNC are the device's, TMO is clamped. -/
def peerFrom (old : Peer) (x : Nat) : Peer :=
  { en := field x 0 1 = 1, sync := old.sync, up := old.up, ports := BitVec.ofNat 16 (field x 8 16), pkg := BitVec.ofNat 16 (field x 24 16)
    tmo := BitVec.ofNat 24 (max 600 (min 600000 (field x 40 24))), wbase := BitVec.ofNat 32 (field x 64 32)
    wsize := BitVec.ofNat 32 (field x 96 32) }

/-- An entry as read. -/
def Peer.image (p : Peer) : Nat :=
  bit01 p.en + bit01 p.sync * 2 + bit01 p.up * 4 + p.ports.toNat * 2 ^ 8 + p.pkg.toNat * 2 ^ 24 + p.tmo.toNat * 2 ^ 40
    + p.wbase.toNat * 2 ^ 64 + p.wsize.toNat * 2 ^ 96

def writePeer (s : State) (p x : Nat) : State := trainPeers (s.setPeer p (peerFrom (s.peer p) x))

/-- PEER_TABLE_WRITE. -/
def execPeerTableWrite (peer : Nat) (entry : BitVec 128) (s : State) : Ended :=
  .next (if peer < 64 ∧ accepting s then writePeer s peer entry.toNat else s)

/-- APL_LINK_TRAIN: a port trains to the package that answers behind it. -/
def execAplLinkTrain (port : Nat) (pkg : BitVec 16) (s : State) : Ended :=
  .next (if port < 16 then trainPeers { s with links := (port, pkg) :: s.links.filter (fun l => l.1 != port) } else s)

/-- APL_LINK_LOSS. -/
def execAplLinkLoss (port : Nat) (s : State) : Ended :=
  .next (trainPeers { s with links := s.links.filter (fun l => l.1 != port) })

/-- TICK_FLIT (R415): SYNC holds while the two packages' ticks agree within 4. It orders no access and moves no tick. -/
def execTickFlit (peer : Nat) (tick : W64) (s : State) : Ended :=
  .next (if peer < 64 then
      let p := s.peer peer
      let near := decide (s.gtick.toNat ≤ tick.toNat + 4 ∧ tick.toNat ≤ s.gtick.toNat + 4)
      s.setPeer peer { p with sync := p.en && p.up && near }
    else s)

/-- FLIT_CRC_RETRY (R413): a retry on the link changes no result and no order. -/
def execFlitCrcRetry (port : Nat) (s : State) : Ended :=
  let _ := port
  .next s

/-! ### Operations to and from peers (R186, R413, R414) -/

/-- An operation's end in its unit's PEER counter, also of a team that is saved. -/
def retirePeer (s : State) (q : PeerOp) (ok : Bool) : State :=
  let f (u : Unit) : Unit := if u.ops.any (fun o => o.cls == 3 && o.id == q.id) then completeOp u q.id else u
  let s := if ok then s else failLaunch s q.launch
  { s with
    peerOps := s.peerOps.filter (fun x => x.id != q.id), units := s.units.map f
    saved := s.saved.map (fun x => { x with units := x.units.map f }) }

/-- Whether an operation's timeout has passed (R414). -/
def PeerOp.late (q : PeerOp) (now : Nat) : Bool := decide (q.issued.toNat + q.tmo * 100 ≤ now)

/-- PEER_ACK; one that comes after the timeout finds the operation failed. -/
def execPeerAck (op : Nat) (ok : Bool) (s : State) : Ended :=
  .next (match s.peerOps.find? (fun q => q.id == op) with
    | some q => retirePeer s q (ok && !q.late s.gtick.toNat)
    | none => s)

/-- PEER_TIMEOUT: an operation not acknowledged within its timeout retires as failed. -/
def execPeerTimeout (op : Nat) (s : State) : Ended :=
  .next (match s.peerOps.find? (fun q => q.id == op) with
    | some q => if q.late s.gtick.toNat then retirePeer s q false else s
    | none => s)

/-- Whether a peer may reach bytes of this package's HBM4 (R413, R416). -/
def peerReaches (p : Peer) (addr n : Nat) : Bool :=
  let base := p.wbase.toNat * 2 ^ 20
  p.en && decide (base < 2 ^ 40 ∧ base ≤ addr ∧ addr + n ≤ base + p.wsize.toNat * 2 ^ 20 ∧ addr + n ≤ 2 ^ 40)

/-- PEER_OP_ARRIVAL: a store or an atomic of a peer is performed where its window lets it; a read changes nothing here. -/
def execPeerOpArrival (peer : Nat) (op : PeerRequest) (s : State) : Ended :=
  .next (match op with
    | .store a bs => if peerReaches (s.peer peer) a bs.length then deviceWrite s a bs else s
    | .atomic a k ty d =>
      let n := tyBytes ty
      if peerReaches (s.peer peer) a n then
        let old := fromLe (s.mem.readBytes (canonPa a) n)
        publishAt s device (canonPa a) (leBytes (atomNew k ty old (d.toNat % 2 ^ (8 * n)) 0) n)
      else s
    | .read _ _ => s)

/-! ### Heat (R364, R419) -/

/-- The clusters of a die. -/
def clustersOf (die : Nat) : List Nat := (List.range 8).map (fun i => die * 8 + i)

/-- Every pool of a die to C3, its earlier classes remembered. -/
def toC3 (s : State) (die : Nat) : State :=
  if s.c3dies.contains die then s
  else
    let before := (clustersOf die).map (fun c => (c, s.pools.getD c 1))
    (clustersOf die).foldl (fun s c => moveCluster s c 3) { s with c3dies := s.c3dies ++ [die], c3from := s.c3from ++ before }

/-- A die compared with the marks: the critical mark stops dispatch, the warning mark slows the die, 5 °C below the warning
mark it cools. -/
def compareDie (s : State) (die : Nat) (t : Int) : State :=
  let s := { s with temps := s.temps.set die t }
  let s := if (s.critMark.toNat : Int) ≤ t ∧ s.critical.isNone ∧ s.pkgstat = .running then { s with critical := some s.gtick.toNat } else s
  let s := if (s.warnMark.toNat : Int) ≤ t then toC3 s die else s
  if t + 80 ≤ (s.warnMark.toNat : Int) then
    if s.coolSince.any (fun c => c.1 == die) then s else { s with coolSince := s.coolSince ++ [(die, s.gtick.toNat)] }
  else { s with coolSince := s.coolSince.filter (fun c => c.1 != die) }

/-- Whether a die's comparison is due: it makes one every 600 ticks (R419). -/
def compareDue (s : State) (die : Nat) : Bool := decide (s.lastCompare.getD die 0 + 600 ≤ s.gtick.toNat)

/-- THERMAL_COMPARE: the hottest sensor of a die read anew, in sixteenths of a degree (log entry 5). -/
def execThermalCompare (die : Nat) (s : State) : Ended :=
  .next (if die < 16 then
      let (x, s) := s.free
      compareDie { s with lastCompare := s.lastCompare.set die s.gtick.toNat } die (x.setWidth 32).toInt
    else s)

/-- A die has been cool for 600,000 ticks. -/
def cooled (s : State) (die : Nat) : Bool := s.coolSince.any (fun c => c.1 == die && decide (c.2 + 600000 ≤ s.gtick.toNat))

/-- C3_EXIT: the die's clusters go back to the classes that they had. -/
def execC3Exit (die : Nat) (s : State) : Ended :=
  .next (if s.c3dies.contains die && cooled s die && s.pkgstat == .running then
      let s' := { s with c3dies := s.c3dies.filter (fun d => d != die), c3from := s.c3from.filter (fun e => !(clustersOf die).contains e.1) }
      (s.c3from.filter (fun e => (clustersOf die).contains e.1 && s.pools.getD e.1 1 == 3)).foldl (fun s e => moveCluster s e.1 e.2) s'
    else s)

/-- Teams that the emergency still has to save. -/
def savesLeft (s : State) : Bool := s.teams.any Team.resident

/-- THERMAL_SAVES_DONE: every team saved, the rails are removed. -/
def execThermalSavesDone (s : State) : Ended :=
  .next (if s.pkgstat = .running ∧ s.critical.isSome ∧ !savesLeft s then { s with pkgstat := .thermalOff } else s)

/-- THERMAL_SAVE_BUDGET_EXPIRY: 1,200,000 ticks after the mark the contexts not yet saved are lost. -/
def execThermalSaveBudgetExpiry (s : State) : Ended :=
  .next (match s.critical with
    | some t =>
      if s.pkgstat = .running ∧ t + 1200000 ≤ s.gtick.toNat then
        let lost := (List.range 64).filter (fun c => s.teams.any (fun x => x.ctx == c && x.resident))
        { lost.foldl (fun s c => dropContext (dropCommands s c) c 5) s with pkgstat := .thermalOff }
      else s
    | none => s)

/-- THERMAL_COOLED: every die has been cool long enough; the hold awaits the host. -/
def execThermalCooled (s : State) : Ended :=
  .next (if s.pkgstat = .thermalOff ∧ (List.range 16).all (cooled s) then { s with pkgstat := .thermalHold } else s)

/-- The thermal hold released: rails back, every pool in C3. -/
def releaseHold (s : State) : State :=
  if s.pkgstat = .thermalHold then { (List.range 16).foldl toC3 s with pkgstat := .running, critical := none, pools := List.replicate 128 3 }
  else s

/-- THREL. -/
def execThrel (s : State) : Ended := .next (releaseHold s)

/-! ### The control window (R407-R409, R419) -/

/-- A descriptor as read (R408). -/
def Queue.image (d : Queue) : Nat :=
  d.rbase.toNat + d.nslot.toNat * 2 ^ 64 + d.ceil.toNat * 2 ^ 80 + d.ctx.toNat * 2 ^ 83 + bit01 d.opened * 2 ^ 89 + bit01 d.dev * 2 ^ 90
    + bit01 d.irq * 2 ^ 91 + d.cbase.toNat * 2 ^ 128 + d.ncomp.toNat * 2 ^ 192 + d.wptr.toNat * 2 ^ 256 + d.rptr.toNat * 2 ^ 288
    + d.cwptr.toNat * 2 ^ 320 + d.crptr.toNat * 2 ^ 352 + d.dropdb.toNat * 2 ^ 480

/-- A descriptor as written; DROPDB is read-only. -/
def queueFrom (old : Queue) (x : Nat) : Queue :=
  { old with
    rbase := BitVec.ofNat 64 x, nslot := BitVec.ofNat 16 (field x 64 16), ceil := BitVec.ofNat 3 (field x 80 3)
    ctx := BitVec.ofNat 6 (field x 83 6), opened := field x 89 1 = 1, dev := field x 90 1 = 1, irq := field x 91 1 = 1
    cbase := BitVec.ofNat 64 (field x 128 64), ncomp := BitVec.ofNat 16 (field x 192 16), wptr := BitVec.ofNat 32 (field x 256 32)
    rptr := BitVec.ofNat 32 (field x 288 32), cwptr := BitVec.ofNat 32 (field x 320 32), crptr := BitVec.ofNat 32 (field x 352 32) }

/-- A number whose 64-bit word `i` is replaced. -/
def withWord (x i : Nat) (v : W64) : Nat := x - field x (64 * i) 64 * 2 ^ (64 * i) + v.toNat * 2 ^ (64 * i)

/-- GO of the debug command (R412). -/
def debugGo (s : State) : Bool := s.debugCmd.getLsbD 8

/-- A corrected-error count cleared. -/
def clearCorr (s : State) (index : Nat) : State := { s with corr := s.corr.filter (fun c => c.1 != index) }

/-- CORR_CLEAR. -/
def execCorrClear (index : Nat) (s : State) : Ended := .next (if accepting s then clearCorr s index else s)

/-- A write of 64 bits at an aligned offset of BAR0. Registers that are read-only or not listed ignore it. -/
def writeControl (s : State) (offset : Nat) (v : W64) : State :=
  let at_ (base n : Nat) : Bool := base ≤ offset && offset < base + n
  if offset % 8 ≠ 0 then s
  else if offset = 0x10 then (if v.getLsbD 0 then releaseHold s else s)
  else if offset = 0x100 then readContexts { s with ctxtab := v }
  else if at_ 0x10000 4096 then
    let q := (offset - 0x10000) / 64
    s.setQueue q (queueFrom (s.queue q) (withWord (s.queue q).image (offset % 64 / 8) v))
  else if at_ 0x20000 1024 then moveCluster s ((offset - 0x20000) / 8) (v.setWidth 2)
  else if at_ 0x20800 64 then
    if offset % 16 = 0 then { s with budgets := s.budgets.set ((offset - 0x20800) / 16) (v.setWidth 32, (v >>> 32).setWidth 32) } else s
  else if offset = 0x30100 then { s with warnMark := v.setWidth 16, critMark := (v >>> 16).setWidth 16 }
  else if at_ 0x50000 1024 then
    let p := (offset - 0x50000) / 16
    writePeer s p (withWord (s.peer p).image (offset % 16 / 8) v)
  else if at_ 0x60000 64 then
    if debugGo s then s else { s with debugCmd := BitVec.ofNat 512 (withWord s.debugCmd.toNat ((offset - 0x60000) / 8) v) }
  else if at_ 0x80000 0x20080 then clearCorr s ((offset - 0x80000) / 8)
  else s

/-- PKGSTAT as read (R407). -/
def PkgStat.code : PkgStat → Nat | .running => 0 | .resetHold => 1 | .thermalOff => 2 | .thermalHold => 3

/-- What the host reads at an aligned offset of BAR0 (R407): unlisted registers read as zero. -/
def controlRead (s : State) (offset : Nat) : W64 :=
  let at_ (base n : Nat) : Bool := base ≤ offset && offset < base + n
  if offset = 0 then BitVec.ofNat 64 s.pkgstat.code
  else if offset = 8 then s.gtick
  else if offset = 0x100 then s.ctxtab
  else if at_ 0x10000 4096 then BitVec.ofNat 64 (field (s.queue ((offset - 0x10000) / 64)).image (offset % 64 / 8 * 64) 64)
  else if at_ 0x20000 1024 then (s.pools.getD ((offset - 0x20000) / 8) 1).setWidth 64
  else if at_ 0x20400 1024 then BitVec.ofNat 64 (demandOf s ((offset - 0x20400) / 8))
  else if at_ 0x20800 64 then
    if offset % 16 = 0 then let (p, cap) := s.budgets.getD ((offset - 0x20800) / 16) (0, 0); cap ++ p else 0
  else if at_ 0x30000 128 then (BitVec.ofInt 32 (s.temps.getD ((offset - 0x30000) / 8) 0)).signExtend 64
  else if offset = 0x30100 then (s.critMark ++ s.warnMark).setWidth 64
  else if at_ 0x50000 1024 then BitVec.ofNat 64 (field (s.peer ((offset - 0x50000) / 16)).image (offset % 16 / 8 * 64) 64)
  else if at_ 0x60000 64 then BitVec.ofNat 64 (field s.debugCmd.toNat ((offset - 0x60000) / 8 * 64) 64)
  else if at_ 0x80000 0x20080 then
    match s.corr.find? (fun c => c.1 == (offset - 0x80000) / 8) with
    | some c => c.2.setWidth 64
    | none => 0
  else 0

/-- A write of 32 or 64 bits to the window; the other half of a register that is written by half keeps its value. In reset-hold the
package takes none (R6). -/
def writeWindow (s : State) (offset : Nat) (x : ControlWrite) : State :=
  if !accepting s then s
  else match x with
    | .full v => writeControl s offset v
    | .half w =>
      if offset % 8 = 0 then writeControl s offset (((controlRead s offset) >>> 32).setWidth 32 ++ w)
      else if offset % 8 = 4 then writeControl s (offset - 4) (w ++ (controlRead s (offset - 4)).setWidth 32)
      else s

/-- CONTROL_WINDOW_WRITE. -/
def execControlWindowWrite (offset : Nat) (value : ControlWrite) (s : State) : Ended := .next (writeWindow s offset value)

/-! ### Latches (R417, R418) -/

/-- Fields of a record head: kind, coordinates, slot, context. -/
def recordHead (tick : W64) (kind core slot ctx : Nat) (sample : Bool) : List Byte :=
  leBytes tick.toNat 8 ++ leBytes (kind + coreDie core * 2 ^ 4 + coreCluster core * 2 ^ 8
    + (if sample then coreIndex core * 2 ^ 11 + slot * 2 ^ 18 else 0) + ctx * 2 ^ 22) 4

/-- A count over an interval, saturating. -/
def intervalCount (now then_ : Nat) : List Byte := leBytes (min (now - then_) (2 ^ 32 - 1)) 4

/-- A cluster's counts at a context's last latch. -/
def latched (s : State) (ctx cl : Nat) : ClusterCounts :=
  ((s.latches.find? (fun l => l.1 == ctx && l.2.1 == cl)).map (fun l => l.2.2)).getD blankCounts

/-- A context's part of the energy measured over an interval, by its share of the instructions issued (R258, R417), rounded down (DESIGN
CHOICE, log entry 5). -/
def energyShare (now then_ : ClusterCounts) (ctx : Nat) : Nat :=
  (now.energy - then_.energy) * (countOf now.byCtx ctx - countOf then_.byCtx ctx) / (now.issued - then_.issued)

/-- A counter record of a cluster. -/
def counterRecord (s : State) (ctx cl : Nat) : List Byte :=
  let k := countsOf s cl
  let b := latched s ctx cl
  recordHead s.gtick 1 (cl * 128) 0 ctx false ++ intervalCount k.issued b.issued ++ intervalCount k.stall b.stall
    ++ intervalCount k.wait b.wait ++ intervalCount k.ksteps b.ksteps ++ intervalCount k.rows b.rows
    ++ intervalCount (energyShare k b ctx) 0 ++ intervalCount k.corr b.corr ++ List.replicate 24 0

/-- A sample record of a gang. -/
def sampleRecord (s : State) (u : Unit) : List Byte :=
  let pc := ((u.slice? 0).map (fun t => t.pc)).getD 0
  let rs := ((u.slice? 0).map (fun t => t.regions)).getD []
  recordHead s.gtick 2 u.id.core u.id.slot u.ctx true ++ leBytes pc.toNat 8
    ++ (List.range 4).flatMap (fun i => leBytes ((rs.getD i 0).toNat) 2) ++ leBytes rs.length 4 ++ List.replicate 32 0

/-- A record that finds no room is dropped and counted. -/
def loseRecord (s : State) (ctx : Nat) : State :=
  let c := s.ctx ctx
  let n := field c.trstat.toNat 16 16
  s.setCtx ctx { c with trstat := if n < 65535 then c.trstat + 0x10000 else c.trstat }

/-- One record of a context, written through a core: its bytes, page by page, then WPTR (R418). Where one of its pages takes no write,
tracing suspends (R333). -/
def traceRecord (s : State) (ctx core : Nat) (bs : List Byte) : State :=
  let c := s.ctx ctx
  if c.trstat.getLsbD 1 then s
  else match regionParts s ctx core c.trcbase 16 with
    | none => suspendTrace s ctx
    | some hs =>
      let h := fromLe (readParts s hs)
      let cap := field h 0 64 / 64
      let w := field h 64 32
      let r := field h 96 32
      if cap ≤ (w + 2 ^ 32 - r) % 2 ^ 32 then loseRecord s ctx
      else match regionParts s ctx core (c.trcbase + BitVec.ofNat 64 (64 + w % cap * 64)) bs.length,
                 regionParts s ctx core (c.trcbase + 8) 4 with
        | some ps, some ws => writeParts (writeParts s device ps bs) device ws (leBytes (w + 1) 4)
        | _, _ => suspendTrace s ctx

/-- A cluster's first core with a team of a context. -/
def coreOfContext (s : State) (ctx cl : Nat) : Option Nat :=
  ((s.teams.filter (fun t => t.ctx == ctx && t.resident)).flatMap (fun t => t.cores)).find? (fun c => clusterOf c == cl)

/-- A latch tick of one context: records where it is traced, then the counts that the next interval starts from. -/
def latchContext (s : State) (ctx : Nat) : State :=
  let on (s : State) : Bool := (s.ctx ctx).trstat.getLsbD 0
  let s1 := if !on s then s
    else (List.range 128).foldl (fun s cl => match coreOfContext s ctx cl with
      | some core => traceRecord s ctx core (counterRecord s ctx cl)
      | none => s) s
  let s2 := if !on s || !(s.ctx ctx).trstat.getLsbD 2 then s1
    else (s1.units.filter (fun u => u.ctx == ctx && u.id.kind == .gang && !u.exited)).foldl
      (fun s u => traceRecord s ctx u.id.core (sampleRecord s u)) s1
  { s2 with latches := s2.latches.filter (fun l => l.1 != ctx) ++ s2.counts.map (fun (c : Nat × ClusterCounts) => (ctx, c.1, c.2)) }

/-- Whether a context's latch tick is reached. -/
def latchDue (s : State) (ctx : Nat) : Bool :=
  (s.ctx ctx).live && s.gtick.toNat % 2 ^ (s.ctx ctx).sampk.toNat == 0 && s.lastLatch != s.gtick

/-- The energy that each cluster has used since the last latch, measured: free values (log entry 5). -/
def measureEnergy (s : State) : State :=
  { s with counts := s.counts.map (fun (c : Nat × ClusterCounts) =>
             (c.1, { c.2 with energy := c.2.energy + (s.freeAt (2 ^ 21 + c.1)).toNat % 2 ^ 32 }))
           nonce := s.nonce + 1 }

/-- LATCH_TICK. -/
def execLatchTick (s : State) : Ended :=
  .next { ((List.range 64).filter (latchDue s)).foldl latchContext (measureEnergy s) with lastLatch := s.gtick }

end Sys2Proof.Machine
end

