-- ==== Sys2Proof/Machine/Debug.lean ====
section
/-! DEFINITION. The debug port (25_host R411, R412). An operation that must first stop a team leaves GO set, and the same step
again goes on with it. -/

namespace Sys2Proof.Machine

/-! ### The command -/

/-- A field of the command at DEBUG. -/
def dbg (s : State) (lo n : Nat) : Nat := field s.debugCmd.toNat lo n
def dbgOp (s : State) : Nat := dbg s 0 8
def dbgCtx (s : State) : Nat := dbg s 24 6
def dbgArg0 (s : State) : Nat := dbg s 64 64
def dbgArg1 (s : State) : Nat := dbg s 128 64
def dbgArg2 (s : State) : Nat := dbg s 192 64

/-- READ's and WRITE's register: class, number, slice. -/
def dbgClass (s : State) : Nat := dbg s 128 2
def dbgReg (s : State) : Nat := dbg s 130 6
def dbgSlice (s : State) : Nat := dbg s 136 3

/-- Whether the operands keep to their fields (R412). -/
def dbgArgsOk (s : State) : Bool :=
  let a := dbgArg0 s
  let b := dbgArg1 s
  let c := dbgArg2 s
  match dbgOp s with
  | 1 => a < 256 && b < 2 && c == 0
  | 2 => a < 16 && b < 65536 && c == 0
  | 3 => a < 2 ^ 18 && b == 0 && c == 0
  | 4 => a < 2 ^ 18 && b < 3 && c == 0
  | 5 => a < 2 ^ 24 && b < 2 ^ 48 && c < 2
  | 6 | 7 => a < 2 ^ 18 && b < 2 ^ 11 && c == 0 && dbgClass s != 3 && !(dbgClass s == 2 && 8 ≤ dbgReg s)
  | _ => false

/-- Whether the command is one. -/
def dbgOk (s : State) : Bool := dbg s 9 7 == 0 && dbg s 30 34 == 0 && dbg s 448 64 == 0 && dbgArgsOk s

/-- The end of the operation: STATUS, RESULT, DATA, then GO is clear. -/
def endDebug (s : State) (status result data : Nat) : State :=
  let keep := dbg s 0 8 + dbg s 9 7 * 2 ^ 9 + dbg s 24 232 * 2 ^ 24 + dbg s 448 64 * 2 ^ 448
  { s with debugCmd := BitVec.ofNat 512 (keep + status * 2 ^ 16 + result * 2 ^ 256 + data * 2 ^ 320), debugS := false }

/-- The same with DATA as the host wrote it. -/
def endPlain (s : State) (status : Nat) : State := endDebug s status 0 (dbg s 320 128)

/-- An operation that the command at DEBUG names, once its context and the permission of R356 hold. -/
def onDebug (s : State) (op : Nat) (allowed : Context → Bool) (go : State → Nat → State) : Ended :=
  .next (if !debugGo s || dbgOp s != op || !dbgOk s then s
    else if !(s.ctx (dbgCtx s)).live then endPlain s 3
    else if !allowed (s.ctx (dbgCtx s)) then endPlain s 1
    else go s (dbgCtx s))

/-- PORT, or S (R356, R411). -/
def portAllows (byS : Bool) (c : Context) : Bool := byS || c.dbgctl.getLsbD 2

/-- The gang that ARG0 names, of the command's context. -/
def dbgGang (s : State) : Option Unit :=
  s.units.find? (fun u => u.ctx == dbgCtx s && u.gangId.toNat == dbgArg0 s % 2 ^ 18 && u.id.kind == .gang && !u.exited)

/-- DEBUG_BAD_COMMAND (R412). -/
def execDebugBadCommand (s : State) : Ended := .next (if debugGo s && !dbgOk s then endPlain s 4 else s)

/-! ### Breakpoints and region stops (R370, R382) -/

/-- SETBRK. -/
def execSetbrk (byS : Bool) (s : State) : Ended :=
  onDebug s 1 (portAllows byS) (fun s c =>
    let k := s.ctx c
    let bit : BitVec 256 := 1#256 <<< dbgArg0 s
    endPlain (s.setCtx c { k with brk := if dbgArg1 s = 1 then k.brk ||| bit else k.brk &&& ~~~bit }) 0)

/-- SETRGN: also refused without STOP. -/
def execSetrgn (byS : Bool) (s : State) : Ended :=
  onDebug s 2 (fun k => portAllows byS k && k.dbgctl.getLsbD 0) (fun s c =>
    let k := s.ctx c
    let id : BitVec 16 := BitVec.ofNat 16 (dbgArg1 s)
    endPlain (s.setCtx c { k with regions := k.regions.set (dbgArg0 s % 16) (some id) (Nat.mod_lt _ (by decide)) }) 0)

/-! ### Halting and resuming (R344, R411) -/

/-- A gang stopped by the port at an instruction boundary: a transaction aborts (R360), the frame and the record are written, no handler
is entered. In a handler's frame only what a halt writes changes (log entry 17). -/
def stopAtPort (s : State) (u : Unit) : State :=
  let intx := u.txn.isSome
  let (s, u) := if intx then abortTxn s u 8 0 0 else (s, u)
  let v := { u with halt := .port (waitingSlices u), side := haltSide 9 }
  let pc := ((u.slices.find? Slice.alive).map (fun t => t.pc)).getD 0
  if u.handler.isSome then writeSiblingFrame (s.setUnit v) v (9 + 2 * 2 ^ 8) intx v.gangId.toNat 0
  else writeFrame (s.setUnit v) v [] pc 0 0 { cls := 9, sub := 2 } intx

/-- A stopped team held until the port's RESUME, whatever S does with its traps (R411). -/
def holdForPort (s : State) (team : Nat) : State :=
  let hold (t : Team) : Team := if t.id == team then { t with held := true } else t
  holdStopped { s with teams := s.teams.map hold } team

/-- HALT: the gang stops and its team with it, class 9, SUB 2. It ends when the whole team stands. -/
def execDebugHalt (byS : Bool) (s : State) : Ended :=
  onDebug s 3 (portAllows byS) (fun s _ =>
    match dbgGang s with
    | none => endPlain s 3
    | some u =>
      if teamStopped s u.team then endPlain (holdForPort s u.team) 0
      else broadcastHalt { (if u.halt = .none then stopAtPort s u else s) with debugS := byS } u .team (9 + 2 * 2 ^ 8))

/-- Whether the port, or a reverse step, holds a team. -/
def portHalted (s : State) (team : Nat) : Bool := teamStopped s team && teamHeld s team

/-- RESUME: in every mode each slice goes on at its PC of PCS. -/
def execDebugResume (byS : Bool) (s : State) : Ended :=
  onDebug s 4 (portAllows byS) (fun s _ =>
    match dbgGang s with
    | none => endPlain s 3
    | some u => if portHalted s u.team then endPlain (resumePort s u.team) 0 else endPlain s 2)

/-- UNDO (R378): of the command's context only (R334); its status is RESULT. -/
def execDebugUndo (byS : Bool) (s : State) : Ended :=
  onDebug s 5 (portAllows byS) (fun s c =>
    let a := dbgArg0 s
    let b := dbgArg1 s
    if a % 64 ≠ c then endPlain s 3
    else match reverseStep s c (a / 64) (BitVec.ofNat 32 b) (b / 2 ^ 32) (dbgArg2 s == 1) true with
      | .status n s => endDebug s 0 n (dbg s 320 128)
      | .waits s => { s with debugS := byS })

/-! ### Registers (R411, R412) -/

/-- A gang whose registers the port may reach. -/
def Halt.standing : Halt → Bool
  | .halted _ _ | .trapped _ | .port _ => true
  | _ => false

/-- What READ returns in DATA. -/
def readDebug (s : State) (t : Slice) : Nat :=
  let r : Reg := BitVec.ofNat 6 (dbgReg s)
  match dbgClass s with
  | 0 => (t.getS r).toNat
  | 1 => (t.getV r 0).toNat + (t.getV r 1).toNat * 2 ^ 32 + (t.getV r 2).toNat * 2 ^ 64 + (t.getV r 3).toNat * 2 ^ 96
  | _ => (t.getK (dbgReg s)).toNat

/-- What WRITE does with DATA. -/
def writeDebug (s : State) (t : Slice) : Slice :=
  let r : Reg := BitVec.ofNat 6 (dbgReg s)
  match dbgClass s with
  | 0 => t.putS r (BitVec.ofNat 64 (dbg s 320 64))
  | 1 => [0, 1, 2, 3].foldl (fun (t : Slice) (l : Fin 4) => t.putV r l (BitVec.ofNat 32 (dbg s (320 + 32 * l.val) 32))) t
  | _ => t.putK (dbgReg s) (BitVec.ofNat 4 (dbg s 320 4))

/-- A register operation on the slice that ARG1 names. -/
def onRegister (s : State) (go : Unit → Slice → State) : State :=
  match dbgGang s with
  | none => endPlain s 3
  | some u =>
    if !u.halt.standing then endPlain s 2
    else match u.slice? (dbgSlice s) with
      | none => endPlain s 4
      | some t => go u t

/-- READ. -/
def execDebugRead (byS : Bool) (s : State) : Ended :=
  onDebug s 6 (portAllows byS) (fun s _ => onRegister s (fun _ t => endDebug s 0 0 (readDebug s t)))

/-- WRITE. -/
def execDebugWrite (byS : Bool) (s : State) : Ended :=
  onDebug s 7 (portAllows byS) (fun s _ => onRegister s (fun u t =>
    endPlain (s.setUnit (u.mapSlices [t.idx] (writeDebug s))) 0))

end Sys2Proof.Machine
end

