-- ==== Sys2Proof/Machine/Code.lean ====
section
/-! DEFINITION. Loading and unloading code objects: the Yalsum image, relocations, references and residency (04_encoding R57,
18_isolation R328-R331, 24_assembly_reference R394-R399, R405). Objects are told apart by their images, which their hashes
name (log entry 12). -/

namespace Sys2Proof.Machine

/-! ### The image (R394) -/

/-- A number of `n` bytes at an offset. -/
def word (bs : List Byte) (off n : Nat) : Nat := fromLe (slice bs off n)

/-- A section: its kind and its bytes. -/
structure Section where
  kind : Nat
  bytes : List Byte
  deriving DecidableEq, Repr

/-- The header's own form; the entry is checked against TEXT. -/
def headerOk (img : List Byte) : Bool :=
  64 ≤ img.length && slice img 0 6 == [0x59, 0x41, 0x4C, 0x53, 0x55, 0x4D] && word img 6 1 == 1 && word img 7 1 == 0
    && 1 ≤ word img 8 2 && word img 8 2 ≤ 16 && field (word img 10 2) 3 13 == 0 && word img 12 4 % 4 == 0
    && 4 ≤ word img 16 2 && word img 16 2 ≤ 1024 && (slice img 18 46).all (fun b => b == 0)

/-- One entry of the section table, or none where it breaks its form; the sections lie after the header and the table. -/
def sectionAt (img : List Byte) (i : Nat) : Option Section :=
  let e := slice img (64 + 32 * i) 32
  let kind := word e 0 1
  let off := word e 8 8
  let size := word e 16 8
  if e.length = 32 ∧ 1 ≤ kind ∧ kind ≤ 12 ∧ word e 1 7 = 0 ∧ word e 24 8 = 0 ∧ off % 64 = 0
      ∧ 64 + 32 * word img 8 2 ≤ off ∧ off + size ≤ img.length then
    some { kind := kind, bytes := slice img off size }
  else none

/-- The sections, no kind twice. -/
def sectionsOf (img : List Byte) : Option (List Section) :=
  if !headerOk img then none
  else match allSome ((List.range (word img 8 2)).map (sectionAt img)) with
    | none => none
    | some ss => if distinct (ss.map (fun x => x.kind)) then some ss else none

/-- A section's bytes; none of a kind that is absent. -/
def sectionOf (ss : List Section) (kind : Nat) : List Byte := ((ss.find? (fun x => x.kind == kind)).map (fun x => x.bytes)).getD []
def hasSection (ss : List Section) (kind : Nat) : Bool := ss.any (fun x => x.kind == kind)

/-- Records of `n` bytes of a section, none left over. -/
def records (bs : List Byte) (n : Nat) : List (List Byte) := (List.range (bs.length / n)).map (fun i => slice bs (n * i) n)

/-! ### First words and the role map (R38, R39, R57) -/

/-- Offsets of the first words of a block, from word `i` on. -/
def firstsIn (text : List Byte) (base : Nat) : Nat → Nat → List Nat
  | 0, _ => []
  | fuel + 1, i =>
    if 16 ≤ i then []
    else (base + 4 * i) :: firstsIn text base fuel (if word text (base + 4 * i) 1 % 2 = 1 then i + 2 else i + 1)

/-- Offsets of the first words of a text; each block begins with one. -/
def firstWords (text : List Byte) : List Nat := (List.range (text.length / 64)).flatMap (fun b => firstsIn text (64 * b) 16 0)

/-- A first word of a long form; the last word of a block begins none (R39). -/
def longAt (text : List Byte) (off : Nat) : Bool :=
  (firstsIn text (off / 64 * 64) 16 0).contains off && off % 64 != 60 && word text off 1 % 2 == 1

/-- The map byte of a block: the roles of its first words. -/
def mapOf (text : List Byte) (b : Nat) : Byte :=
  (firstsIn text (64 * b) 16 0).foldl (fun m off =>
    m ||| 1#8 <<< (Decode.roleOf (BitVec.ofNat 32 (word text off 4))).toNat) 0

/-- The role map that the loader recomputes. -/
def roleMap (text : List Byte) : List Byte := (List.range (text.length / 64)).map (mapOf text)

/-! ### Relocations (R395) -/

/-- A relocation record. -/
structure Reloc where
  site : Nat
  ssec : Nat
  tsec : Nat
  rk : Nat
  addend : Nat
  deriving DecidableEq, Repr

def relocAt (r : List Byte) : Reloc := { site := word r 0 4, ssec := word r 4 1, tsec := word r 5 1, rk := word r 6 1, addend := word r 8 8 }

/-- The places of a load, as the target values need them. -/
def targetValue (q : LoadRequest) (r : Reloc) : Nat :=
  (match r.tsec with
    | 1 => q.textVa.toNat + r.addend
    | 7 => q.spadVa.toNat + r.addend
    | 8 => q.globalVa.toNat + r.addend
    | 9 => q.memsideVa.toNat + r.addend
    | _ => q.importBase + r.addend) % 2 ^ 64

/-- The form of a record against its sections. -/
def relocOk (ss : List Section) (q : LoadRequest) (bs : List Byte) : Bool :=
  let r := relocAt bs
  let site := sectionOf ss r.ssec
  [1, 7, 8, 9].contains r.ssec && [1, 5, 7, 8, 9].contains r.tsec && r.rk ≤ 6 && word bs 7 1 == 0 && hasSection ss r.ssec && hasSection ss r.tsec
    && (if r.rk = 0 then decide (r.site + 8 ≤ site.length) else if r.rk = 6 then decide (r.site + 4 ≤ site.length)
        else r.ssec == 1 && decide (r.site + 8 ≤ site.length) && longAt site r.site)
    && !(r.tsec == 5 && decide ((sectionOf ss 5).length / 8 ≤ r.addend)) && !(r.rk == 5 && decide (65536 ≤ targetValue q r))

/-- Bytes placed into a list. -/
def patch (bs : List Byte) (off : Nat) (new : List Byte) : List Byte := bs.take off ++ new ++ bs.drop (off + new.length)

/-- One record applied to its section. -/
def applyReloc (q : LoadRequest) (bs : List Byte) (r : Reloc) : List Byte :=
  let v := targetValue q r
  match r.rk with
  | 0 => patch bs r.site (leBytes v 8)
  | 5 => patch bs (r.site + 6) (leBytes v 2)
  | 6 => patch bs r.site (leBytes v 4)
  | k => patch bs (r.site + 6) (leBytes (v / 2 ^ (16 * (k - 1))) 2)

/-- A section with its relocations. -/
def relocated (ss : List Section) (q : LoadRequest) (kind : Nat) : List Byte :=
  (((records (sectionOf ss 4) 16).map relocAt).filter (fun r => r.ssec == kind)).foldl (applyReloc q) (sectionOf ss kind)

/-! ### The rest of the form (R396-R399) -/

/-- SAFEPT: sorted, at first words, nothing reserved. -/
def safeOk (text bs : List Byte) : Bool :=
  bs.length % 24 == 0 && rising ((records bs 24).map (fun r => word r 0 4))
    && (records bs 24).all (fun r => word r 4 4 == 0 && (firstsIn text (word r 0 4 / 64 * 64) 16 0).contains (word r 0 4) && decide (word r 0 4 < text.length))

/-- IMPORT and EXPORT: names in STRINGS, each ended by a zero byte. -/
def namesOk (ss : List Section) : Bool :=
  let strings := sectionOf ss 12
  let name (r : List Byte) : Bool := decide (word r 0 4 < strings.length)
  (strings.isEmpty || strings.getLast? == some 0)
    && (sectionOf ss 5).length % 8 == 0 && (records (sectionOf ss 5) 8).all (fun r => name r && word r 4 4 == 0)
    && (sectionOf ss 6).length % 8 == 0
    && (records (sectionOf ss 6) 8).all (fun r => name r && word r 4 4 % 4 == 0 && decide (word r 4 4 < (sectionOf ss 1).length))

/-- Everything that an image must keep, but for the contents of its role map. -/
def imageOk (img : List Byte) (ss : List Section) (q : LoadRequest) : Bool :=
  let text := sectionOf ss 1
  hasSection ss 1 && hasSection ss 2 && text.length % 64 == 0 && (sectionOf ss 2).length == text.length / 64
    && decide (word img 12 4 < text.length) && (sectionOf ss 4).length % 16 == 0 && (records (sectionOf ss 4) 16).all (relocOk ss q)
    && safeOk text (sectionOf ss 3) && namesOk ss && decide ((sectionOf ss 7).length < Config.frameBase)
    && (sectionOf ss 11).length % 16 == 0 && (records (sectionOf ss 11) 16).all (fun r => word r 8 8 == 0)

/-! ### CODE_LOAD (R328, R329, R405) -/

/-- The object of an image whose text S has placed. -/
def objectOf (img : List Byte) (ss : List Section) (q : LoadRequest) (handle : W64) : CodeObject :=
  { handle := handle, image := img, textPa := q.textPa, size := (sectionOf ss 1).length, rolemap := sectionOf ss 2
    imports := (sectionOf ss 5).length / 8
    safe := (records (sectionOf ss 3) 24).map (fun r => (word r 0 4, BitVec.ofNat 64 (word r 8 8), BitVec.ofNat 64 (word r 16 8)))
    spad := sectionOf ss 7, stack := word img 16 2 * 16 }

/-- Whether a run of link-table entries is one that no other object of the context has (R396). -/
def runFree (s : State) (ctx base n : Nat) : Bool :=
  s.refs.all (fun r => r.ctx != ctx || (match s.objects.find? (fun o => o.handle == r.handle) with
    | some o => decide (base + n ≤ r.importBase ∨ r.importBase + o.imports ≤ base ∨ n = 0 ∨ o.imports = 0)
    | none => true))

/-- Bytes of whole pages. -/
def pageUp (n : Nat) : Nat := (n + 4095) / 4096 * 4096

/-- Whether a place lies in the stacked window of HBM4, on whole pages, clear of the text of every object, which some context maps (R17,
R298, R405). -/
def placeFree (s : State) (pa size : Nat) : Bool :=
  pa % 4096 == 0 && decide (pa + pageUp size ≤ 2 ^ 39)
    && s.objects.all (fun o => decide (pa + pageUp size ≤ o.textPa ∨ o.textPa + pageUp o.size ≤ pa))

/-- Places of given sizes that do not meet, each page by page. -/
def apart : List (Nat × Nat) → Bool
  | [] => true
  | p :: ps => ps.all (fun q => decide (p.1 + pageUp p.2 ≤ q.1 ∨ q.1 + pageUp q.2 ≤ p.1)) && apart ps

/-- Whether what a load writes for its context has room: its data and the frames for missing tables, free and apart (log entry 18). -/
def dataFree (s : State) (q : LoadRequest) (data memside : Nat) : Bool :=
  let ps := ([(q.globalPa, data), (q.memsidePa, memside)].filter (fun p => p.2 != 0)) ++ q.tables.map (fun f => (f, 4096))
  ps.all (fun p => placeFree s p.1 p.2) && apart ps

/-- Whether a scratchpad window lies on whole pages within the addresses that a context has (R314, R399). -/
def windowFits (va : W64) : Bool := va.toNat % 4096 == 0 && decide (va.toNat + Config.scratchBytes ≤ 2 ^ 56)

/-- A level-0 leaf entry of attributes for a frame (R316). -/
def leafEntry (pa attrs : Nat) : Nat := pa + attrs + 2 ^ 52

/-- A level-0 leaf entry written at an address's place, the missing tables on the way made from the frames given (R315, R316); none where
the address is mapped already, a table lies outside HBM4 or the frames run out. -/
def mapPage (va e : Nat) : List Nat → Nat → State × List Nat → Option (State × List Nat)
  | [], _, _ => none
  | l :: ls, frame, (s, frames) =>
    let idx := if l = 4 then field va 48 8 else field va (12 + 9 * l) 9
    let old := tableEntry s.mem frame idx
    let put (s : State) (x : Nat) : State := deviceWrite s (frame + 8 * idx) (leBytes x 8)
    if (match placeOf frame with | .hbm _ => false | _ => true) then none
    else if l = 0 then if old % 2 = 1 then none else some (put s e, frames)
    else if old % 2 = 1 then if field old 52 1 = 1 then none else mapPage va e ls (field old 12 40 * 4096) (s, frames)
    else match frames with
      | [] => none
      | f :: fs => mapPage va e ls f (put (deviceWrite s f (List.replicate 4096 0)) (f + 1), fs)

/-- Bytes at a physical address mapped at a virtual one with 4 KiB leaves of the attributes given. -/
def mapPages (ctx va pa size attrs : Nat) (x : State × List Nat) : Option (State × List Nat) :=
  if size = 0 then some x
  else if va % 4096 ≠ 0 ∨ pa % 4096 ≠ 0 ∨ 2 ^ 56 < va + size then none
  else (List.range ((size + 4095) / 4096)).foldl (fun x i => match x with
    | none => none
    | some x => mapPage (va + 4096 * i) (leafEntry (pa + 4096 * i) attrs) [4, 3, 2, 1, 0] ((x.1.ctx ctx).root * 4096) x) (some x)

/-- Bytes written for S at a place of this package or of the host; none where there is no such memory. -/
def supervisorWrite (s : State) (pa : Nat) (bs : List Byte) : Option State :=
  match placeOf pa with
  | .hbm _ | .weight _ | .scratch _ => some (deviceWrite s pa bs)
  | .host => some (publishAt s device pa bs)
  | _ => none

/-- The lazy stubs of a run, entry `i` at LINKB + 8 · (base + `i`) (R278, R396); none where the link table has no memory there. -/
def writeStubs (ctx base n : Nat) (s : State) : Option State :=
  (List.range n).foldl (fun s i => match s with
    | none => none
    | some s =>
      let va := ((s.ctx ctx).linkb + BitVec.ofNat 64 (8 * (base + i))).toNat
      match walk s va [4, 3, 2, 1, 0] ((s.ctx ctx).root * 4096) with
      | .ok l => if va < 2 ^ 56 then supervisorWrite s (l.pa va) (leBytes (4 * i) 8) else none
      | .error _ => none) (some s)

/-- What a load makes for the context itself: its copies of the data images on pages of R17 and R298, its lazy stubs, the text mapped
on EXEC pages without WRITE, its reference (R328, R396, R399, R405); none where S has no room for one of them. -/
def bindObject (s : State) (ctx : Nat) (ss : List Section) (q : LoadRequest) (o : CodeObject) : Option State :=
  let r : CodeRef := { ctx := ctx, handle := o.handle, textVa := q.textVa, retiring := false, importBase := q.importBase, spadVa := q.spadVa
                       spad := relocated ss q 7 }
  let data := relocated ss q 8
  let memside := relocated ss q 9
  if !q.room || !runFree s ctx q.importBase o.imports || !dataFree s q data.length memside.length || !windowFits q.spadVa then none
  else
    (((mapPages ctx q.globalVa.toNat q.globalPa data.length 0x04B
          (deviceWrite (deviceWrite s q.globalPa data) q.memsidePa memside, q.tables)).bind
        (mapPages ctx q.memsideVa.toNat q.memsidePa memside.length 0x14B)).bind
      (mapPages ctx q.textVa.toNat o.textPa o.size 0x06D)).bind
    (fun x => (writeStubs ctx q.importBase o.imports x.1).map (fun s => { s with refs := s.refs ++ [r] }))

/-- The status with which a load ends. -/
def endLoad (s : State) (ctx : Nat) (st : LoadStatus) (handle : W64) : State := { s with loadEnd := some (ctx, st, handle) }

/-- A reference made, or no room for it. -/
def endBound (s : State) (ctx : Nat) (st : LoadStatus) (handle : W64) (bound : Option State) : State :=
  match bound with
  | some s' => endLoad s' ctx st handle
  | none => endLoad s ctx .noSpace 0

/-- A load of an image of which no object is loaded. The role map is checked against the text as relocated, which is what is fetched. -/
def loadNew (s : State) (ctx : Nat) (q : LoadRequest) : State :=
  match sectionsOf q.image with
  | none => endLoad s ctx .imageForm 0
  | some ss =>
    if !imageOk q.image ss q then endLoad s ctx .imageForm 0
    else if roleMap (relocated ss q 1) != sectionOf ss 2 then endLoad s ctx .roleMapMismatch 0
    else if !placeFree s q.textPa (sectionOf ss 1).length then endLoad s ctx .noSpace 0
    else
      let o := objectOf q.image ss q (BitVec.ofNat 64 (s.nextId + 1))
      let s' := deviceWrite { s with nextId := s.nextId + 1, objects := s.objects ++ [o] } q.textPa (relocated ss q 1)
      endBound s ctx .ok o.handle (bindObject s' ctx ss q o)

/-- CODE_LOAD: a new object, a reference to one that is loaded, or a retiring reference revived. -/
def execCodeLoad (ctx : Nat) (load : LoadRequest) (s : State) : Ended :=
  .next (if 64 ≤ ctx then s
    else match s.objects.find? (fun o => o.image == load.image) with
      | none => loadNew s ctx load
      | some o => match s.refs.find? (fun r => r.ctx == ctx && r.handle == o.handle) with
        | some r =>
          let s' := { s with refs := s.refs.map (fun x => if x.ctx == ctx && x.handle == o.handle then { x with retiring := false } else x) }
          endLoad s' ctx (if r.retiring then .revived else .shared) o.handle
        | none => match sectionsOf load.image with
          | none => endLoad s ctx .imageForm 0
          | some ss => endBound s ctx .shared o.handle (bindObject s ctx ss load o))

/-! ### Unloading (R330, R331) -/

/-- CODE_UNLOAD. -/
def execCodeUnload (ctx : Nat) (handle : W64) (s : State) : Ended :=
  .next { s with refs := s.refs.map (fun r => if r.ctx == ctx && r.handle == handle then { r with retiring := true } else r) }

/-- What a slice counts towards an object's residency: its PC and the entries of its return stack, spilled ones too. -/
def sliceResides (inText : W64 → Bool) (t : Slice) : Bool := t.alive && (t.pc :: (t.retStack ++ t.retSpilled)).any inText

/-- Whether anything of a context resides in an object (R330). -/
def resides (s : State) (r : CodeRef) (o : CodeObject) : Bool :=
  let inText (pc : W64) : Bool := r.textVa.toNat ≤ pc.toNat && pc.toNat < r.textVa.toNat + o.size
  (s.units ++ s.saved.flatMap (fun x => x.units)).any (fun u => u.ctx == r.ctx && u.slices.any (sliceResides inText))
    || s.launches.any (fun l => l.ctx == r.ctx && l.record.code == r.handle)

/-- Where the leaf entry of an address lies. -/
def leafPlace (s : State) (va : Nat) : List Nat → Nat → Option Nat
  | [], _ => none
  | l :: ls, frame =>
    let idx := if l = 4 then field va 48 8 else field va (12 + 9 * l) 9
    let e := tableEntry s.mem frame idx
    if e % 2 = 0 then none
    else if field e 52 1 = 0 then leafPlace s va ls (field e 12 40 * 4096) else some (canonPa (frame + 8 * idx))

/-- An object's text unmapped from a context: its leaf entries and what TLBs hold of them. -/
def unmapText (s : State) (r : CodeRef) (o : CodeObject) : State :=
  let lo := r.textVa.toNat / 4096 * 4096
  let pages := (List.range ((r.textVa.toNat + o.size - lo + 4095) / 4096)).map (fun i => lo + 4096 * i)
  let s := pages.foldl (fun s va => match leafPlace s va [4, 3, 2, 1, 0] ((s.ctx r.ctx).root * 4096) with
    | some pa => publishAt s device pa (leBytes 0 8)
    | none => s) s
  { s with tlb := s.tlb.filter (fun e => !(e.2.ctx == r.ctx && decide (e.2.va < r.textVa.toNat + o.size ∧ lo < e.2.va + e.2.size))) }

/-- UNLOAD_COMPLETE: residency zero; the object is freed with its last reference. -/
def execUnloadComplete (ctx : Nat) (handle : W64) (s : State) : Ended :=
  .next (match s.refs.find? (fun r => r.ctx == ctx && r.handle == handle && r.retiring), s.objects.find? (fun o => o.handle == handle) with
    | some r, some o =>
      if resides s r o then s
      else
        let s := unmapText s r o
        let s := { s with refs := s.refs.filter (fun x => !(x.ctx == ctx && x.handle == handle)) }
        if s.refs.any (fun x => x.handle == handle) then s else { s with objects := s.objects.filter (fun x => x.handle != handle) }
    | _, _ => s)

end Sys2Proof.Machine
end

