-- ==== Sys2Proof/Machine/Dispatch.lean ====
section
/-! DEFINITION. The meaning of every row of the table, one arm each. -/

namespace Sys2Proof.Machine

def exec (i : Instr) (s : State) : Host.Outcome State Fault Refusal :=
  match i with
  | .sadd o => Sys2Proof.Machine.execSadd o s
  | .ssub o => Sys2Proof.Machine.execSsub o s
  | .smul o => Sys2Proof.Machine.execSmul o s
  | .smulh o => Sys2Proof.Machine.execSmulh o s
  | .sdiv o => Sys2Proof.Machine.execSdiv o s
  | .srem o => Sys2Proof.Machine.execSrem o s
  | .sand o => Sys2Proof.Machine.execSand o s
  | .sor o => Sys2Proof.Machine.execSor o s
  | .sxor o => Sys2Proof.Machine.execSxor o s
  | .sshl o => Sys2Proof.Machine.execSshl o s
  | .sshr o => Sys2Proof.Machine.execSshr o s
  | .ssra o => Sys2Proof.Machine.execSsra o s
  | .smin o => Sys2Proof.Machine.execSmin o s
  | .smax o => Sys2Proof.Machine.execSmax o s
  | .sset o => Sys2Proof.Machine.execSset o s
  | .sli o => Sys2Proof.Machine.execSli o s
  | .sliIns o => Sys2Proof.Machine.execSliIns o s
  | .vadd o => Sys2Proof.Machine.execVadd o s
  | .vsub o => Sys2Proof.Machine.execVsub o s
  | .vmul o => Sys2Proof.Machine.execVmul o s
  | .vmulh o => Sys2Proof.Machine.execVmulh o s
  | .vmad o => Sys2Proof.Machine.execVmad o s
  | .vand o => Sys2Proof.Machine.execVand o s
  | .vor o => Sys2Proof.Machine.execVor o s
  | .vxor o => Sys2Proof.Machine.execVxor o s
  | .vshl o => Sys2Proof.Machine.execVshl o s
  | .vshr o => Sys2Proof.Machine.execVshr o s
  | .vsra o => Sys2Proof.Machine.execVsra o s
  | .vmin o => Sys2Proof.Machine.execVmin o s
  | .vmax o => Sys2Proof.Machine.execVmax o s
  | .vabs o => Sys2Proof.Machine.execVabs o s
  | .vclz o => Sys2Proof.Machine.execVclz o s
  | .vpopc o => Sys2Proof.Machine.execVpopc o s
  | .vcmp o => Sys2Proof.Machine.execVcmp o s
  | .vsel o => Sys2Proof.Machine.execVsel o s
  | .fadd o => Sys2Proof.Machine.execFadd o s
  | .fsub o => Sys2Proof.Machine.execFsub o s
  | .fmul o => Sys2Proof.Machine.execFmul o s
  | .ffma o => Sys2Proof.Machine.execFfma o s
  | .fmin o => Sys2Proof.Machine.execFmin o s
  | .fmax o => Sys2Proof.Machine.execFmax o s
  | .fsgn o => Sys2Proof.Machine.execFsgn o s
  | .fcmp o => Sys2Proof.Machine.execFcmp o s
  | .fclass o => Sys2Proof.Machine.execFclass o s
  | .fscale o => Sys2Proof.Machine.execFscale o s
  | .frint o => Sys2Proof.Machine.execFrint o s
  | .fcvt o => Sys2Proof.Machine.execFcvt o s
  | .fcvti o => Sys2Proof.Machine.execFcvti o s
  | .icvtf o => Sys2Proof.Machine.execIcvtf o s
  | .bfpack o => Sys2Proof.Machine.execBfpack o s
  | .frcp o => Sys2Proof.Machine.execFrcp o s
  | .frsq o => Sys2Proof.Machine.execFrsq o s
  | .fsqrt o => Sys2Proof.Machine.execFsqrt o s
  | .fexp2 o => Sys2Proof.Machine.execFexp2 o s
  | .flog2 o => Sys2Proof.Machine.execFlog2 o s
  | .fsin o => Sys2Proof.Machine.execFsin o s
  | .fcos o => Sys2Proof.Machine.execFcos o s
  | .ftanh o => Sys2Proof.Machine.execFtanh o s
  | .fsigm o => Sys2Proof.Machine.execFsigm o s
  | .ferf o => Sys2Proof.Machine.execFerf o s
  | .vshuf o => Sys2Proof.Machine.execVshuf o s
  | .vbcast o => Sys2Proof.Machine.execVbcast o s
  | .vred o => Sys2Proof.Machine.execVred o s
  | .vscan o => Sys2Proof.Machine.execVscan o s
  | .vconf o => Sys2Proof.Machine.execVconf o s
  | .vcomb o => Sys2Proof.Machine.execVcomb o s
  | .vcmprs o => Sys2Proof.Machine.execVcmprs o s
  | .vexpnd o => Sys2Proof.Machine.execVexpnd o s
  | .vmov o => Sys2Proof.Machine.execVmov o s
  | .vmovStream o => Sys2Proof.Machine.execVmovStream o s
  | .vsplat o => Sys2Proof.Machine.execVsplat o s
  | .vextr o => Sys2Proof.Machine.execVextr o s
  | .vlane o => Sys2Proof.Machine.execVlane o s
  | .xv o => Sys2Proof.Machine.execXv o s
  | .xpush o => Sys2Proof.Machine.execXpush o s
  | .xpop o => Sys2Proof.Machine.execXpop o s
  | .xpeek o => Sys2Proof.Machine.execXpeek o s
  | .xdepth o => Sys2Proof.Machine.execXdepth o s
  | .xclr o => Sys2Proof.Machine.execXclr o s
  | .tcfg o => Sys2Proof.Machine.execTcfg o s
  | .tld o => Sys2Proof.Machine.execTld o s
  | .tst o => Sys2Proof.Machine.execTst o s
  | .tzero o => Sys2Proof.Machine.execTzero o s
  | .mma o => Sys2Proof.Machine.execMma o s
  | .mloop o => Sys2Proof.Machine.execMloop o s
  | .mspan o => Sys2Proof.Machine.execMspan o s
  | .mspanSelf o => Sys2Proof.Machine.execMspanSelf o s
  | .tbitsNone o => Sys2Proof.Machine.execTbitsNone o s
  | .tbitsSeed o => Sys2Proof.Machine.execTbitsSeed o s
  | .tbitsTile o => Sys2Proof.Machine.execTbitsTile o s
  | .tout o => Sys2Proof.Machine.execTout o s
  | .sld o => Sys2Proof.Machine.execSld o s
  | .sst o => Sys2Proof.Machine.execSst o s
  | .vld o => Sys2Proof.Machine.execVld o s
  | .vst o => Sys2Proof.Machine.execVst o s
  | .vldg o => Sys2Proof.Machine.execVldg o s
  | .vstg o => Sys2Proof.Machine.execVstg o s
  | .vatom o => Sys2Proof.Machine.execVatom o s
  | .satom o => Sys2Proof.Machine.execSatom o s
  | .gatom o => Sys2Proof.Machine.execGatom o s
  | .phase o => Sys2Proof.Machine.execPhase o s
  | .fence o => Sys2Proof.Machine.execFence o s
  | .waitc o => Sys2Proof.Machine.execWaitc o s
  | .mwait o => Sys2Proof.Machine.execMwait o s
  | .pst o => Sys2Proof.Machine.execPst o s
  | .patom o => Sys2Proof.Machine.execPatom o s
  | .pref o => Sys2Proof.Machine.execPref o s
  | .cpLd o => Sys2Proof.Machine.execCpLd o s
  | .cpSt o => Sys2Proof.Machine.execCpSt o s
  | .cpx o => Sys2Proof.Machine.execCpx o s
  | .cps o => Sys2Proof.Machine.execCps o s
  | .cpred o => Sys2Proof.Machine.execCpred o s
  | .cpconv o => Sys2Proof.Machine.execCpconv o s
  | .cpstage o => Sys2Proof.Machine.execCpstage o s
  | .chwait o => Sys2Proof.Machine.execChwait o s
  | .chrel o => Sys2Proof.Machine.execChrel o s
  | .rowbar o => Sys2Proof.Machine.execRowbar o s
  | .moedisp o => Sys2Proof.Machine.execMoedisp o s
  | .kst o => Sys2Proof.Machine.execKst o s
  | .qsig o => Sys2Proof.Machine.execQsig o s
  | .bgather o => Sys2Proof.Machine.execBgather o s
  | .br o => Sys2Proof.Machine.execBr o s
  | .brc o => Sys2Proof.Machine.execBrc o s
  | .brv o => Sys2Proof.Machine.execBrv o s
  | .join o => Sys2Proof.Machine.execJoin o s
  | .loopb o => Sys2Proof.Machine.execLoopb o s
  | .brk o => Sys2Proof.Machine.execBrk o s
  | .loope o => Sys2Proof.Machine.execLoope o s
  | .call o => Sys2Proof.Machine.execCall o s
  | .calli o => Sys2Proof.Machine.execCalli o s
  | .ret o => Sys2Proof.Machine.execRet o s
  | .exit o => Sys2Proof.Machine.execExit o s
  | .nop o => Sys2Proof.Machine.execNop o s
  | .brw o => Sys2Proof.Machine.execBrw o s
  | .wbind o => Sys2Proof.Machine.execWbind o s
  | .regang o => Sys2Proof.Machine.execRegang o s
  | .hand o => Sys2Proof.Machine.execHand o s
  | .bara o => Sys2Proof.Machine.execBara o s
  | .barw o => Sys2Proof.Machine.execBarw o s
  | .wbar o => Sys2Proof.Machine.execWbar o s
  | .tickw o => Sys2Proof.Machine.execTickw o s
  | .setpl o => Sys2Proof.Machine.execSetpl o s
  | .launch o => Sys2Proof.Machine.execLaunch o s
  | .kand o => Sys2Proof.Machine.execKand o s
  | .kor o => Sys2Proof.Machine.execKor o s
  | .kxor o => Sys2Proof.Machine.execKxor o s
  | .knot o => Sys2Proof.Machine.execKnot o s
  | .kmov o => Sys2Proof.Machine.execKmov o s
  | .kpop o => Sys2Proof.Machine.execKpop o s
  | .fdiv o => Sys2Proof.Machine.execFdiv o s
  | .vdiv o => Sys2Proof.Machine.execVdiv o s
  | .sysr o => Sys2Proof.Machine.execSysr o s
  | .sysrCtx o => Sys2Proof.Machine.execSysrCtx o s
  | .sysw o => Sys2Proof.Machine.execSysw o s
  | .syswCtx o => Sys2Proof.Machine.execSyswCtx o s
  | .tlbinvPage o => Sys2Proof.Machine.execTlbinvPage o s
  | .tlbinvCtx o => Sys2Proof.Machine.execTlbinvCtx o s
  | .tlbinvAll o => Sys2Proof.Machine.execTlbinvAll o s
  | .ecall o => Sys2Proof.Machine.execEcall o s
  | .flushw o => Sys2Proof.Machine.execFlushw o s
  | .trap o => Sys2Proof.Machine.execTrap o s
  | .tretNext o => Sys2Proof.Machine.execTretNext o s
  | .tretReplay o => Sys2Proof.Machine.execTretReplay o s
  | .tretReex o => Sys2Proof.Machine.execTretReex o s
  | .laneinfo o => Sys2Proof.Machine.execLaneinfo o s
  | .laneinfoV o => Sys2Proof.Machine.execLaneinfoV o s
  | .laneinfoClr o => Sys2Proof.Machine.execLaneinfoClr o s
  | .vrdn o => Sys2Proof.Machine.execVrdn o s
  | .vwrn o => Sys2Proof.Machine.execVwrn o s
  | .wmark o => Sys2Proof.Machine.execWmark o s
  | .wmarkDrop o => Sys2Proof.Machine.execWmarkDrop o s
  | .undo o => Sys2Proof.Machine.execUndo o s
  | .undoTeam o => Sys2Proof.Machine.execUndoTeam o s
  | .tbegin o => Sys2Proof.Machine.execTbegin o s
  | .tcommit o => Sys2Proof.Machine.execTcommit o s
  | .tabort o => Sys2Proof.Machine.execTabort o s
  | .brkpt o => Sys2Proof.Machine.execBrkpt o s
  | .rgne o => Sys2Proof.Machine.execRgne o s
  | .rgnl o => Sys2Proof.Machine.execRgnl o s
  | .launchAccept queue => Sys2Proof.Machine.execLaunchAccept queue s
  | .gateSatisfied launch => Sys2Proof.Machine.execGateSatisfied launch s
  | .headWaitExpiry queue => Sys2Proof.Machine.execHeadWaitExpiry queue s
  | .teamStart team => Sys2Proof.Machine.execTeamStart team s
  | .teamSwapOut team => Sys2Proof.Machine.execTeamSwapOut team s
  | .teamRestore team cores => Sys2Proof.Machine.execTeamRestore team cores s
  | .issueArbitration core => Sys2Proof.Machine.execIssueArbitration core s
  | .withholdExpiry unit slice => Sys2Proof.Machine.execWithholdExpiry unit slice s
  | .gatingWindowExpiry core => Sys2Proof.Machine.execGatingWindowExpiry core s
  | .powerUpComplete core => Sys2Proof.Machine.execPowerUpComplete core s
  | .driftStallRelease unit => Sys2Proof.Machine.execDriftStallRelease unit s
  | .poolChangeComplete cluster => Sys2Proof.Machine.execPoolChangeComplete cluster s
  | .refreshWindowStart die => Sys2Proof.Machine.execRefreshWindowStart die s
  | .refreshWindowEnd die => Sys2Proof.Machine.execRefreshWindowEnd die s
  | .harrowKstep core => Sys2Proof.Machine.execHarrowKstep core s
  | .harrowCommandComplete core => Sys2Proof.Machine.execHarrowCommandComplete core s
  | .sluiceCommandStart core => Sys2Proof.Machine.execSluiceCommandStart core s
  | .sluiceRowComplete core => Sys2Proof.Machine.execSluiceRowComplete core s
  | .sluiceCommandComplete core => Sys2Proof.Machine.execSluiceCommandComplete core s
  | .sluiceEngineError unit => Sys2Proof.Machine.execSluiceEngineError unit s
  | .sluiceFaultResume core => Sys2Proof.Machine.execSluiceFaultResume core s
  | .kstLink core => Sys2Proof.Machine.execKstLink core s
  | .bgatherProbe core => Sys2Proof.Machine.execBgatherProbe core s
  | .loadDataReturn unit slice => Sys2Proof.Machine.execLoadDataReturn unit slice s
  | .storePerform unit dest => Sys2Proof.Machine.execStorePerform unit dest s
  | .storeRetire unit => Sys2Proof.Machine.execStoreRetire unit s
  | .atomicPerform unit => Sys2Proof.Machine.execAtomicPerform unit s
  | .phaseComplete unit => Sys2Proof.Machine.execPhaseComplete unit s
  | .peerTimeout op => Sys2Proof.Machine.execPeerTimeout op s
  | .mwaitMonitorWake unit slice => Sys2Proof.Machine.execMwaitMonitorWake unit slice s
  | .mwaitPollExpiry unit slice => Sys2Proof.Machine.execMwaitPollExpiry unit slice s
  | .channelWake unit slice => Sys2Proof.Machine.execChannelWake unit slice s
  | .waitcReturn unit slice => Sys2Proof.Machine.execWaitcReturn unit slice s
  | .handReceiveWake unit slice => Sys2Proof.Machine.execHandReceiveWake unit slice s
  | .barrierGenerationComplete team group => Sys2Proof.Machine.execBarrierGenerationComplete team group s
  | .roundRelease launch => Sys2Proof.Machine.execRoundRelease launch s
  | .tickwRelease unit slice => Sys2Proof.Machine.execTickwRelease unit slice s
  | .regangJoin unit => Sys2Proof.Machine.execRegangJoin unit s
  | .tlbinvComplete unit => Sys2Proof.Machine.execTlbinvComplete unit s
  | .footprintRelease team => Sys2Proof.Machine.execFootprintRelease team s
  | .launchComplete launch => Sys2Proof.Machine.execLaunchComplete launch s
  | .doorbell queue n => Sys2Proof.Machine.execDoorbell queue n s
  | .hostWrite addr bytes => Sys2Proof.Machine.execHostWrite addr bytes s
  | .controlWindowWrite offset value => Sys2Proof.Machine.execControlWindowWrite offset value s
  | .setbrk byS => Sys2Proof.Machine.execSetbrk byS s
  | .setrgn byS => Sys2Proof.Machine.execSetrgn byS s
  | .debugHalt byS => Sys2Proof.Machine.execDebugHalt byS s
  | .debugResume byS => Sys2Proof.Machine.execDebugResume byS s
  | .debugUndo byS => Sys2Proof.Machine.execDebugUndo byS s
  | .debugRead byS => Sys2Proof.Machine.execDebugRead byS s
  | .debugWrite byS => Sys2Proof.Machine.execDebugWrite byS s
  | .thermalCompare die => Sys2Proof.Machine.execThermalCompare die s
  | .c3Exit die => Sys2Proof.Machine.execC3Exit die s
  | .logSpill core count => Sys2Proof.Machine.execLogSpill core count s
  | .siblingHalt unit => Sys2Proof.Machine.execSiblingHalt unit s
  | .teamRelease team => Sys2Proof.Machine.execTeamRelease team s
  | .faultRequestComplete ctx page => Sys2Proof.Machine.execFaultRequestComplete ctx page s
  | .faultRoomRecheck unit => Sys2Proof.Machine.execFaultRoomRecheck unit s
  | .hardPreempt team => Sys2Proof.Machine.execHardPreempt team s
  | .softPreempt team budget => Sys2Proof.Machine.execSoftPreempt team budget s
  | .softPreemptBudgetExpiry team => Sys2Proof.Machine.execSoftPreemptBudgetExpiry team s
  | .sliceUncorrectableError unit slice => Sys2Proof.Machine.execSliceUncorrectableError unit slice s
  | .coreClear core ctx => Sys2Proof.Machine.execCoreClear core ctx s
  | .codeLoad ctx load => Sys2Proof.Machine.execCodeLoad ctx load s
  | .unloadComplete ctx handle => Sys2Proof.Machine.execUnloadComplete ctx handle s
  | .hostWindowWrite addr bytes => Sys2Proof.Machine.execHostWindowWrite addr bytes s
  | .resetRelease => Sys2Proof.Machine.execResetRelease s
  | .placementStep => Sys2Proof.Machine.execPlacementStep s
  | .thermalSaveBudgetExpiry => Sys2Proof.Machine.execThermalSaveBudgetExpiry s
  | .thermalCooled => Sys2Proof.Machine.execThermalCooled s
  | .latchTick => Sys2Proof.Machine.execLatchTick s
  | .thermalSavesDone => Sys2Proof.Machine.execThermalSavesDone s
  | .debugBadCommand => Sys2Proof.Machine.execDebugBadCommand s
  | .threl => Sys2Proof.Machine.execThrel s
  | .flitCrcRetry port => Sys2Proof.Machine.execFlitCrcRetry port s
  | .tickFlit peer tick => Sys2Proof.Machine.execTickFlit peer tick s
  | .aplLinkTrain port pkg => Sys2Proof.Machine.execAplLinkTrain port pkg s
  | .aplLinkLoss port => Sys2Proof.Machine.execAplLinkLoss port s
  | .gatingRequest core => Sys2Proof.Machine.execGatingRequest core s
  | .corrClear index => Sys2Proof.Machine.execCorrClear index s
  | .peerTableWrite peer entry => Sys2Proof.Machine.execPeerTableWrite peer entry s
  | .poolReassign cluster cls => Sys2Proof.Machine.execPoolReassign cluster cls s
  | .hostImageWrite slot image => Sys2Proof.Machine.execHostImageWrite slot image s
  | .contextTeardown ctx => Sys2Proof.Machine.execContextTeardown ctx s
  | .dataPoison place => Sys2Proof.Machine.execDataPoison place s
  | .correctedError index => Sys2Proof.Machine.execCorrectedError index s
  | .supervisorTrapResume unit mode => Sys2Proof.Machine.execSupervisorTrapResume unit mode s
  | .peerOpArrival peer op => Sys2Proof.Machine.execPeerOpArrival peer op s
  | .peerAck op ok => Sys2Proof.Machine.execPeerAck op ok s
  | .codeUnload ctx handle => Sys2Proof.Machine.execCodeUnload ctx handle s
  | .ecallComplete unit slice status value => Sys2Proof.Machine.execEcallComplete unit slice status value s

end Sys2Proof.Machine
end

