-- ==== Sys2Proof/Machine/Schedule.lean ====
section
/-! DEFINITION. Which step of the device happens next when nothing is on the agenda and no group stands in focus (log entry 1). The
spec orders these steps by their conditions alone, so one of those whose condition holds is taken by a free value, or a
tick passes. Steps that S, the host, a peer or an error causes come from the agenda only. -/

namespace Sys2Proof.Machine

/-- An event if its condition holds. -/
def whenever (b : Bool) (i : Instr) : List Instr := if b then [i] else []

/-! ### Launches, teams, cores -/

/-- Launches and queues (R245-R252, R268, R410). -/
def launchEvents (s : State) : List Instr :=
  ((List.range 64).filter (canAccept s)).map .launchAccept
    ++ s.launches.flatMap (fun l =>
      whenever (!l.gateOk && gateHolds s l) (.gateSatisfied l.id)
        ++ whenever (isHead l && !l.blocking && decide (l.headSince + 600000 ≤ s.gtick.toNat)) (.headWaitExpiry l.queue)
        ++ whenever (roundOver s l) (.roundRelease l.id)
        ++ whenever (launchOver s l && (s.queue l.queue).completes) (.launchComplete l.id))
    ++ whenever ((placementChoice s).isSome || s.launches.any (fun l => isHead l && l.placed == 0 && !placeable s l.record)) .placementStep

/-- Teams (R35, R252, R344, R349, R365). -/
def teamEvents (s : State) : List Instr :=
  s.teams.flatMap (fun t =>
    whenever (canStart s t) (.teamStart t.id)
      ++ whenever (t.ended && !footprintBusy s t) (.footprintRelease t.id)
      ++ whenever (t.resident && (match s.launch? t.launch with | some l => l.waiting | none => false) && swapsOut s t) (.teamSwapOut t.id)
      ++ whenever (!(haltedUnits s t.id).isEmpty && releasable s t.id) (.teamRelease t.id)
      ++ whenever (t.resident && t.stopping && savable s t) (.hardPreempt t.id)
      ++ whenever (t.resident && t.softBudget.isSome && softSettled s t) (.softPreempt t.id 0)
      ++ whenever (t.resident && (match t.softBudget with | some d => decide (d ≤ s.gtick.toNat) | none => false)) (.softPreemptBudgetExpiry t.id)
      ++ (t.groups.filter (generationDone s)).map (fun g => .barrierGenerationComplete t.id g.num))
    ++ (s.saved.filter (fun x => x.swapped)).flatMap (fun x => match s.launch? x.team.launch, footprintFor s x with
      | some l, some f => whenever (restoreAllowed s l) (.teamRestore x.team.id f)
      | _, _ => [])

/-- Whether some group of a core is ready. -/
def coreReady (s : State) (core : Nat) : Bool :=
  ((coreGroups s core true) ++ (coreGroups s core false)).any (fun g => (readyGroup s g.1 g.2).isSome)

/-- A context that waits for a core of another (R324). -/
def claimant (s : State) (core : Nat) : Option Nat :=
  if !coreFree s core then none
  else ((s.launches.filter isHead).map (fun l => l.ctx) ++ (s.saved.map (fun x => x.team.ctx))).find? (fun c => !coreClean s c core)

/-- Cores and their engines (R253-R260, R137, R222-R239, R352). -/
def coreEvents (s : State) (core : Nat) : List Instr :=
  let c := s.coreAt core
  whenever (coreReady s core) (.issueArbitration core)
    ++ (match claimant s core with | some x => [.coreClear core x] | none => [])
    ++ whenever (match c.power with | .window t => decide (t + 64 ≤ s.gtick.toNat) && coreFree s core | _ => false) (.gatingWindowExpiry core)
    ++ whenever (match c.power with | .rising _ => true | _ => false) (.powerUpComplete core)
    ++ (match c.harrow with
      | [] => []
      | k :: _ =>
        if k.multiplies then whenever (!clockPaused s (clusterOf core) && (stepGranted s core k || k.withheld.isNone)) (.harrowKstep core)
        else [.harrowCommandComplete core])
    ++ whenever (c.sluice.any (startable s)) (.sluiceCommandStart core)
    ++ whenever (c.sluice.any (fun k => k.phase == .rows)) (.sluiceRowComplete core)
    ++ whenever (c.sluice.any (overdue s)) (.sluiceCommandComplete core)
    ++ whenever (c.sluice.any (fun k => k.phase == .link)) (.kstLink core)
    ++ whenever (c.sluice.any (fun k => k.phase == .probe)) (.bgatherProbe core)
    ++ whenever (c.sluice.any (fun k => (resumable s k).isSome)) (.sluiceFaultResume core)
    ++ whenever (!(unspilled s core).isEmpty) (.logSpill core (unspilled s core).length)

/-! ### Units and slices -/

/-- What may end the wait of a slice. -/
def waitEvents (s : State) (u : Unit) (t : Slice) : List Instr :=
  match t.run with
  | .parked w _ held => match w with
    | .phase _ => whenever u.quiet (.phaseComplete u.id)
    | .waitc cls n => whenever (decide (u.count cls ≤ n)) (.waitcReturn u.id t.idx)
    | .mwait _ _ _ _ _ _ => whenever (!held) (if monitored s u.id t.idx then .mwaitMonitorWake u.id t.idx else .mwaitPollExpiry u.id t.idx)
    | .chwait _ _ _ | .rowbar _ _ => [.channelWake u.id t.idx]
    | .handRecv off pass _ _ => whenever (match s.team? u.team with
        | some tm => tm.hand.any (fun h => h.off == off && h.pass == pass)
        | none => false) (.handReceiveWake u.id t.idx)
    | .tickw target => whenever (decide (target.toNat ≤ s.gtick.toNat)) (.tickwRelease u.id t.idx)
    | .regang => whenever ((u.slices.filter Slice.alive).all atRegang) (.regangJoin u.id)
    | .tlbinv ctx page => whenever (!translated s { ctx := ctx, page := page }) (.tlbinvComplete u.id)
    | .page _ _ => whenever (!(unasked s u t).isEmpty && decide (dieRequests s (coreDie u.id.core) < Config.faultRequestsPerDie)) (.faultRoomRecheck u.id)
    | .drift => whenever (!driftStalls s u (groupWith u t.idx)) (.driftStallRelease u.id)
    | .probe | .barw _ _ | .bara _ | .wbar | .wmark | .ecall => []
  | _ => []

/-- A unit (R25, R161-R163, R214, R224, R257, R344, R362). -/
def unitEvents (s : State) (u : Unit) : List Instr :=
  let dests := u.direct.foldl (fun ds d => if ds.contains d.dest then ds else ds ++ [d.dest]) []
  let free (c : Nat) : Bool := match u.direct.find? (fun d => d.dest == c) with
    | some d => !(u.atomics.take d.after).any (fun a => scratchCore a.pa == some c)
    | none => false
  (dests.filter free).map (.storePerform u.id)
    ++ whenever (u.ops.any (fun o => o.cls == 2 && o.store && o.left != 0)) (.storeRetire u.id)
    ++ whenever (!(nextAtomics u).isEmpty) (.atomicPerform u.id)
    ++ whenever (u.engineError.isSome && (slotGroup u).isSome && u.halt == .none && u.handler.isNone && !u.exited && !u.slices.any Slice.parkedHard)
        (.sluiceEngineError u.id)
    ++ (match u.halt with
      | .pending _ _ _ => [.siblingHalt u.id]
      | .error j _ => whenever (drained u) (.sliceUncorrectableError u.id j)
      | _ => [])
    ++ u.slices.flatMap (fun t =>
      whenever (t.results.any Result.ready) (.loadDataReturn u.id t.idx)
        ++ whenever (!clockPaused s (clusterOf u.id.core) && (match t.withheld with | some x => decide (x + 4096 ≤ s.gtick.toNat) | none => false)) (.withholdExpiry u.id t.idx)
        ++ waitEvents s u t)

/-! ### The package -/

/-- Dies: refresh windows and heat (R166, R364). -/
def dieEvents (s : State) (die : Nat) : List Instr :=
  whenever (windowDue s die) (.refreshWindowStart die)
    ++ whenever (windowOver s die) (.refreshWindowEnd die)
    ++ whenever (s.c3dies.contains die && cooled s die) (.c3Exit die)

/-- Residents in the order in which an emergency saves them: by effective priority, then the oldest launch (R364). -/
def nextSave (s : State) : Option Team :=
  let prio (t : Team) : Nat := ((s.launch? t.launch).map (effectivePrio s)).getD 0
  match s.teams.filter Team.resident with
  | [] => none
  | t :: ts => some (ts.foldl (fun b x => if prio b < prio x ∨ (prio b = prio x ∧ x.launch < b.launch) then x else b) t)

/-- The emergency's own steps (R364). -/
def emergencyEvents (s : State) : List Instr :=
  match s.critical with
  | none => []
  | some t =>
    (match nextSave s with | some x => [.hardPreempt x.id] | none => [.thermalSavesDone])
      ++ whenever (decide (t + 1200000 ≤ s.gtick.toNat)) .thermalSaveBudgetExpiry

/-- The command at DEBUG (R412). -/
def debugEvents (s : State) : List Instr :=
  if !debugGo s then []
  else if !dbgOk s then [.debugBadCommand]
  else match dbgOp s with
    | 1 => [.setbrk s.debugS]
    | 2 => [.setrgn s.debugS]
    | 3 => [.debugHalt s.debugS]
    | 4 => [.debugResume s.debugS]
    | 5 => [.debugUndo s.debugS]
    | 6 => [.debugRead s.debugS]
    | _ => [.debugWrite s.debugS]

/-- What goes on whatever the compute rails do. -/
def hostEvents (s : State) : List Instr :=
  debugEvents s
    ++ (s.peerOps.filter (fun q => q.late s.gtick.toNat)).map (fun q => .peerTimeout q.id)
    ++ whenever (s.pkgstat == .thermalOff && (List.range 16).all (cooled s)) .thermalCooled
    ++ s.poolChange.map (fun p => .poolChangeComplete p.1)
    ++ (s.refs.filter (fun r => r.retiring && (match s.objects.find? (fun o => o.handle == r.handle) with
        | some o => !resides s r o
        | none => false))).map (fun r => .unloadComplete r.ctx r.handle)

/-- The management cores, whose rails stay on (R310, R364). -/
def managementEvents (s : State) : List Instr :=
  (((coresInUse s).filter (fun c => decide (16384 ≤ c))).filter (coreReady s)).map .issueArbitration
    ++ (s.units.filter Unit.isS).flatMap (unitEvents s)

/-- Every step of the device whose condition holds. -/
def enabledEvents (s : State) : List Instr :=
  match s.pkgstat with
  | .resetHold => []
  | .thermalOff | .thermalHold => hostEvents s ++ managementEvents s
  | .running =>
    hostEvents s ++ managementEvents s ++ launchEvents s ++ teamEvents s
      ++ ((coresInUse s).filter (fun c => decide (c < 16384))).flatMap (coreEvents s)
      ++ (s.units.filter (fun u => !u.isS)).flatMap (unitEvents s) ++ (List.range 16).flatMap (dieEvents s) ++ emergencyEvents s

/-- A cycle in which no step of the device happens. -/
def idle (s : State) : State := endCycle (startCycle s)

/-- What a tick forces before anything else: the latches of its contexts (R417), the comparisons of its dies (R419). -/
def forcedEvent (s : State) : Option Instr :=
  if !accepting s then none
  else if (List.range 64).any (latchDue s) then some .latchTick
  else ((List.range 16).find? (compareDue s)).map .thermalCompare

/-- The step that happens next: a forced one first, else one that is enabled, or none. -/
def nextEvent (s : State) : Option Instr :=
  match forcedEvent s with
  | some i => some i
  | none =>
    let es := enabledEvents s
    es[(Config.freeValue s.nonce).toNat % (es.length + 1)]?

/-! ### A placed instruction -/

/-- The launch record behind a placed instruction. -/
def placedRecord : LaunchRec :=
  { code := 1, entry := 0, nteam := 1, cores := 1, gangs := 1, slices := 1, set := 1, cls := 1, prio := 0, drift := 64, wload := false
    groups := 0, roles := 0, sched := 0, nsched := 0, args := 0, logb := 0, logsz := 0, logp := 0, trcb := 0, gate := 0, gateval := 0
    done := 0 }

/-- Its launch, placed and running. -/
def placedLaunch : Launch :=
  { id := 0, queue := 0, ctx := 0, record := placedRecord, seq := 0, status := 0, gateOk := true, placed := 1, round := 0, tstart := 0
    headSince := 0, blocking := false, groups := [], roles := [], sched := [], weights := [] }

/-- Its team on core 0. -/
def placedTeam : Team :=
  { id := 0, launch := 0, index := 0, ctx := 0, set := 0, cores := [0], started := true, roles := [], groups := [], hand := [], cursor := 0
    softBudget := none, stopping := false, held := false, ended := false }

/-- Gang 0 of core 0, its one slice at the instruction. -/
def placedUnit (s : State) : Unit :=
  { startUnit s placedRecord 0 0 { core := 0, kind := .gang, slot := 0 } [startSlice 0x1000 0 0 0 0 s.gtick.toNat] with winno := 1 }

/-- Memory at 0x1000 holds the words of the instruction, mapped for context 0 to execute, and its gang stands in focus. -/
def placeWord (s : State) (nbits w : Nat) : State :=
  let id : UnitId := { core := 0, kind := .gang, slot := 0 }
  { s with
    mem := s.mem.writeBytes 0x1000 (leBytes (w % 2 ^ nbits) 8)
    tlb := (.l1 0, { ctx := 0, va := 0x1000, size := 4096, frame := 0x1000, attrs := 0x06D }) :: s.tlb
    launches := placedLaunch :: s.launches.filter (fun l => l.id != 0)
    teams := placedTeam :: s.teams.filter (fun t => t.id != 0), nextId := max s.nextId 1
    units := placedUnit s :: s.units.filter (fun u => u.id != id)
    agenda := [], focus := some { unit := id, slices := [0], word0 := 0, word1 := 0 }, ports := [] }

end Sys2Proof.Machine
end

