-- ==== Sys2Proof/Machine/Step.lean ====
section
/-! DEFINITION. One step of the package (log entry 1): what is on the agenda; else the fetch and execution of the group in
focus; else a step of the device whose condition holds, or a cycle. -/

namespace Sys2Proof.Machine

/-- A change to the next state of a step. -/
def onNext (g : State → State) : Host.Outcome State Fault Refusal → Host.Outcome State Fault Refusal
  | .next s => .next (g s)
  | .fault r => .fault r
  | .refused r => .refused r

/-- What an issue adds to the state behind it, `before` being the state behind the fetch: its weight and count (R256, R417), the skid and the
places of errors that it passes (R344, R362), and the next granted group in focus. -/
def issueEnd (i : Instr) (f : Focus) (before after : State) : State :=
  nextFocus (passPlaces f before (countSkid f before (chargeIssue i f before after)))

/-- The step of the group in focus. A fetch that executes nothing issues nothing (R56). -/
def stepGroup (f : Focus) (s : State) : Host.Outcome State Fault Refusal :=
  match fetch s f with
  | .ended s' => .next (nextFocus s')
  | .run i s' => onNext (issueEnd i f s') (exec i s')

/-- The step of the device. -/
def stepDevice (s : State) : Host.Outcome State Fault Refusal :=
  let s' := { s with nonce := s.nonce + 1 }
  match nextEvent s with
  | some i => exec i s'
  | none => .next (idle s')

/-- What happens in a step. -/
def stepBody (s : State) : Host.Outcome State Fault Refusal :=
  match s.agenda with
  | i :: rest => exec i { s with agenda := rest }
  | [] =>
    match s.focus with
    | some f => stepGroup f s
    | none => stepDevice s

/-- A step, behind which contexts are as the table has them (R312). -/
def step (s : State) : Host.Outcome State Fault Refusal := onNext (readChanged s) (stepBody s)

/-- The state with an instruction as the next to be fetched: gang 0 of core 0 with one slice in focus at a page that context 0
may execute, its launch and team, and nothing before it (log entry 1). -/
def State.withFetchWord (s : State) (nbits w : Nat) : State := placeWord s nbits w

end Sys2Proof.Machine
end

