-- ==== Sys2Proof/Safety.lean ====
section
/-! DEFINITION. The terms in which statements speak of the machine: a group that stands at an instruction, what an issue
that changes registers alone leaves, frames, and the invariant of every state. -/

namespace Sys2Proof.Machine

/-- Group `x` stands at instruction `i` and nothing holds its issue back: it is the issuing group, no transaction would
abort at `i` (R220, R379), and the full/empty bits let it issue (R26, R27). -/
structure Issues (i : Instr) (s : State) (x : Issue) : Prop where
  issuer : s.issuer = some x
  stays : (x.unit.txn.isSome && abortsTxn i) = false
  free : holdBack (s.coreAt x.unit.id.core) x.slices i = .free

/-- The state after an issue whose whole effect is `F` on each executing slice: each goes on to the next instruction in
sequence (R38). -/
def after (s : State) (x : Issue) (F : Slice → Slice) : State :=
  s.setUnit ((x.unit.mapSlices x.js F).advance x.js x.size)

/-- No executing slice enables an exception: none raises class 7 (R65). -/
abbrev NoEnables (x : Issue) : Prop := ∀ t ∈ x.slices, t.fpctl.extractLsb' 4 5 = 0

/-- Every source and destination of `i` is full for the group: nothing waits and class 6 is not raised. -/
def AllFull (i : Instr) (s : State) (x : Issue) : Prop :=
  (∀ r ∈ sources i, isFull (s.coreAt x.unit.id.core) x.slices r.ref = true)
    ∧ ∀ r ∈ dests i, isFull (s.coreAt x.unit.id.core) x.slices r = true

/-- What an issue that changes registers alone leaves as it was: the whole state but the issuing unit, every byte of memory,
every other unit, and of the issuing unit everything but its executing slices. `R` relates an executing slice before to
the same slice after. -/
structure Frame (s s' : State) (x : Issue) (R : Slice → Slice → Prop) : Prop where
  state : s' = { s with units := s'.units }
  memory : ∀ a, s'.mem.read a = s.mem.read a
  others : ∀ id, id ≠ x.unit.id → s'.unit? id = s.unit? id
  unit : ∃ u, s'.unit? x.unit.id = some u ∧ { u with slices := x.unit.slices } = x.unit
    ∧ u.slices.length = x.unit.slices.length
    ∧ ∀ p ∈ x.unit.slices.zip u.slices, if p.1.idx ∈ x.js then R p.1 p.2 else p.2 = p.1

/-- A slice that went on in sequence and otherwise changed only scalar `d` and gained flags. -/
def OnlyScalar (size : W64) (d : Reg) (t t' : Slice) : Prop :=
  t' = { t with s := t'.s, fpstat := t'.fpstat, pc := t.pc + size, seqF := true, replay := none }
    ∧ (∀ r, r ≠ d → t'.getS r = t.getS r) ∧ t.fpstat &&& t'.fpstat = t.fpstat

/-- A slice that went on in sequence and otherwise changed only mask `d`. -/
def OnlyMask (size : W64) (d : Nat) (t t' : Slice) : Prop :=
  t' = { t with k := t'.k, pc := t.pc + size, seqF := true, replay := none } ∧ ∀ r, r ≠ d → t'.getK r = t.getK r

/-- A slice that went on in sequence and otherwise changed only vector `d` (the pair from `d` for a 64-bit element type), in
the lanes of `m` alone, gained flags, and counted stochastic rounding if `sr`. -/
def OnlyVector (size : W64) (d : Reg) (pair sr : Bool) (m : BitVec 4) (t t' : Slice) : Prop :=
  t' = { t with v := t'.v, fpstat := t'.fpstat, srcount := t'.srcount, pc := t.pc + size, seqF := true, replay := none }
    ∧ (∀ r l, (r ≠ d ∧ ¬(pair = true ∧ r = d + 1)) ∨ m.getLsbD l.val = false → t'.getV r l = t.getV r l)
    ∧ t.fpstat &&& t'.fpstat = t.fpstat ∧ t'.srcount = if sr then t.srcount + 1 else t.srcount

/-- A slice that went on in sequence with its registers as they were, but for registers emptied until results arrive. -/
def OnlyQueued (size : W64) (t t' : Slice) : Prop :=
  t' = { t with sFull := t'.sFull, vFull := t'.vFull, results := t'.results, fpstat := t'.fpstat, pc := t.pc + size, seqF := true
                replay := none }
    ∧ ∃ rs, t'.results = t.results ++ rs

/-! ### What instructions leave -/

/-- Values written to the lanes of `m` of vector `d`, as elements of a type (R93). -/
def lanesWritten (ty : TCode) (d : Reg) (m : BitVec 4) (f : Fin 4 → Nat) (t : Slice) : Slice :=
  (lanesOf m).foldl (fun t' l => t'.putElem ty d l (f l)) t

/-- The flags of the lanes of `m` together (R94). -/
def flagsOf (m : BitVec 4) (f : Fin 4 → Flags) : Flags := (lanesOf m).foldl (fun g l => g ||| f l) 0

/-- The state after an instruction of group `x` that ends in a trap, its unit as `u` by then: the trap taken with the active lanes of the
instruction. -/
def afterTrapIn (i : Instr) (s : State) (u : Unit) (x : Issue) (t : Trap) : State :=
  takeTrap s u x.js x.pc x.word0 x.word1 (t.at i x)

/-- The same before any effect. -/
def afterTrap (i : Instr) (s : State) (x : Issue) (t : Trap) : State := afterTrapIn i s x.unit x t

/-- The state after an issue that sets the PCs of its slices by `F`; those of one PC stay in one group (R271, R272). -/
def afterTransfer (s : State) (x : Issue) (F : Slice → Slice) : State :=
  s.setUnit ((x.unit.mapSlices x.js F).regroup x.js)

/-- The state after an issue whose group waits at its instruction (R253). -/
def afterPark (s : State) (x : Issue) (w : Wait) : State := s.setUnit (x.unit.park x.js w x.size)

/-- The state in which unit `u` has ended an instruction that stores: it goes on, and LOGPOL may open a window (R353). -/
def afterStored (s : State) (u : Unit) (x : Issue) (phased : Bool) : State :=
  (boundary s (u.advance x.js x.size) x.pc phased).1.setUnit (boundary s (u.advance x.js x.size) x.pc phased).2

/-- The state after an instruction that its running transaction ends by aborting, with a cause (R359, R381). -/
def afterAbort (s : State) (x : Issue) (cause : Nat) : State := (abortTxn s x.unit cause 0 0).1.setUnit (abortTxn s x.unit cause 0 0).2

/-- What an instruction that appends `k` entries to the log comes to: `go`, where there is room or DROP-OLDEST makes it; class 12
under TRAP; an abort, where a transaction runs; a wait, while the oldest window is a transaction's (R355, R360). -/
def RoomEnds (i : Instr) (s : State) (x : Issue) (k : Nat) (go : State → Unit → State) : Prop :=
  (k = 0 → exec i s = .next (go s x.unit))
    ∧ (k ≠ 0 → match makeRoom s x.unit k with
      | .room r => exec i s = .next (go r (refresh r x.unit))
      | .trap => exec i s = .next (afterTrap i s x { cls := 12, sub := 0 })
      | .abort => exec i s = .next (afterAbort s x 7)
      | .wait => exec i s = .next s)

/-- What an instruction comes to whose own reading of a place ends in a snag (R221, R224, R233, R363): class 3 for a page that is not
present, class 4 for another cause of the translation, class 13 for a cause of an engine, class 14 for poison, and a wait. -/
def SnagEnds (i : Instr) (s : State) (x : Issue) (e : Snag) : Prop :=
  match e with
  | .page va acc => exec i s = .next (afterTrap i s x { cls := 3, sub := 1, addr := va, pages := [pageOf va], kind := acc })
  | .fatal va c => c ≠ 1 → exec i s = .next (afterTrap i s x { cls := 4, sub := c, addr := va })
  | .stop c => exec i s = .next (afterTrap i s x { cls := 13, sub := c, ecause := BitVec.ofNat 8 c })
  | .lost => exec i s = .next (afterTrap i s x { cls := 14, sub := 1 })
  | .wait => exec i s = .next s

/-- A slice that goes on behind its instruction (R38). -/
def Slice.passed (t : Slice) (size : W64) : Slice := { t with pc := t.pc + size, seqF := true, replay := none }

/-- The lanes of `m` for which a test holds, as a mask. -/
def lanesWhere (m : BitVec 4) (p : Fin 4 → Bool) : BitVec 4 :=
  BitVec.ofNat 4 (((lanesOf m).filter p).foldl (fun n l => n + 2 ^ l.val) 0)

/-- Values written to lanes, with the flags that they raised. -/
def lanesFlagged (ty : TCode) (d : Reg) (m : BitVec 4) (f : Fin 4 → Nat × Flags) (t : Slice) : Slice :=
  { lanesWritten ty d m (fun l => (f l).1) t with fpstat := t.fpstat ||| (flagsOf m (fun l => (f l).2)).setWidth 32 }

/-- No active lane raises an exception that its slice's FPCTL enables. -/
abbrev Quiet (x : Issue) (km : Nat) (f : Slice → Fin 4 → Nat × Flags) : Prop :=
  ∀ t ∈ x.slices, ∀ l ∈ lanesOf (actOf t km), t.fpctl.extractLsb' 4 5 &&& (f t l).2.setWidth 5 = 0

/-- Class 7 as R65, R94 and R347 have it: SUB gathers the enabled exceptions raised, the record the lanes that raised one. -/
def class7 (x : Issue) (km : Nat) (f : Slice → Fin 4 → Nat × Flags) : Trap :=
  let raised (t : Slice) (l : Fin 4) : BitVec 5 := t.fpctl.extractLsb' 4 5 &&& (f t l).2.setWidth 5
  let lanes := gangView x.slices (fun t => lanesWhere (actOf t km) (fun l => raised t l != 0))
  { cls := 7
    sub := (x.slices.foldl (fun m t => (lanesOf (actOf t km)).foldl (fun m l => m ||| raised t l) m) (0 : BitVec 5)).toNat
    replay := lanes, faulted := lanes }

/-- Node `i` of level `l` of the tree of R108 over the positions that `leaf` gives: op(left, right) of nodes 2i and 2i + 1 of the level
below, or the child that is present. -/
def treeValue {α : Type} (f : α → α → α) (leaf : Nat → Option α) : Nat → Nat → Option α
  | 0, i => leaf i
  | l + 1, i =>
    match treeValue f leaf l (2 * i), treeValue f leaf l (2 * i + 1) with
    | some a, some b => some (f a b)
    | some a, none => some a
    | none, b => b

/-- The element of lane `i` of the gang if it is active in the issuing group, else 0 (R107, R110). -/
def laneElem (x : Issue) (km : Nat) (ty : TCode) (r : Reg) (i : Nat) : Nat :=
  match x.slices.find? (fun t => t.idx == i / 4 && (actOf t km).getLsbD (i % 4)) with
  | some t => t.elem ty r (Fin.ofNat 4 i)
  | none => 0

/-- Levels: whether a unit's level may execute an instruction (R32, R336, R338). -/
def levelAllows (i : Instr) (u : Unit) : Bool :=
  match i with
  | .sysr o => u.isS || !hiddenAtU o.imm.toNat
  | .sysw o => !readOnly o.imm.toNat && (u.isS || writableAtU o.imm.toNat)
  | .sysrCtx _ | .syswCtx _ | .tlbinvPage _ | .tlbinvCtx _ | .tlbinvAll _ | .undo _ | .undoTeam _ => u.isS
  | .ecall _ => !u.isS
  | _ => true

/-- The invariant of every state: memory in its canonical form, and the tables of the package at their sizes: 64 contexts,
queues and peers, 128 clusters, 16 dies, 4 pool classes (R7, R258, R312, R408, R416). -/
structure Inv (s : State) : Prop where
  memory : s.mem.wf = true
  contexts : s.contexts.length = 64
  queues : s.queues.length = 64
  peers : s.peers.length = 64
  pools : s.pools.length = 128
  allowance : s.allowance.length = 128
  budgets : s.budgets.length = 4
  temps : s.temps.length = 16
  rfsched : s.rfsched.length = 16
  rfphase : s.rfphase.length = 16
  rfForce : s.rfForce.length = 16
  lastCompare : s.lastCompare.length = 16

end Sys2Proof.Machine
end

