-- ==== Sys2Proof/Certificates/Slice0/Obligations.lean ====
section
/-! DEFINITION. What the model claims of the machine: statements for the provers, from the rules of the specification. -/

open Sys2Proof Sys2Proof.Machine

/-! ### Encoding -/

/-- Every instruction that has words is what the decoder reads from its words, whatever stands behind a short form
(R38 to R52). -/
def Obligations.DecodeOfEncode : Prop :=
  ∀ d : Decoded, Decode.wellFormed d = true →
    ∃ w0 w1, Decode.encode d = some (w0, w1) ∧ ∀ y, Decode.decode w0 (w1.getD y) = .ok d

/-- Words that the spec's worked programs and examples give decode to the instructions that they stand for; words that R52 and R54
call illegal, and a pair at an odd register, are refused. -/
def Obligations.WordsDecode : Prop :=
  -- SADD s2, s2, 32 (15)
  (Decode.decode 0x00010401 0x00200008).map (fun d => d.instr)
      = .ok (.sadd { d := 2, a := 2, b := 0, fa := false, fb := false, imm := 32, sec := 0, xf := 8 })
  -- SLI s4, 42 of role 1 (R55)
  ∧ (Decode.decode 0x21E20054 0).map (fun d => (d.role, d.instr)) = .ok (1, .sli { d := 4, a := 0, imm := 42, sec := 0, xf := 0 })
  -- FMUL v1, v1, v2 (R55)
  ∧ (Decode.decode 0x04808210 0).map (fun d => d.instr)
      = .ok (.fmul { d := 1, a := 1, b := 2, fa := false, fb := false, t := .dflt, rm := .dyn, s := false, c := 0, x := 0, sec := 0
                     xf := 0 })
  -- BR +2 and CALL -10
  ∧ (Decode.decode 0x0E600004 0).map (fun d => d.instr) = .ok (.br { off := 2 })
  ∧ (Decode.decode 0x0F5FFFEC 0).map (fun d => d.instr) = .ok (.call { off := -10 })
  -- FCMP.LE k1, v1, v5
  ∧ (Decode.decode 0x05208229 0x00000300).map (fun d => d.instr)
      = .ok (.fcmp { d := 1, a := 1, b := 5, fa := false, fb := false, t := .dflt, rm := .dyn, s := false, c := 0, x := 0, sec := 3
                     xf := 0 })
  -- XV v0, v8, k1
  ∧ (Decode.decode 0x08E01001 0x00000001).map (fun d => d.instr)
      = .ok (.xv { d := 0, a := 8, b := 0, fa := false, fb := false, t := .dflt, rm := .dyn, s := false, c := 0, x := 0, sec := 0
                   xf := 1 })
  -- MLOOP
  ∧ (Decode.decode 0x0A400211 0x40200301).map (fun d => d.instr)
      = .ok (.mloop { d := 0, a := 1, b := 2, fa := false, fb := false, imm := 0x4020, sec := 3, xf := 1 })
  -- SLD s6, (s3+40)
  ∧ (Decode.decode 0x0AC30650 0).map (fun d => d.instr) = .ok (.sld { d := 6, a := 3, imm := 40, sec := 0, xf := 0 })
  -- SATOM.ADD.REL s8, (s2), s4
  ∧ (Decode.decode 0x0BA40421 0x00002000).map (fun d => d.instr)
      = .ok (.satom { d := 8, a := 2, b := 4, fa := false, fb := false, imm := 0, sec := 0x20, xf := 0 })
  -- CPX s3, (s2), v1, k1, 16
  ∧ (Decode.decode 0x0CE18409 0x00100001).map (fun d => d.instr)
      = .ok (.cpx { d := 3, a := 2, b := 1, fa := false, fb := false, imm := 16, sec := 0, xf := 1 })
  -- WBAR, SYSW FPCTL, s4 and TRAP 5 on the escape page
  ∧ (Decode.decode 0x0FE00001 0x00000600).map (fun d => d.instr)
      = .ok (.wbar { d := 0, a := 0, b := 0, fa := false, fb := false, imm := 0, sec := 6, xf := 0 })
  ∧ (Decode.decode 0x0FE00801 0x00031300).map (fun d => d.instr)
      = .ok (.sysw { d := 0, a := 4, b := 0, fa := false, fb := false, imm := 3, sec := 0x13, xf := 0 })
  ∧ (Decode.decode 0x0FE00001 0x00051700).map (fun d => d.instr)
      = .ok (.trap { d := 0, a := 0, b := 0, fa := false, fb := false, imm := 5, sec := 0x17, xf := 0 })
  -- the escape page without a long word; an unassigned SEC; FADD.F64 v3, v4, v6
  ∧ Decode.decode 0x0FE00000 0 = .error .illegal
  ∧ Decode.decode 0x0FE00001 0x00003000 = .error .illegal
  ∧ Decode.decode (0#3 ++ 0#1 ++ 0x22#7 ++ 3#6 ++ 4#6 ++ 6#6 ++ 0#1 ++ 0#1 ++ 1#1) (4#4 ++ 0#28) = .error .registerPair

/-! ### Reset and the invariant -/

/-- The values that the spec gives for reset: GTICK 0 (R8), closed queues with their counts at 0 (R408), peers with TMO 6,000 (R416),
and nothing resident, placed, requested or logged; the image is loaded by the first step, RESET_RELEASE (R6), before any launch. -/
def Obligations.ResetState : Prop :=
  let s := State.reset
  s.gtick = 0 ∧ s.loaded = none ∧ s.agenda = [.resetRelease]
    ∧ (∀ n, (s.queue n).opened = false ∧ (s.queue n).ceil = 0 ∧ (s.queue n).ctx = 0 ∧ (s.queue n).dev = false ∧ (s.queue n).irq = false
        ∧ (s.queue n).wptr = 0 ∧ (s.queue n).rptr = 0 ∧ (s.queue n).cwptr = 0 ∧ (s.queue n).crptr = 0 ∧ (s.queue n).dropdb = 0)
    ∧ (∀ n, (s.peer n).en = false ∧ (s.peer n).sync = false ∧ (s.peer n).tmo = 6000)
    ∧ (∀ n, (s.ctx n).live = false)
    ∧ s.units = [] ∧ s.teams = [] ∧ s.launches = [] ∧ s.requests = [] ∧ s.log = []
    ∧ (∀ n t, (s.coreAt n).ctl t = 0)

/-- The invariant holds at reset. -/
def Obligations.ResetInv : Prop :=
  Machine.Inv State.reset

/-- Every step keeps the invariant: memory in its canonical form, and each table of the package at the number of entries that the spec
gives it. -/
def Obligations.StepKeepsInv : Prop :=
  ∀ s s', Machine.Inv s → step s = .next s' → Machine.Inv s'

/-! ### A step -/

/-- What a step runs; behind it contexts are as their table entries have them (R312). A step of the device on the agenda is that step. With
a group in focus that may issue, a PC between words raises class 5 (R38), and a block whose roles it does not hold is passed unfetched
(R58). Where the page may be executed, the step decodes the words at the PC: words of a role that the unit does not hold are passed over
(R52 step 1, R56); the others, unless their long word lies in the next block (R52 step 2), are executed by `exec` as the instruction that
they decode to, on the state with the group's slices entered in their block and the translation kept; what has issued is charged and counted,
and the next granted group comes into focus. The model's choices and readings: what comes onto the agenda and into focus (log entry 1), that
contexts follow their table entries behind every step, of which R312 names no moment (DEDUCED, log entry 13), class 5 at the fetch of a
crooked PC, an engine member's judging of ROLE 0 words by their operation, a block skipped at its second word, and that for slices which
reached a block by different ways the lowest decides (DEDUCED and DESIGN CHOICE, log entry 27), and the class 14 that a gang takes here when
its harrow's command has met poison while it stood still (log entry 29). -/
def Obligations.StepRunsDecoded : Prop :=
  (∀ s i rest, s.agenda = i :: rest → step s = onNext (readChanged s) (exec i { s with agenda := rest }))
  ∧ ∀ (s : State) (f : Focus) (u v : Machine.Unit) (t : Slice) (ts : List Slice) (pa : Nat) (attrs : BitVec 12) (w0 w1 : W32),
      s.agenda = [] → s.focus = some f → s.unit? f.unit = some u
      → mayIssue u f.slices = true → leaving s u = false → driftStalls s u f.slices = false
      → v = u.mapSlices f.slices (fun y => if groupHandles u f.slices then { y with blk := y.pc &&& ~~~63 } else y.entered)
      → u.pick f.slices = t :: ts
      → (∀ pc, u.lostAt = some pc → step s = .next (readChanged s (nextFocus (takeTrap s { u with lostAt := none } f.slices pc
          (wordsAt s u pc).1 (wordsAt s u pc).2 { cls := 14, sub := 1, async := true }))))
        ∧ (u.lostAt = none →
        let seen := fillTlb (s.setUnit v) u.ctx u.id.core t.pc
        (t.pc.toNat % 4 ≠ 0 →
          step s = .next (readChanged s (nextFocus (takeTrap seen v f.slices t.pc 0 0 { cls := 5, sub := 0, addr := t.pc }))))
        ∧ (t.pc.toNat % 4 = 0 → skipsBlock s u t = true →
          step s = .next (readChanged s (nextFocus (s.setUnit (passOver v f.slices (BitVec.ofNat 64 (64 - t.pc.toNat % 64)))))))
        ∧ (t.pc.toNat % 4 = 0 → skipsBlock s u t = false
          → translate s (requester u .fetch .plain) t.pc = .ok (pa, attrs) → inRefresh s pa = false → poisoned s pa 4 = false
          → w0 = wordAt s pa → w1 = (if w0.getLsbD 0 then wordAt s (pa + 4) else 0)
          → (holdsRole s u (Decode.roleOf w0).toNat = false →
              step s = .next (readChanged s (nextFocus (seen.setUnit (passOver v f.slices (if w0.getLsbD 0 then 8 else 4))))))
            ∧ (passesOver s u w0 w1 = false → ¬(w0.getLsbD 0 = true ∧ t.pc.toNat % 64 = 60) →
              ∀ d, Decode.decode w0 w1 = .ok d → (isEngine u = true → memberTable u.id.kind d.instr = true ∧ kmOf d.instr = 0) →
                let before := { seen with focus := some { unit := f.unit, slices := f.slices, word0 := w0, word1 := w1 } }
                step s = onNext (readChanged s) (onNext (issueEnd d.instr f before) (exec d.instr before)))))

/-! ### Registers and what holds an issue back -/

/-- R20: s63 reads as zero, a write to it is discarded and it is always full; k0 reads as the lane mask, a write to it is discarded
and an instruction under k0 runs on every lane of the lane mask. Every other register reads as last written, a vector register by
its lanes; an element of a type reads as last written too, one of 64 bits from the pair vr (low half) and vr+1 (R93), a narrow one
written over the whole 32-bit lane, i8 and i16 with their sign, and nothing else changes. -/
def Obligations.ConstantRegisters : Prop :=
  ∀ (t : Slice) (x : W64) (m : BitVec 4),
    t.getS 63 = 0 ∧ t.putS 63 x = t ∧ t.fullS 63 = true ∧ t.emptyS 63 = t
    ∧ t.getK 0 = t.mask ∧ t.putK 0 m = t ∧ (t.replay = none → actOf t 0 = t.mask)
    ∧ (∀ r, r ≠ 63 → (t.putS r x).getS r = x ∧ ∀ q, q ≠ r → (t.putS r x).getS q = t.getS q)
    ∧ (∀ k, 0 < k → k < 8 → (t.putK k m).getK k = m ∧ ∀ q, q ≠ k → (t.putK k m).getK q = t.getK q)
    ∧ (∀ r l (w : W32), (t.putV r l w).getV r l = w ∧ ∀ q n, (q ≠ r ∨ n ≠ l) → (t.putV r l w).getV q n = t.getV q n)
    ∧ ∀ ty r l (e : Nat), e < 2 ^ widthOf ty →
      (t.putElem ty r l e).elem ty r l = e
      ∧ (∀ q n, (n ≠ l ∨ (q ≠ r ∧ ¬(widthOf ty = 64 ∧ q = r + 1))) → (t.putElem ty r l e).getV q n = t.getV q n)
      ∧ (widthOf ty = 64 → (t.putElem ty r l e).getV r l = BitVec.ofNat 32 e ∧ (t.putElem ty r l e).getV (r + 1) l = BitVec.ofNat 32 (e / 2 ^ 32)
          ∧ t.elem ty r l = (t.getV r l).toNat + 2 ^ 32 * (t.getV (r + 1) l).toNat)
      ∧ (widthOf ty ≠ 64 → t.elem ty r l = (t.getV r l).toNat % 2 ^ widthOf ty
          ∧ (t.putElem ty r l e).getV r l
              = match ty with | .i8 => (BitVec.ofNat 8 e).signExtend 32 | .i16 => (BitVec.ofNat 16 e).signExtend 32 | _ => BitVec.ofNat 32 e)

/-- Full/empty bits before any program instruction that its unit's level may run: a source with policy 1 that is empty raises class 6
with SUB 0 for field A and 1 for field B (R26, R347); with no such source, an empty source or destination keeps the instruction from
issuing, and the step changes nothing (R26, R27). A register that awaits only the lanes that a group is about to replay does not hold
the replay back (R28, R132). That policy 1 decides before a wait is the model's choice (log entry 8). -/
def Obligations.EmptyRegisters : Prop :=
  ∀ i s x, (Decode.parts i).isSome = true → s.issuer = some x → levelAllows i x.unit = true
    → (x.unit.txn.isSome && abortsTxn i) = false →
    ((∃ r ∈ sources i, r.policy = true ∧ isFull (s.coreAt x.unit.id.core) (x.slices.map Slice.replayable) r.ref = false) →
      ∃ r ∈ sources i, r.policy = true ∧ isFull (s.coreAt x.unit.id.core) (x.slices.map Slice.replayable) r.ref = false
        ∧ exec i s = .next (afterTrap i s x { cls := 6, sub := if r.isB then 1 else 0 }))
    ∧ ((∀ r ∈ sources i, r.policy = true → isFull (s.coreAt x.unit.id.core) (x.slices.map Slice.replayable) r.ref = true) →
      ((∃ r ∈ sources i, isFull (s.coreAt x.unit.id.core) (x.slices.map Slice.replayable) r.ref = false)
        ∨ ∃ r ∈ dests i, isFull (s.coreAt x.unit.id.core) (x.slices.map Slice.replayable) r = false) →
      exec i s = .next s)

/-- Levels: an instruction or a register that the executing unit's level does not reach raises class 2 (R32, R52 step 7, R336, R338),
and ECALL at level S is illegal (R336); nothing else happens first. -/
def Obligations.LevelTraps : Prop :=
  ∀ i s x, s.issuer = some x → levelAllows i x.unit = false →
    exec i s = .next (afterTrap i s x
      { cls := match i with | .ecall _ => 0 | _ => 2
        sub := 0 })

/-- An instruction that a transaction does not allow aborts it (R220, R359, R379, R381): every slice continues at the abort label with 5 in
s59 and its registers as at TBEGIN, with the results that have reached them since, the write set is gone, and the transaction is over. The
gang's direct stores still pending are performed first, each behind what comes before it on its core. -/
def Obligations.ListedAborts : Prop :=
  ∀ i s x t, s.issuer = some x → levelAllows i x.unit = true → x.unit.txn = some t → abortsTxn i = true →
    ∃ s' u', exec i s = .next s' ∧ s'.unit? x.unit.id = some u'
      ∧ u'.txn = none ∧ u'.own = x.unit.own ∧ u'.slices.length = x.unit.slices.length
      ∧ (∀ y ∈ u'.slices, y.getS 59 = 5 ∧ y.pc = t.label)
      ∧ (∀ t' : Txn, (if x.unit.direct = [] then some t else (refresh (settleDirects s x.unit) x.unit).txn) = some t' →
          ∀ y ∈ u'.slices, ∀ old, t'.slices.find? (fun o => o.idx == y.idx) = some old →
            y.v = (landReady old).v ∧ y.k = old.k ∧ y.mask = old.mask ∧ y.tokens = old.tokens
              ∧ ∀ r, r ≠ 59 → y.getS r = (landReady old).getS r)
      ∧ ∀ id, id ≠ x.unit.id → s'.unit? id = s.unit? id

/-! ### Taking a trap -/

/-- Taking a trap (R321, R322, R343 to R347, R360, R372). For a gang in no transaction and any class but 3 the gang's frame is written:
PC, WORD0, WORD1 (0 for a short form), CAUSE with class, ASYNC, SUB and origin, ACTIVE, REPLAY, ADDR (classes 3 to 5), SLICES, SKID 0,
LMASK, HTICK and the saved registers; no other byte of memory changes; the side record holds the lanes. A class that DELEG delegates
enters the handler at TRAPBASE + 0x40 x class in the trapping group, with every lane in the lane mask; any other stops the gang and is
reported to S. A trap of the handler itself is class 14, SUB 3. The other units of the scope, team or set, are halted, but for a gang
of the team that runs a handler (R345). In a transaction classes 2, 4 and 14 abort it with 8 in s59 and are then taken with INTX; every
other class but 3 aborts it with 6 and the class, and nothing traps. Class 3 parks the trapping slices, or after the abort with 10 in
s59 every live slice, on the pages, each of which has a request that covers it unless its die holds 512. A member of an engine or a
management unit stops where it is and is reported. The model's choices and readings: results on their way to the saved registers go to the
frame, and the cause 8 in s59 behind classes 2, 4 and 14, for which R381 gives 8 for a halt or a pre-emption only (log entry 19); and an
asynchronous trap that a handler meets is not nested (DESIGN CHOICE, log entry 29). -/
def Obligations.TrapTaken : Prop :=
  (∀ (i : Instr) (s : State) (x : Issue) (t : Trap),
    s.issuer = some x → s.mem.wf = true → x.unit.id.kind = .gang → x.unit.txn = none → t.cls ≠ 3 →
    let s' := afterTrap i s x t
    let base := framePa x.unit
    let nested := !t.async && (match x.unit.handler with | some hs => x.js.any (fun j => hs.contains j) | none => false)
    let cls := if nested then 14 else t.cls
    let sub := if nested then 3 else t.sub
    let reach (y : Machine.Unit) : Bool := y.halt == .none && !y.exited && (match scopeOf cls with
      | .gang => false
      | .team => y.team == x.unit.team && y.handler.isNone
      | .set => (setTeams s x.unit.team).contains y.team)
    let deleg := !nested && delegable t.cls && (s.ctx x.unit.ctx).deleg.getLsbD t.cls
    s'.mem.readBytes base 8 = leBytes x.pc.toNat 8
    ∧ s'.mem.readBytes (base + 8) 4 = leBytes x.word0.toNat 4
    ∧ s'.mem.readBytes (base + 12) 4 = leBytes (if x.word0.getLsbD 0 then x.word1.toNat else 0) 4
    ∧ s'.mem.readBytes (base + 16) 8
        = leBytes (cls + (if t.async then 2 ^ 6 else 0) + sub * 2 ^ 8 + x.unit.gangId.toNat * 2 ^ 32) 8
    ∧ s'.mem.readBytes (base + 24) 4 = leBytes (gangView x.slices (fun y => actOf y (kmOf i))).toNat 4
    ∧ s'.mem.readBytes (base + 28) 4 = leBytes t.replay.toNat 4
    ∧ s'.mem.readBytes (base + 32) 8 = leBytes (if cls = 4 ∨ cls = 5 then t.addr.toNat else 0) 8
    ∧ s'.mem.readBytes (base + 40) 4 = leBytes (slicesField x.js) 4
    ∧ s'.mem.readBytes (base + 44) 4 = leBytes 0 4
    ∧ s'.mem.readBytes (base + 48) 4 = leBytes (lmaskOf x.unit).toNat 4
    ∧ s'.mem.readBytes (base + 52) 8 = leBytes s.gtick.toNat 8
    ∧ s'.mem.readBytes (base + 64) 64 = framePcs x.unit
    ∧ ((∀ y ∈ x.unit.slices, y.idx < 8) → (x.unit.slices.map (fun y => y.idx)).Nodup →
        ∀ y ∈ x.unit.slices, ∀ n, n < 8 →
          s'.mem.readBytes (base + 256 + 64 * y.idx + 8 * n) 8 = leBytes (y.divert.getS (BitVec.ofNat 6 (56 + n))).toNat 8
          ∧ ∀ l : Fin 4, s'.mem.readBytes (base + 768 + 128 * y.idx + 16 * n + 4 * l.val) 4
              = leBytes (y.divert.getV (BitVec.ofNat 6 (56 + n)) l).toNat 4)
    ∧ (∀ a, (a < base ∨ base + 2048 ≤ a)
        → (∀ y ∈ x.unit.slices, (a < base + 256 + 64 * y.idx ∨ base + 320 + 64 * y.idx ≤ a)
            ∧ (a < base + 768 + 128 * y.idx ∨ base + 896 + 128 * y.idx ≤ a))
        → s'.mem.read a = s.mem.read a)
    ∧ (deleg = true → ∃ u', s'.unit? x.unit.id = some u' ∧ u'.handler = some x.js
        ∧ ∀ y ∈ u'.slices, x.js.contains y.idx = true →
            y.pc = (s.ctx x.unit.ctx).trapbase + BitVec.ofNat 64 (t.cls * 0x40) ∧ y.mask = 0xF ∧ y.run = .running)
    ∧ (deleg = false → ∃ u', s'.unit? x.unit.id = some u' ∧ u'.halt = .trapped cls
        ∧ s'.reports = s.reports ++ [{ unit := x.unit.id, cls := cls, sub := sub, pc := x.pc }])
    ∧ (∃ u', s'.unit? x.unit.id = some u'
        ∧ u'.side = { replay := t.replay, faulted := t.faulted, lcause := t.lcause, seq := t.seq, ecause := t.ecause, cls := BitVec.ofNat 4 cls })
    ∧ ∀ y, y.id ≠ x.unit.id → s.unit? y.id = some y →
        s'.unit? y.id = some (if reach y then { y with halt := .pending x.unit.gangId.toNat (cls + sub * 2 ^ 8) 0 } else y))
  -- in a transaction
  ∧ (∀ (i : Instr) (s : State) (x : Issue) (t : Trap) (tx : Txn),
    s.issuer = some x → s.mem.wf = true → x.unit.id.kind = .gang → x.unit.txn = some tx →
    let s' := afterTrap i s x t
    let nested := !t.async && (match x.unit.handler with | some hs => x.js.any (fun j => hs.contains j) | none => false)
    let cls := if nested then 14 else t.cls
    let sub := if nested then 3 else t.sub
    ∃ u', s'.unit? x.unit.id = some u' ∧ u'.txn = none ∧ u'.slices.length = x.unit.slices.length
      ∧ (∀ y ∈ u'.slices, y.pc = tx.label)
      ∧ (t.cls = 2 ∨ t.cls = 4 ∨ t.cls = 14 → (∀ y ∈ u'.slices, y.getS 59 = 8) ∧ u'.halt = .trapped cls
          ∧ s'.mem.readBytes (framePa x.unit + 16) 8
              = leBytes (cls + 2 ^ 5 + (if t.async then 2 ^ 6 else 0) + sub * 2 ^ 8 + x.unit.gangId.toNat * 2 ^ 32) 8)
      ∧ (t.cls ≠ 2 → t.cls ≠ 3 → t.cls ≠ 4 → t.cls ≠ 14 →
          (∀ y ∈ u'.slices, y.getS 59 = BitVec.ofNat 64 (6 + t.cls * 2 ^ 8)) ∧ u'.halt = x.unit.halt)
      ∧ (t.cls = 3 → ∀ y ∈ u'.slices, y.getS 59 = 10 ∧ (y.run = .exited ∨ y.run = .parked (.page t.pages t.kind) 0 false)))
  -- class 3
  ∧ (∀ (i : Instr) (s : State) (x : Issue) (t : Trap), s.issuer = some x → t.cls = 3 →
    let s' := afterTrap i s x t
    (∀ p ∈ t.pages, (requestFor s' x.unit.ctx p t.kind).isSome = true ∨ Config.faultRequestsPerDie ≤ dieRequests s' (coreDie x.unit.id.core))
    ∧ (x.unit.txn = none → s'.mem = s.mem ∧ s'.log = s.log ∧ ∃ u', s'.unit? x.unit.id = some u' ∧ u'.halt = x.unit.halt
        ∧ (x.unit.handler = none → u'.side.replay = t.replay ∧ u'.side.faulted = t.faulted) ∧ (x.unit.handler ≠ none → u'.side = x.unit.side)
        ∧ ∀ y ∈ u'.slices, x.js.contains y.idx = true → y.run = .parked (.page t.pages t.kind) 0 false
            ∧ ∃ old ∈ x.unit.slices, y.pc = old.pc ∧ (t.faulted ≠ 0 → y.replay = some (laneBits t.replay y.idx))))
  -- members of engines, management units
  ∧ ∀ (i : Instr) (s : State) (x : Issue) (t : Trap), s.issuer = some x → x.unit.id.kind ≠ .gang → t.cls ≠ 3 →
    let s' := afterTrap i s x t
    s'.mem = s.mem ∧ s'.unit? x.unit.id = some { x.unit with halt := .trapped (t.cls + (if t.async then 16 else 0)) }
      ∧ s'.reports = s.reports ++ [{ unit := x.unit.id, cls := t.cls, sub := t.sub, pc := x.pc }]

/-! ### Scalar instructions and masks -/

/-- Scalar results (R92, R96), in each executing slice on its own registers: the exact result of SADD, SSUB and SMUL wrapped to 64
bits, or clamped under SAT with SATD when it was out of range; the high half of the product, the quotient truncated toward zero
(by zero all ones), the remainder with the sign of a (by zero a), the smaller, the larger, and SSET's comparison. b is sB, or
sext(imm16) with IB; both are i64, or n64 with U. The group goes on to the next instruction. A write to s63 is discarded (`putS`,
R20). Scalar results on bits (R96, R97): AND, OR, XOR; shifts by the low six bits of b, as products and quotients by a power of
two, SSRA's of the signed value; SLI's sign-extended immediate moved up by 16 x HW, and SLI with INS, which replaces sixteen bits
of sA. -/
def Obligations.ScalarResults : Prop :=
  (
    let u (o : WArgs) : Bool := o.sec.getLsbD 4
    let rd (o : WArgs) (w : W64) : Int := if u o then w.toNat else w.toInt
    let opA (o : WArgs) (t : Slice) : Int := rd o (t.getS o.a)
    let opB (o : WArgs) (t : Slice) : Int := rd o (if o.xf.getLsbD 3 then o.imm.signExtend 64 else t.getS o.b)
    (∀ p ∈ ([(.sadd, fun a b => a + b), (.ssub, fun a b => a - b), (.smul, fun a b => a * b)] : List ((WArgs → Instr) × (Int → Int → Int))),
      ∀ o s x, Issues (p.1 o) s x →
        exec (p.1 o) s = .next (after s x (fun t =>
          let y := p.2 (opA o t) (opB o t)
          let z := if o.sec.getLsbD 5 then max (if u o then 0 else -2 ^ 63) (min (if u o then 2 ^ 64 - 1 else 2 ^ 63 - 1) y) else y
          { t.putS o.d (BitVec.ofInt 64 z) with fpstat := if z = y then t.fpstat else t.fpstat ||| 0x40 })))
    ∧ ∀ p ∈ ([(.smulh, fun _ a b => (BitVec.ofInt 128 (a * b)).extractLsb' 64 64),
          (.sdiv, fun _ a b => if b = 0 then BitVec.allOnes 64 else BitVec.ofInt 64 (a.tdiv b)),
          (.srem, fun _ a b => BitVec.ofInt 64 (if b = 0 then a else a.tmod b)),
          (.smin, fun _ a b => BitVec.ofInt 64 (min a b)), (.smax, fun _ a b => BitVec.ofInt 64 (max a b)),
          (.sset, fun c a b => if (c = 0 ∧ a = b) ∨ (c = 1 ∧ a ≠ b) ∨ (c = 2 ∧ a < b) ∨ (c = 3 ∧ a ≤ b) ∨ (c = 4 ∧ b < a) ∨ (c = 5 ∧ b ≤ a)
            then 1 else 0)] : List ((WArgs → Instr) × (Nat → Int → Int → W64))),
      ∀ o s x, WellFormed.fieldsOk (p.1 o) = true → Issues (p.1 o) s x →
        exec (p.1 o) s = .next (after s x (fun t => t.putS o.d (p.2 (o.sec.toNat % 16) (opA o t) (opB o t))))
  ) ∧ (
    let opB (o : WArgs) (t : Slice) : W64 := if o.xf.getLsbD 3 then o.imm.signExtend 64 else t.getS o.b
    (∀ p ∈ ([(.sand, fun a b => BitVec.ofNat 64 (a.toNat &&& b.toNat)), (.sor, fun a b => BitVec.ofNat 64 (a.toNat ||| b.toNat)),
          (.sxor, fun a b => BitVec.ofNat 64 (a.toNat ^^^ b.toNat)),
          (.sshl, fun a b => BitVec.ofNat 64 (a.toNat * 2 ^ (b.toNat % 64))), (.sshr, fun a b => BitVec.ofNat 64 (a.toNat / 2 ^ (b.toNat % 64))),
          (.ssra, fun a b => BitVec.ofInt 64 (a.toInt / 2 ^ (b.toNat % 64)))] : List ((WArgs → Instr) × (W64 → W64 → W64))),
      ∀ o s x, Issues (p.1 o) s x → exec (p.1 o) s = .next (after s x (fun t => t.putS o.d (p.2 (t.getS o.a) (opB o t)))))
    ∧ (∀ o s x, Issues (.sli o) s x →
        exec (.sli o) s = .next (after s x (fun t => t.putS o.d (BitVec.ofInt 64 (o.imm.toInt * 2 ^ (16 * (o.sec.toNat % 4)))))))
    ∧ ∀ o s x, Issues (.sliIns o) s x →
        ∃ F : Slice → Slice, exec (.sliIns o) s = .next (after s x F) ∧ ∀ t, ∃ w : W64, F t = t.putS o.d w
          ∧ ∀ n, n < 64 → w.getLsbD n =
              if 16 * (o.sec.toNat % 4) ≤ n ∧ n < 16 * (o.sec.toNat % 4) + 16 then o.imm.getLsbD (n - 16 * (o.sec.toNat % 4))
              else (t.getS o.a).getLsbD n
  )

/-- The frame of the scalar instructions (R91, R92): each executing slice changes sD and may gain flags, and goes on; every other
register, every other slice, unit, byte of memory and piece of state stays. -/
def Obligations.ScalarFrame : Prop :=
  (∀ p ∈ [Instr.sadd, .ssub, .smul, .smulh, .sdiv, .srem, .sand, .sor, .sxor, .sshl, .sshr, .ssra, .smin, .smax, .sset],
    ∀ o s x, Issues (p o) s x → ∃ s', exec (p o) s = .next s' ∧ Frame s s' x (OnlyScalar x.size o.d))
  ∧ (∀ o s x, Issues (.kpop o) s x → ∃ s', exec (.kpop o) s = .next s' ∧ Frame s s' x (OnlyScalar x.size o.d))
  ∧ (∀ o s x, Issues (.vextr o) s x → ∃ s', exec (.vextr o) s = .next s' ∧ Frame s s' x (OnlyScalar x.size o.d))
  ∧ ∀ p ∈ [Instr.sli, .sliIns], ∀ o s x, Issues (p o) s x → ∃ s', exec (p o) s = .next s' ∧ Frame s s' x (OnlyScalar x.size o.d)

/-- Mask operations (R115, R116, R20): each executing slice writes its own four bits of the result, which reads as zero the operands
of slices that do not execute; the lane mask plays no part, and k0 as an operand reads each slice's lane mask, as a destination
discards. KMOV's immediate is zero-extended, or moved up by sixteen with HI; FROMS takes each slice's sA[31:0]; TOS and KPOP write
the assembled view, or its number of ones, to sD of every executing slice. The frame of the mask operations (R115, R116): of each
executing slice only kD changes, or sD. -/
def Obligations.MaskInstructions : Prop :=
  (
    let lane (x : Issue) (r : Reg) (n : Nat) : Bool := x.slices.any (fun t => decide (t.idx = n / 4) && (t.getK r.toNat).getLsbD (n % 4))
    let own (d : Reg) (f : Nat → Bool) (t : Slice) : Slice :=
      t.putK d.toNat (lanesWhere 0xF (fun l => decide (4 * t.idx + l.val < 32) && f (4 * t.idx + l.val)))
    (∀ p ∈ ([(.kand, fun a b => a && b), (.kor, fun a b => a || b), (.kxor, fun a b => a != b), (.knot, fun a _ => !a)] :
        List ((WArgs → Instr) × (Bool → Bool → Bool))),
      ∀ o s x, Issues (p.1 o) s x → exec (p.1 o) s = .next (after s x (own o.d (fun n => p.2 (lane x o.a n) (lane x o.b n)))))
    ∧ (∀ o s x, Issues (.kmov o) s x → o.xf.getLsbD 3 = true →
        exec (.kmov o) s = .next (after s x (own o.d (fun n =>
          if o.xf.getLsbD 2 then decide (16 ≤ n) && o.imm.getLsbD (n - 16) else o.imm.getLsbD n))))
    ∧ (∀ o s x, Issues (.kmov o) s x → o.xf = 2 →
        exec (.kmov o) s = .next (after s x (fun t => own o.d (fun n => (t.getS o.a).getLsbD n) t)))
    ∧ (∀ o s x, Issues (.kmov o) s x → o.xf = 1 →
        ∃ w : W64, exec (.kmov o) s = .next (after s x (fun t => t.putS o.d w)) ∧ ∀ n, n < 64 → w.getLsbD n = (decide (n < 32) && lane x o.a n))
    ∧ (∀ o s x, Issues (.kmov o) s x → o.xf = 0 → exec (.kmov o) s = .next (after s x (own o.d (lane x o.a))))
    ∧ ∀ o s x, Issues (.kpop o) s x → exec (.kpop o) s = .next (after s x (fun t =>
        t.putS o.d (BitVec.ofNat 64 ((List.range 32).filter (lane x o.a)).length)))
  ) ∧ (
    (∀ p ∈ [Instr.kand, .kor, .kxor, .knot], ∀ o s x, Issues (p o) s x →
      ∃ s', exec (p o) s = .next s' ∧ Frame s s' x (OnlyMask x.size o.d.toNat))
    ∧ (∀ o s x, Issues (.kmov o) s x → o.xf.getLsbD 0 = false → ∃ s', exec (.kmov o) s = .next s' ∧ Frame s s' x (OnlyMask x.size o.d.toNat))
    ∧ (∀ o s x, Issues (.kmov o) s x → o.xf = 1 → ∃ s', exec (.kmov o) s = .next s' ∧ Frame s s' x (OnlyScalar x.size o.d))
    ∧ ∀ o s x, Issues (.vcmp o) s x → ∃ s', exec (.vcmp o) s = .next s' ∧ Frame s s' x (OnlyMask x.size o.d.toNat)
  )

/-! ### Vector instructions -/

/-- Vector integer results with an exact row (R92, R93, R98): in each active lane the exact f(a, b, c) of the elements read in T,
wrapped, or with S clamped to T's range with SATD; VMULH, VMIN and VMAX. No exception is enabled for them (R86). Vector integer
results on bits (R98): AND, OR, XOR; shifts by the low bits of b, with zeros or the sign of the T pattern shifted in; the number
of leading zeros in width(T), which for 0 is width(T), and the number of ones. -/
def Obligations.VectorIntegers : Prop :=
  (
    (∀ p ∈ ([(.vadd, fun a b _ => a + b), (.vsub, fun a b _ => a - b), (.vmul, fun a b _ => a * b), (.vmad, fun a b c => a * b + c),
        (.vabs, fun a _ _ => max a (-a))] : List ((PArgs → Instr) × (Int → Int → Int → Int))),
      ∀ o s x, Issues (p.1 o) s x →
        exec (p.1 o) s = .next (after s x (fun t => lanesFlagged o.t o.d (actOf t o.km) (fun l =>
          let n := widthOf o.t
          let y := p.2 (intElem o.t t o.a l) (intElem o.t t o.b l) (intElem o.t t o.c l)
          let z := if o.s then max (if signedT o.t then -2 ^ (n - 1) else 0) (min (if signedT o.t then 2 ^ (n - 1) - 1 else 2 ^ n - 1) y) else y
          ((z % 2 ^ n).toNat, if z = y then 0 else Flags.satd)) t)))
    ∧ ∀ p ∈ ([(.vmulh, fun n a b => ((BitVec.ofInt (2 * n) (a * b)).extractLsb' n n).toNat), (.vmin, fun n a b => ((min a b) % 2 ^ n).toNat),
        (.vmax, fun n a b => ((max a b) % 2 ^ n).toNat)] : List ((PArgs → Instr) × (Nat → Int → Int → Nat))),
      ∀ o s x, WellFormed.fieldsOk (p.1 o) = true → Issues (p.1 o) s x →
        exec (p.1 o) s = .next (after s x (fun t => lanesFlagged o.t o.d (actOf t o.km) (fun l =>
          (p.2 (widthOf o.t) (intElem o.t t o.a l) (intElem o.t t o.b l), 0)) t))
  ) ∧ (
    ∀ p ∈ ([(.vand, fun n a b => (BitVec.ofNat n a &&& BitVec.ofNat n b).toNat), (.vor, fun n a b => (BitVec.ofNat n a ||| BitVec.ofNat n b).toNat),
        (.vxor, fun n a b => (BitVec.ofNat n a ^^^ BitVec.ofNat n b).toNat), (.vshl, fun n a b => (BitVec.ofNat n a <<< (b % n)).toNat),
        (.vshr, fun n a b => (BitVec.ofNat n a >>> (b % n)).toNat), (.vsra, fun n a b => ((BitVec.ofNat n a).sshiftRight (b % n)).toNat),
        (.vclz, fun n a _ => ((List.range n).filter (fun i => decide (a < 2 ^ i))).length),
        (.vpopc, fun n a _ => ((List.range n).filter (fun i => a.testBit i)).length)] : List ((PArgs → Instr) × (Nat → Nat → Nat → Nat))),
      ∀ o s x, Issues (p.1 o) s x →
        exec (p.1 o) s = .next (after s x (fun t => lanesFlagged o.t o.d (actOf t o.km) (fun l =>
          (p.2 (widthOf o.t) (t.elem o.t o.a l) (t.elem o.t o.b l), 0)) t))
  )

/-- VCMP and VSEL (R99): D names k0 to k7, the condition is below 6, kS below 8; in each executing slice kD gets the condition
in the active lanes and zero in the others (a write to k0 is discarded, R20); VSEL gives a where kS is 1, b elsewhere, and with k0
a everywhere. -/
def Obligations.VectorCompareSelect : Prop :=
  (∀ o s x, WellFormed.fieldsOk (.vcmp o) = true → Issues (.vcmp o) s x →
    exec (.vcmp o) s = .next (after s x (fun t => t.putK o.d.toNat (lanesWhere (actOf t o.km) (fun l =>
        let a := intElem o.t t o.a l
        let b := intElem o.t t o.b l
        match o.sec.toNat with
        | 0 => a = b | 1 => a ≠ b | 2 => a < b | 3 => a ≤ b | 4 => b < a | _ => b ≤ a)))))
  ∧ (∀ o s x, Issues (.vsel o) s x →
    exec (.vsel o) s = .next (after s x (fun t => lanesFlagged o.t o.d (actOf t o.km) (fun l =>
      (if o.sec = 0 ∨ (t.getK o.sec.toNat).getLsbD l.val = true then t.elem o.t o.a l else t.elem o.t o.b l, 0)) t)))
  ∧ (∀ o, WellFormed.fieldsOk (.vcmp o) = true → o.d.toNat < 8 ∧ o.sec.toNat < 6)
  ∧ ∀ o, WellFormed.fieldsOk (.vsel o) = true → o.sec.toNat < 8

/-- Vector float results (R64 to R67, R94, R100): operands read with FTZ, one exact operation, one rounding under RM or FPCTL.RM,
saturation under S, FTZ on the result; FMIN, FMAX and FSGN on bits, FSGN with NV for a signalling NaN in either operand (R62); FRINT to
an integral value, NX when it changed. The exact operations are characterised in `Rounding`; which NaNs of a format signal is the
model's choice (log entry 25). While no enabled exception is raised, the active lanes are written and their flags set; else nothing is written and class 7 is raised.
FSCALE (R100): a × 2^b with one rounding, for every i32 element b. -/
def Obligations.FloatArithmetic : Prop :=
  (
    let fm (o : PArgs) : Format := formatOf o.t
    let bits (o : PArgs) (t : Slice) (r : Reg) (l : Fin 4) : Nat := (fm o).flushIn (t.fpctl.getLsbD 3) (t.elem o.t r l)
    let rd (o : PArgs) (t : Slice) (r : Reg) (l : Fin 4) : Val := (fm o).decode (bits o t r l)
    let out (o : PArgs) (t : Slice) (v : Val) : Nat × Flags :=
      (fm o).flushOut (t.fpctl.getLsbD 3) ((fm o).deliver (rmFor t.fpctl o.rm) o.s v)
    let rows : List ((PArgs → Instr) × (PArgs → Slice → Fin 4 → Nat × Flags)) :=
      [(.fadd, fun o t l => out o t (Val.add (rmFor t.fpctl o.rm) (rd o t o.a l) (rd o t o.b l))),
       (.fsub, fun o t l => out o t (Val.add (rmFor t.fpctl o.rm) (rd o t o.a l) (rd o t o.b l).neg)),
       (.fmul, fun o t l => out o t (Val.mul (rd o t o.a l) (rd o t o.b l))),
       (.ffma, fun o t l => out o t (Val.fma (rmFor t.fpctl o.rm) (rd o t o.a l) (rd o t o.b l) (rd o t o.c l))),
       (.fmin, fun o t l => fminmax (fm o) false (bits o t o.a l) (bits o t o.b l)),
       (.fmax, fun o t l => fminmax (fm o) true (bits o t o.a l) (bits o t o.b l)),
       (.fsgn, fun o t l =>
          let sign (n : Nat) : Nat := if n.testBit ((fm o).width - 1) then 1 else 0
          let a := bits o t o.a l
          let b := bits o t o.b l
          (if isNan (rd o t o.a l) then (fm o).qnan
            else a % 2 ^ ((fm o).width - 1) + 2 ^ ((fm o).width - 1)
              * (match o.sec.toNat with | 0 => sign b | 1 => 1 - sign b | _ => (sign a + sign b) % 2),
           if sigOf (rd o t o.a l) || sigOf (rd o t o.b l) then Flags.nv else 0)),
       (.frint, fun o t l => match rd o t o.a l with
          | .num n m e st =>
            let r := roundInt (rmFor t.fpctl o.rm) n m e st
            (if r.1 = 0 then (if n then 2 ^ ((fm o).width - 1) else 0)
               else ((fm o).deliver (rmFor t.fpctl o.rm) false (.num n r.1.natAbs 0 false)).1, if r.2 then Flags.nx else 0)
          | v => (fm o).deliver (rmFor t.fpctl o.rm) false v)]
    ∀ p ∈ rows, ∀ o s x, Issues (p.1 o) s x →
      (Quiet x o.km (p.2 o) → exec (p.1 o) s = .next (after s x (fun t => lanesFlagged o.t o.d (actOf t o.km) (p.2 o t) t)))
      ∧ (¬Quiet x o.km (p.2 o) → exec (p.1 o) s = .next (afterTrap (p.1 o) s x (class7 x o.km (p.2 o))))
  ) ∧ (
    ∀ o s x, WellFormed.fieldsOk (.fscale o) = true → Issues (.fscale o) s x →
      let fm := formatOf o.t
      let res (t : Slice) (l : Fin 4) : Nat × Flags :=
        fm.flushOut (t.fpctl.getLsbD 3) (fm.deliver (rmFor t.fpctl o.rm) o.s
          (match fm.decode (fm.flushIn (t.fpctl.getLsbD 3) (t.elem o.t o.a l)) with
            | .num n m e st => .num n m (e + (t.getV o.b l).toInt) st
            | v => v))
      (Quiet x o.km res → exec (.fscale o) s = .next (after s x (fun t => lanesFlagged o.t o.d (actOf t o.km) (res t) t)))
      ∧ (¬Quiet x o.km res → exec (.fscale o) s = .next (afterTrap (.fscale o) s x (class7 x o.km res)))
  )

/-- FCMP and FCLASS (R101): the conditions 0 to 7, of which NE and UN alone hold with a NaN, NV for an ordering of a NaN and for a signalling NaN;
the class bit, with no FTZ and no exception. -/
def Obligations.FloatCompareClass : Prop :=
  (∀ o s x, WellFormed.fieldsOk (.fcmp o) = true → Issues (.fcmp o) s x →
    let fm := formatOf o.t
    let rd (t : Slice) (r : Reg) (l : Fin 4) : Val := fm.decode (fm.flushIn (t.fpctl.getLsbD 3) (t.elem o.t r l))
    let res (t : Slice) (l : Fin 4) : Nat × Flags :=
      let a := rd t o.a l
      let b := rd t o.b l
      let un := isNan a || isNan b
      let lt := !un && a.less b == some true
      let gt := !un && a.less b == some false
      let holds : Bool := match o.sec.toNat with
        | 0 => !un && !lt && !gt | 1 => un || lt || gt | 2 => lt | 3 => !un && !gt | 4 => gt | 5 => !un && !lt | 6 => un | _ => !un
      let nv := sigOf a || sigOf b || (un && decide (2 ≤ o.sec.toNat ∧ o.sec.toNat ≤ 5))
      (if holds then 1 else 0, if nv then Flags.nv else 0)
    (Quiet x o.km res → exec (.fcmp o) s = .next (after s x (fun t =>
      { t.putK o.d.toNat (lanesWhere (actOf t o.km) (fun l => (res t l).1 == 1)) with
        fpstat := t.fpstat ||| (flagsOf (actOf t o.km) (fun l => (res t l).2)).setWidth 32 })))
    ∧ (¬Quiet x o.km res → exec (.fcmp o) s = .next (afterTrap (.fcmp o) s x (class7 x o.km res))))
  ∧ (∀ o s x, Issues (.fclass o) s x →
    exec (.fclass o) s = .next (after s x (fun t => lanesFlagged .i32 o.d (actOf t o.km) (fun l =>
      let fm := formatOf o.t
      (match fm.decode (t.elem o.t o.a l) with
        | .inf true => 1
        | .num true m _ _ => if m = 0 then 8 else if m < 2 ^ fm.fbits then 4 else 2
        | .num false m _ _ => if m = 0 then 16 else if m < 2 ^ fm.fbits then 32 else 64
        | .inf false => 128
        | .nan true => 256
        | .nan false => 512, 0)) t)))
  ∧ ∀ o, WellFormed.fieldsOk (.fcmp o) = true → o.d.toNat < 8 ∧ o.sec.toNat < 8

/-- Rounding (R64 to R68): a finite non-zero magnitude lies in one step of its binade, q × 2^k to (q + 1) × 2^k, subnormals included; it is
rounded down or up by the mode and its sign, SR by the 16 bits below q against the threshold. The result is delivered where the format
holds it, with NX exactly when the value changed, and UF beside NX when the value rounded to the format's precision with no lower bound
on the exponent lies below the smallest normal one (R65); beyond the largest finite value it is an overflow, with OF and NX. Values are
compared as multiples of a common power of two; a sticky bit is a value just above. Bits are delivered as R64 and R67 have them: the
sign joined, an overflow to infinity, to the canonical NaN of e4m3 or to ±6 as the mode and the format have it, S clamping to the
largest finite value with SATD. FTZ replaces a subnormal, read or delivered, by the zero of its sign, delivered ones with UF and NX
(R66). A finite value of a format is delivered as itself, whatever the mode: its bits, and no flag (R60, R64). The
operations before rounding are exact (R64, R85, R100): sum, product and fused product of finite values, a sum of zero signed as R64
has it; those of infinities and NaNs as IEEE 754 has them, but that 0 × ∞ with a quiet NaN addend is invalid is the model's choice
(log entry 25). FMIN and FMAX (R100) give the lesser or greater of two operands with −0 below +0, the other operand of one NaN, the
canonical NaN of two, and NV for a signalling one. The block sum of matrix work (R81) is exact; it is NaN with a NaN product or
infinities of both signs, otherwise an infinity with an infinite product; a product with a zero factor is zero (R82). An acc40 word
reads by R78 and R79 and round_acc is the function of R80. -/
def Obligations.Rounding : Prop :=
  (
    let goesUp (rm : Rm) (n : Bool) (w v u : Nat) (odd : Bool) : Bool :=
      match rm with
      | .rtz => false
      | .rup => !n && decide (w < v)
      | .rdn => n && decide (w < v)
      | .rne => decide (2 * w + u < 2 * v) || (decide (2 * w + u = 2 * v) && odd)
      | .rna => decide (2 * w + u ≤ 2 * v)
      | .sr r => decide (r < (v - w) * 2 ^ 16 / u)
    ∀ p ∈ ([(.f32, 23, -149, 2 ^ 24 - 1, 104), (.f16, 10, -24, 2 ^ 11 - 1, 5), (.bf16, 7, -133, 2 ^ 8 - 1, 120), (.f64, 52, -1074, 2 ^ 53 - 1, 971),
        (.e4m3, 3, -9, 14, 5), (.e5m2, 2, -16, 7, 13), (.e2m1, 1, -1, 3, 1)] : List (TCode × Nat × Int × Nat × Int)),
    ∀ (rm : Rm) (n : Bool) (m : Nat) (e g : Int), m ≠ 0 → g ≤ e → g < p.2.2.1 →
      let f := formatOf p.1
      let bits := p.2.1
      let lowest := p.2.2.1
      let scale (m : Nat) (e : Int) : Nat := m * 2 ^ (e - g).toNat
      let v := scale m e
      ∃ (q : Nat) (k : Int), lowest ≤ k ∧ q < 2 ^ (bits + 1) ∧ (2 ^ bits ≤ q ∨ k = lowest) ∧ scale q k ≤ v ∧ v < scale (q + 1) k ∧
        let c := if goesUp rm n (scale q k) v (scale 1 k) (q % 2 == 1) then q + 1 else q
        let half := scale 1 (lowest - 1)
        let tiny := v < scale (2 ^ bits) lowest ∧ goesUp rm n (scale (2 ^ bits) lowest - half) v half true = false
        (scale p.2.2.2.1 p.2.2.2.2 < scale c k → f.place rm n m e false = (none, Flags.of ||| Flags.nx))
        ∧ (scale c k ≤ scale p.2.2.2.1 p.2.2.2.2 → ∃ (mag m' : Nat) (e' : Int),
            mag < 2 ^ (f.width - 1) ∧ f.decode mag = .num false m' e' false ∧ g ≤ e' ∧ scale m' e' = scale c k
            ∧ f.place rm n m e false = (some mag, if scale q k = v then 0 else if tiny then Flags.nx ||| Flags.uf else Flags.nx))
  ) ∧ (
    ∀ ty rm n m e, (formatOf ty).place rm n 0 e false = (some 0, 0)
      ∧ (formatOf ty).place rm n m e true = (formatOf ty).place rm n (4 * m + 1) (e - 2) false
  ) ∧ (
    ∀ p ∈ ([(.f32, 0x7F7FFFFF, some 0x7F800000, some 0x7FC00000), (.f16, 0x7BFF, some 0x7C00, some 0x7E00),
        (.bf16, 0x7F7F, some 0x7F80, some 0x7FC0), (.f64, 0x7FEFFFFFFFFFFFFF, some 0x7FF0000000000000, some 0x7FF8000000000000),
        (.e4m3, 0x7E, none, some 0x7F), (.e5m2, 0x7B, some 0x7C, some 0x7E), (.e2m1, 7, none, none)] : List (TCode × Nat × Option Nat × Option Nat)),
    ∀ (rm : Rm) (sat n : Bool) (m : Nat) (e : Int) (st sg : Bool),
      let f := formatOf p.1
      let sign := if n then 2 ^ (f.width - 1) else 0
      let greatest := sign + p.2.1
      let infinite := match p.2.2.1, p.2.2.2 with
        | some i, _ => sign + i
        | none, some q => q
        | none, none => greatest
      let away : Bool := match rm with | .rtz => false | .rup => !n | .rdn => n | _ => true
      f.deliver rm sat (.num n m e st) = (match f.place rm n m e st with
          | (some mag, fl) => (sign + mag, fl)
          | (none, fl) => if !away then (greatest, fl) else if sat then (greatest, fl ||| Flags.satd) else (infinite, fl))
      ∧ f.deliver rm sat (.inf n) = (if sat then (greatest, Flags.satd) else (infinite, if p.2.2.1 = none then Flags.nv else 0))
      ∧ f.deliver rm sat (.nan sg) = (p.2.2.2.getD 0, if sg = true ∨ p.2.2.2 = none then Flags.nv else 0)
  ) ∧ (
    ∀ p ∈ ([(.f32, 8, 23), (.f16, 5, 10), (.bf16, 8, 7), (.f64, 11, 52)] : List (TCode × Nat × Nat)), ∀ (ftz : Bool) (a : Nat) (fl : Flags),
      let f := formatOf p.1
      let top := 2 ^ (p.2.1 + p.2.2)
      let flushed := ftz = true ∧ a / 2 ^ p.2.2 % 2 ^ p.2.1 = 0 ∧ a % 2 ^ p.2.2 ≠ 0
      a < 2 * top →
      f.flushIn ftz a = (if flushed then a / top * top else a)
      ∧ f.flushOut ftz (a, fl) = (if flushed then (a / top * top, fl ||| Flags.uf ||| Flags.nx) else (a, fl))
  ) ∧ (
    ∀ ty ∈ [TCode.f32, .f16, .bf16, .f64, .e4m3, .e5m2, .e2m1], ∀ (rm : Rm) (sat : Bool) (a : Nat), a < 2 ^ (formatOf ty).width →
      (∃ n m e st, (formatOf ty).decode a = .num n m e st) → (formatOf ty).deliver rm sat ((formatOf ty).decode a) = (a, 0)
  ) ∧ (
    let real (n : Bool) (m : Nat) (e g : Int) : Int := (if n then -1 else 1) * (m : Int) * 2 ^ (e - g).toNat
    (∀ rm n1 m1 e1 n2 m2 e2, ∃ n m e, Val.add rm (.num n1 m1 e1 false) (.num n2 m2 e2 false) = .num n m e false
      ∧ (∀ g, g ≤ e → g ≤ e1 → g ≤ e2 → real n m e g = real n1 m1 e1 g + real n2 m2 e2 g)
      ∧ (m = 0 → n = if m1 = 0 ∧ m2 = 0 ∧ n1 = n2 then n1 else decide (rm = .rdn)))
    ∧ (∀ n1 m1 e1 n2 m2 e2, ∃ n m e, Val.mul (.num n1 m1 e1 false) (.num n2 m2 e2 false) = .num n m e false
      ∧ n = (n1 != n2) ∧ ∀ g, g ≤ e1 → g ≤ e2 → 2 * g ≤ e → real n m e (2 * g) = real n1 m1 e1 g * real n2 m2 e2 g)
    ∧ (∀ rm n1 m1 e1 n2 m2 e2 n3 m3 e3, ∃ n m e, Val.fma rm (.num n1 m1 e1 false) (.num n2 m2 e2 false) (.num n3 m3 e3 false) = .num n m e false
      ∧ (∀ g, g ≤ e1 → g ≤ e2 → 2 * g ≤ e3 → 2 * g ≤ e → real n m e (2 * g) = real n1 m1 e1 g * real n2 m2 e2 g + real n3 m3 e3 (2 * g))
      ∧ (m = 0 → n = if (m1 = 0 ∨ m2 = 0) ∧ m3 = 0 ∧ (n1 != n2) = n3 then n3 else decide (rm = .rdn)))
    ∧ (∀ rm n k, Val.add rm (.inf n) (.inf k) = if n = k then .inf n else .nan true)
    ∧ (∀ rm n k m e st, Val.add rm (.inf n) (.num k m e st) = .inf n ∧ Val.add rm (.num k m e st) (.inf n) = .inf n
        ∧ Val.mul (.inf n) (.num k m e st) = (if m = 0 then .nan true else .inf (n != k))
        ∧ Val.mul (.num k m e st) (.inf n) = (if m = 0 then .nan true else .inf (k != n)))
    ∧ (∀ n k, Val.mul (.inf n) (.inf k) = .inf (n != k))
    ∧ (∀ rm a b, (isNan a || isNan b) = true → Val.add rm a b = .nan (sigOf a || sigOf b) ∧ Val.mul a b = .nan (sigOf a || sigOf b))
  ) ∧ (
    let below (a b : Val) : Prop := a.less b = some true ∨ (a.less b = none ∧ (signOf b = true → signOf a = true))
    (∀ (n1 : Bool) (m1 : Nat) (e1 : Int) (n2 : Bool) (m2 : Nat) (e2 : Int), let g := min e1 e2
      let p : Int := (if n1 then -1 else 1) * (m1 : Int) * 2 ^ (e1 - g).toNat
      let q : Int := (if n2 then -1 else 1) * (m2 : Int) * 2 ^ (e2 - g).toNat
      Val.less (.num n1 m1 e1 false) (.num n2 m2 e2 false) = if p = q then none else some (decide (p < q)))
    ∧ ∀ ty ∈ [TCode.f32, .f16, .bf16, .f64], ∀ (wantMax : Bool) (a b : Nat), a < 2 ^ (formatOf ty).width → b < 2 ^ (formatOf ty).width →
      let f := formatOf ty
      let r := fminmax f wantMax a b
      r.2 = (if sigOf (f.decode a) || sigOf (f.decode b) then Flags.nv else 0)
      ∧ (isNan (f.decode a) = true → r.1 = if isNan (f.decode b) then f.qnan else b)
      ∧ (isNan (f.decode b) = true → isNan (f.decode a) = false → r.1 = a)
      ∧ (isNan (f.decode a) = false → isNan (f.decode b) = false →
          (r.1 = a ∨ r.1 = b) ∧ ∀ c ∈ [a, b], if wantMax then below (f.decode c) (f.decode r.1) else below (f.decode r.1) (f.decode c))
  ) ∧ (
    let real (g : Int) (v : Bool × Nat × Int) : Int := (if v.1 then -1 else 1) * (v.2.1 : Int) * 2 ^ (v.2.2 - g).toNat
    (∀ vs : List (Bool × Nat × Int), ∃ n m e, Val.sum (vs.map fun v => .num v.1 v.2.1 v.2.2 false) = .num n m e false
      ∧ ∀ g, (m = 0 ∨ g ≤ e) → (∀ v ∈ vs, g ≤ v.2.2) → real g (n, m, e) = (vs.map (real g)).sum)
    ∧ (∀ vs : List Val, (∃ v ∈ vs, isNan v = true) ∨ (.inf false ∈ vs ∧ .inf true ∈ vs) → isNan (Val.sum vs) = true)
    ∧ (∀ (vs : List Val) (n : Bool), .inf n ∈ vs → .inf (!n) ∉ vs → (∀ v ∈ vs, isNan v = false) → Val.sum vs = .inf n)
    ∧ (∀ (a b : Val) (n : Bool) (e : Int) (st : Bool), (a = .num n 0 e st ∨ b = .num n 0 e st → a.mulZ b = .num false 0 0 false)
        ∧ ((∀ n e st, a ≠ .num n 0 e st) → (∀ n e st, b ≠ .num n 0 e st) → a.mulZ b = a.mul b))
  ) ∧ (
    let word (e m : Int) : Acc := BitVec.ofInt 9 e ++ BitVec.ofInt 31 m
    (∀ w : Acc, let e := (w.extractLsb' 31 9).toInt
      let m := (w.extractLsb' 0 31).toInt
      Acc.val w = if e = 255 then (if m = 1 then .inf false else if m = -1 then .inf true else .nan false)
        else .num (decide (m < 0)) m.natAbs (e - 29) false)
    ∧ (∀ n, Acc.round (.nan n) = word 255 (-2 ^ 30) ∧ Acc.round (.inf n) = word 255 (if n then -1 else 1))
    ∧ (∀ n e, Acc.round (.num n 0 e false) = 0)
    ∧ ∀ (n : Bool) (m : Nat) (e : Int), m ≠ 0 →
      let x := max (e + Nat.log2 m + 1) (-256)
      let g := min e (x - 29)
      let v := m * 2 ^ (e - g).toNat
      let u := 2 ^ (x - 29 - g).toNat
      ∃ q : Nat, (2 * (q * u) ≤ 2 * v + u ∧ 2 * v ≤ 2 * (q * u) + u ∧ (2 * v = 2 * (q * u) + u ∨ 2 * (q * u) = 2 * v + u → q % 2 = 0))
        ∧ Acc.round (.num n m e false) =
          if q = 0 then 0
          else if (if q = 2 ^ 29 then x + 1 else x) > 254 then word 255 (if n then -1 else 1)
          else if q = 2 ^ 29 then word (x + 1) (if n then -2 ^ 28 else 2 ^ 28)
          else word x (if n then -(q : Int) else q)
  )

/-- Conversions (R68, R69, R102 to R105), with no FTZ: FCVT from a format or from e8m0 (2^(E - 127), 0xFF a NaN), rounded by its mode or by
the threshold of R68, the count of each executing slice advanced by one under SR, also when class 7 is raised; FCVTI to the nearest
bound with NV out of range; ICVTF; BFPACK by the loop of R105 and the exponents of R75: E is the floor of log2 of the largest finite
magnitude of a block of 16 lanes, one more where a mantissa, rounded to nearest even, would reach 2^(w-1); a block of zeros takes the
smallest E; BEXP, of the lowest slice's sB, bounds E from above (SATD) and at 15 below. The model's choices (log entry 25): FCVTI judges
the range by the rounded value; the NaN of e8m0 and those of e4m3 are quiet, and e5m2's signal where the fraction's top bit is clear. -/
def Obligations.Conversions : Prop :=
  let src (o : PArgs) (t : Slice) (l : Fin 4) : Val :=
    if o.sec = 0x10 then
      (if (t.getV o.a l).toNat % 256 = 255 then .nan false else .num false 1 (((t.getV o.a l).toNat % 256 : Nat) - 127) false)
    else (formatOf (WellFormed.convSrc o)).decode (t.elem (WellFormed.convSrc o) o.a l)
  let mode (u : Machine.Unit) (o : PArgs) (t : Slice) (l : Fin 4) : Rm :=
    if o.rm = .sr then
      .sr ((gen u.srseed (BitVec.ofNat 64 (u.gangId.toNat * 2 ^ 46 + (4 * t.idx + l.val) * 2 ^ 41 + t.srcount.toNat))).toNat % 2 ^ 16)
    else rmFor t.fpctl o.rm
  let fcvt (u : Machine.Unit) (o : PArgs) (t : Slice) (l : Fin 4) : Nat × Flags := (formatOf o.t).deliver (mode u o t l) o.s (src o t l)
  let count (o : PArgs) (t : Slice) : Slice := if o.rm = .sr then { t with srcount := t.srcount + 1 } else t
  let fcvti (o : PArgs) (t : Slice) (l : Fin 4) : Nat × Flags :=
    let lo : Int := if signedT o.t then -2 ^ (widthOf o.t - 1) else 0
    let hi : Int := if signedT o.t then 2 ^ (widthOf o.t - 1) - 1 else 2 ^ widthOf o.t - 1
    match src o t l with
    | .nan _ => (0, Flags.nv)
    | .inf n => (((if n then lo else hi) % 2 ^ widthOf o.t).toNat, Flags.nv)
    | .num n m e st =>
      let r := roundInt (rmFor t.fpctl o.rm) n m e st
      ((max lo (min hi r.1) % 2 ^ widthOf o.t).toNat, if r.1 < lo ∨ hi < r.1 then Flags.nv else if r.2 then Flags.nx else 0)
  let icvtf (o : PArgs) (t : Slice) (l : Fin 4) : Nat × Flags :=
    (formatOf o.t).deliver (rmFor t.fpctl o.rm) o.s
      (let a := intElem (WellFormed.convSrc o) t o.a l; .num (decide (a < 0)) a.natAbs 0 false)
  (∀ o s x, Issues (.fcvt o) s x →
    (Quiet x o.km (fcvt x.unit o) →
      exec (.fcvt o) s = .next (after s x (fun t => count o (lanesFlagged o.t o.d (actOf t o.km) (fcvt x.unit o t) t))))
    ∧ (¬Quiet x o.km (fcvt x.unit o) →
      exec (.fcvt o) s = .next (afterTrapIn (.fcvt o) s (x.unit.mapSlices x.js (count o)) x (class7 x o.km (fcvt x.unit o)))))
  ∧ (∀ p ∈ ([(.fcvti, fcvti), (.icvtf, icvtf)] : List ((PArgs → Instr) × (PArgs → Slice → Fin 4 → Nat × Flags))),
    ∀ o s x, Issues (p.1 o) s x →
      (Quiet x o.km (p.2 o) → exec (p.1 o) s = .next (after s x (fun t => lanesFlagged o.t o.d (actOf t o.km) (p.2 o t) t)))
      ∧ (¬Quiet x o.km (p.2 o) → exec (p.1 o) s = .next (afterTrap (p.1 o) s x (class7 x o.km (p.2 o)))))
  ∧ ∀ o s x, Issues (.bfpack o) s x →
    let w := o.sec.toNat
    let bexp : Int := ((x.low.getS o.b).setWidth 9).toInt
    let near (m : Nat) (e u : Int) : Nat :=
      if u ≤ e then m * 2 ^ (e - u).toNat
      else
        let k := (u - e).toNat
        m / 2 ^ k + (if 2 ^ k < 2 * (m % 2 ^ k) ∨ (2 * (m % 2 ^ k) = 2 ^ k ∧ m / 2 ^ k % 2 = 1) then 1 else 0)
    let mags (g : Nat) : List (Nat × Int) :=
      (x.slices.flatMap (fun t => (lanesOf (actOf t o.km)).filterMap (fun l =>
        if (4 * t.idx + l.val) / 16 = g then (match (formatOf o.t).decode (t.elem o.t o.a l) with
          | .num _ m e _ => if m = 0 then none else some (m, e)
          | _ => none) else none)))
    let chosen (ms : List (Nat × Int)) : Option Int :=
      match (ms.map (fun p => p.2 + ((Nat.log2 p.1 : Nat) : Int)) : List Int) with
      | [] => none
      | a :: as =>
        let e := as.foldl max a
        some (if ms.any (fun p => decide (2 ^ (w - 1) ≤ near p.1 p.2 (e - w + 2))) then e + 1 else e)
    let smallest : Int := match chosen (mags 0), chosen (mags 1) with
      | some a, some b => min a b
      | some a, none => a
      | none, some b => b
      | none, none => bexp
    let res (t : Slice) (l : Fin 4) : Nat × Flags :=
      let e := chosen (mags (t.idx / 4))
      let own := e.getD smallest
      let eg := max (bexp - 15) (min bexp own)
      let top : Nat := 2 ^ (w - 1) - 1
      let v := (formatOf o.t).decode (t.elem o.t o.a l)
      let q : Int := match v with
        | .num n m y _ => if n then -((min top (near m y (eg - w + 2)) : Nat) : Int) else ((min top (near m y (eg - w + 2)) : Nat) : Int)
        | .inf n => if n then -(top : Int) else (top : Int)
        | .nan _ => 0
      let fl := match v with
        | .num _ m _ _ => if m ≠ 0 ∧ q = 0 then Flags.bflush else 0
        | .inf _ => 0
        | .nan _ => Flags.nv
      ((e.getD (-256) % 2 ^ 9).toNat * 2 ^ 12 + (bexp - eg).toNat * 2 ^ 8 + (q % 2 ^ 8).toNat,
        (if bexp < own then Flags.satd else 0) ||| fl)
    (Quiet x o.km res → exec (.bfpack o) s = .next (after s x (fun t => lanesFlagged .n32 o.d (actOf t o.km) (res t) t)))
    ∧ (¬Quiet x o.km res → exec (.bfpack o) s = .next (afterTrap (.bfpack o) s x (class7 x o.km res)))

/-- The SFU (R25, R62, R87, R106, R305): each instruction empties vD and puts its active lanes' results on their way, or raises class 7; the
special operands and exceptions of the table in f32; NaNs; FEXP2 of the integers from -126 to 127 and FRCP of the powers of two from
2^-126 to 2^126 exactly. The other results of a finite operand are free within the bounds of R87: FRCP and FRSQ within one ulp of the
quotient and the root given here by inequalities, the others within theirs of values in fixed point with 320 fraction bits, computed to
within 2^-300 (DESIGN CHOICE, log entry 10), an ulp being the gap between the two f32 values nearest the exact one; FSIN and FCOS beyond
256 lie within [-1, 1]. FSQRT is correctly rounded and raises NX when inexact. In f16 and bf16 the operand is read exactly into f32 and the
f32 result rounded by RNE; S clamps an infinity with SATD (R106); FEXP2 raises OF and UF by its result in T, which is the model's reading. -/
def Obligations.SpecialFunctions : Prop :=
  (∀ p ∈ ([(.frcp, .rcp), (.frsq, .rsq), (.fsqrt, .sqrt), (.fexp2, .exp2), (.flog2, .log2), (.fsin, .sin), (.fcos, .cos), (.ftanh, .tanh),
      (.fsigm, .sigm), (.ferf, .erf)] : List ((PArgs → Instr) × Config.SfuFn)),
    ∀ o s x, Issues (p.1 o) s x →
      let res (t : Slice) (l : Fin 4) : Nat × Flags := sfuOp p.2 o.t o.s (t.elem o.t o.a l)
      (Quiet x o.km res → exec (p.1 o) s = .next (after s x (fun t =>
        { queueElems o.t o.d false false t ((lanesOf (actOf t o.km)).map (fun l => (l, (res t l).1))) with
          fpstat := t.fpstat ||| (flagsOf (actOf t o.km) (fun l => (res t l).2)).setWidth 32 })))
      ∧ (¬Quiet x o.km res → exec (p.1 o) s = .next (afterTrap (p.1 o) s x (class7 x o.km res))))
  ∧ (∀ p ∈ ([(.rcp, 0x00000000, 0x7F800000, 2), (.rcp, 0x80000000, 0xFF800000, 2), (.rcp, 0x7F800000, 0, 0), (.rcp, 0xFF800000, 0x80000000, 0),
        (.rsq, 0x00000000, 0x7F800000, 2), (.rsq, 0x80000000, 0xFF800000, 2), (.rsq, 0xBF800000, 0x7FC00000, 1), (.rsq, 0x7F800000, 0, 0),
        (.sqrt, 0x80000000, 0x80000000, 0), (.sqrt, 0xBF800000, 0x7FC00000, 1), (.sqrt, 0x7F800000, 0x7F800000, 0),
        (.sqrt, 0x40800000, 0x40000000, 0), (.sqrt, 0x40000000, 0x3FB504F3, 16),
        (.exp2, 0xFF800000, 0, 0), (.exp2, 0x7F800000, 0x7F800000, 0), (.exp2, 0x43000000, 0x7F800000, 4), (.exp2, 0xC3160000, 0, 8),
        (.log2, 0x00000000, 0xFF800000, 2), (.log2, 0x80000000, 0xFF800000, 2), (.log2, 0xBF800000, 0x7FC00000, 1),
        (.log2, 0x7F800000, 0x7F800000, 0), (.log2, 0x3F800000, 0, 0), (.sin, 0x80000000, 0x80000000, 0), (.sin, 0x7F800000, 0x7FC00000, 1),
        (.cos, 0x80000000, 0x3F800000, 0), (.cos, 0xFF800000, 0x7FC00000, 1), (.tanh, 0x80000000, 0x80000000, 0),
        (.tanh, 0xFF800000, 0xBF800000, 0), (.sigm, 0xFF800000, 0, 0), (.sigm, 0x7F800000, 0x3F800000, 0), (.sigm, 0x00000000, 0x3F000000, 0),
        (.erf, 0x80000000, 0x80000000, 0), (.erf, 0x7F800000, 0x3F800000, 0)] : List (Config.SfuFn × Nat × Nat × Flags)),
      sfuOp p.1 .f32 false p.2.1 = (p.2.2.1, p.2.2.2))
  ∧ (∀ fn sat a, (formatOf .f32).decode a = .nan false → sfuOp fn .f32 sat a = (0x7FC00000, 0))
  ∧ (∀ fn sat a, (formatOf .f32).decode a = .nan true → sfuOp fn .f32 sat a = (0x7FC00000, Flags.nv))
  ∧ (∀ k : Int, -126 ≤ k → k ≤ 127 → ∀ sat,
      sfuOp .exp2 .f32 sat ((formatOf .f32).deliver .rne false (Val.ofInt k)).1 = ((k + 127).toNat * 2 ^ 23, 0))
  ∧ (∀ e : Nat, 1 ≤ e → e ≤ 253 → ∀ sat, sfuOp .rcp .f32 sat (e * 2 ^ 23) = ((254 - e) * 2 ^ 23, 0))
  ∧ (
    let one : Nat := 2 ^ 320
    let ulp (v : Int) : Nat :=
      let b := if v = 0 then 0 else Nat.log2 v.natAbs + 1
      2 ^ max (if v.natAbs - 2 ^ (b - 1) < 2 ^ (b - 26) then b - 25 else b - 24) 171
    let near (fn : Config.SfuFn) (a : Nat) (v : Int) (tol : Nat) : Prop :=
      ∃ w, f32Fx (sfuOp fn .f32 false a).1 = some w ∧ (w - v).natAbs ≤ tol + 2 ^ 20
    ∀ (a : Nat) (n : Bool) (m : Nat) (e : Int), a < 2 ^ 32 → (formatOf .f32).decode a = .num n m e false → m ≠ 0 →
      let y := m * 2 ^ (e + 320).toNat
      let signed (v : Nat) : Int := if n then -(v : Int) else v
      (∃ v : Nat, v * m ≤ 2 ^ (320 - e).toNat ∧ 2 ^ (320 - e).toNat < (v + 1) * m ∧ (v < 2 ^ 448 → near .rcp a (signed v) (ulp v)))
      ∧ (n = false → ∃ v : Nat, v * v * m ≤ 2 ^ (640 - e).toNat ∧ 2 ^ (640 - e).toNat < (v + 1) * (v + 1) * m ∧ near .rsq a v (ulp v))
      ∧ ((if n then y ≤ 150 * one else y < 128 * one) → near .exp2 a (fxExp2 n m e) (2 * ulp (fxExp2 n m e)))
      ∧ (n = false → near .log2 a (fxLog2 m e) (if one ≤ 2 * y ∧ y ≤ 2 * one then 2 ^ 298 else 2 * ulp (fxLog2 m e)))
      ∧ (y ≤ 256 * one → near .sin a (if n then -fxSin y else fxSin y) (2 ^ 298) ∧ near .cos a (fxCos y) (2 ^ 298))
      ∧ (256 * one < y → ∀ fn ∈ [Config.SfuFn.sin, .cos], ∃ w, f32Fx (sfuOp fn .f32 false a).1 = some w ∧ w.natAbs ≤ one)
      ∧ near .tanh a (signed (fxTanh y)) (2 * ulp (fxTanh y))
      ∧ near .sigm a (fxSigm n y) (2 * ulp (fxSigm n y))
      ∧ near .erf a (signed (fxErf y)) (2 * ulp (fxErf y))
      ∧ (n = false → ∃ (r : Nat) (x : Int) (t : Bool), x % 2 = 0 ∧ x ≤ e ∧ 2 ^ 30 ≤ r
          ∧ r * r ≤ m * 2 ^ (e - x).toNat ∧ m * 2 ^ (e - x).toNat < (r + 1) * (r + 1) ∧ (t = true ↔ r * r ≠ m * 2 ^ (e - x).toNat)
          ∧ sfuOp .sqrt .f32 false a = (formatOf .f32).deliver .rne false (.num false r (x / 2) t))
  )
  ∧ (∀ ty ∈ [TCode.f16, .bf16], ∀ fn a b, a < 2 ^ (formatOf ty).width → b < 2 ^ 32 → isNan ((formatOf ty).decode a) = false →
      (formatOf .f32).deliver .rne false ((formatOf ty).decode a) = (b, 0) →
      let y := sfuOp fn .f32 false b
      let z := (formatOf ty).deliver .rne false ((formatOf .f32).decode y.1)
      let finite := match (formatOf ty).decode a with | .num _ _ _ _ => true | _ => false
      sfuOp fn ty false a = (z.1, (y.2 &&& (Flags.nv ||| Flags.dz))
        ||| (if fn = .sqrt then (y.2 ||| z.2) &&& Flags.nx else 0)
        ||| (if fn = .exp2 ∧ finite = true then (match (formatOf ty).decode z.1 with
              | .inf _ => Flags.of
              | .num _ m _ _ => if m = 0 then Flags.uf else 0
              | .nan _ => 0) else 0)))
  ∧ (∀ ty ∈ [TCode.f16, .bf16], ∀ fn sat sg a, (formatOf ty).decode a = .nan sg →
      sfuOp fn ty sat a = ((formatOf ty).qnan, if sg then Flags.nv else 0))
  ∧ ∀ ty ∈ [TCode.f32, .f16, .bf16], ∀ fn a,
      let y := sfuOp fn ty false a
      sfuOp fn ty true a = (match (formatOf ty).decode y.1 with
        | .inf n => ((if n then 2 ^ ((formatOf ty).width - 1) else 0) + (match ty with | .f32 => 0x7F7FFFFF | .f16 => 0x7BFF | _ => 0x7F7F),
            y.2 ||| Flags.satd)
        | _ => y)

/-- The frame of the vector instructions (R92, R94, R19): vD alone changes, its pair for a 64-bit T, in the active lanes alone (VCMPRS: in
every lane of the executing slices), with FPSTAT flags gained and FCVT.SR counted; FCMP writes kD and flags; the SFU empties vD until its
result arrives. -/
def Obligations.VectorFrame : Prop :=
  (∀ p ∈ [Instr.vadd, .vsub, .vmul, .vmulh, .vmad, .vand, .vor, .vxor, .vshl, .vshr, .vsra, .vmin, .vmax, .vabs, .vclz, .vpopc, .vsel, .fadd,
      .fsub, .fmul, .ffma, .fmin, .fmax, .fsgn, .fscale, .frint, .fcvt, .fcvti, .icvtf, .vshuf, .vbcast, .vexpnd, .vred, .vscan, .vcomb],
    ∀ o s x, NoEnables x → Issues (p o) s x → ∃ s', exec (p o) s = .next s'
      ∧ Frame s s' x (fun t t' => OnlyVector x.size o.d (widthOf o.t == 64) (p o == .fcvt o && o.rm == .sr) (actOf t o.km) t t'))
  ∧ (∀ p ∈ [Instr.fclass, .bfpack, .vconf], ∀ o s x, NoEnables x → Issues (p o) s x → ∃ s', exec (p o) s = .next s'
      ∧ Frame s s' x (fun t t' => OnlyVector x.size o.d false false (actOf t o.km) t t'))
  ∧ (∀ o s x, Issues (.vcmprs o) s x → ∃ s', exec (.vcmprs o) s = .next s'
      ∧ Frame s s' x (fun t t' => OnlyVector x.size o.d (widthOf o.t == 64) false 0xF t t'))
  ∧ (∀ o s x, Issues (.vmov o) s x → ∃ s', exec (.vmov o) s = .next s'
      ∧ Frame s s' x (fun t t' => OnlyVector x.size o.d (o.sec == 2) false (actOf t o.km) t t'))
  ∧ (∀ o s x, Issues (.vsplat o) s x → ∃ s', exec (.vsplat o) s = .next s'
      ∧ Frame s s' x (fun t t' => OnlyVector x.size o.d (o.sec.getLsbD 1) false (actOf t o.km) t t'))
  ∧ (∀ o s x, Issues (.vlane o) s x → ∃ s', exec (.vlane o) s = .next s'
      ∧ Frame s s' x (fun t t' => OnlyVector x.size o.d false false (actOf t o.km) t t'))
  ∧ (∀ o s x, NoEnables x → Issues (.fcmp o) s x → ∃ s', exec (.fcmp o) s = .next s'
      ∧ Frame s s' x (fun t t' => OnlyMask x.size o.d.toNat t { t' with fpstat := t.fpstat } ∧ t.fpstat &&& t'.fpstat = t.fpstat))
  ∧ ∀ p ∈ [Instr.frcp, .frsq, .fsqrt, .fexp2, .flog2, .fsin, .fcos, .ftanh, .fsigm, .ferf],
    ∀ o s x, NoEnables x → Issues (p o) s x → ∃ s', exec (p o) s = .next s' ∧ Frame s s' x (OnlyQueued x.size)

/-! ### Lanes -/

/-- Moves between lanes and registers (R110, R111, R114, R117): VSHUF and VBCAST read the active lane that an index names, 0 where none is
active; VCONF marks the lower active lanes with an equal element; VCMPRS writes every lane of the executing slices, VEXPND spreads;
VMOV, VSPLAT, VEXTR and VLANE. -/
def Obligations.LaneMoves : Prop :=
  let act (x : Issue) (km : Nat) : List (Slice × Fin 4) := x.slices.flatMap (fun t => (lanesOf (actOf t km)).map (fun l => (t, l)))
  let no (p : Slice × Fin 4) : Nat := 4 * p.1.idx + p.2.val
  (∀ o s x, Issues (.vshuf o) s x → exec (.vshuf o) s = .next (after s x (fun t =>
      lanesWritten o.t o.d (actOf t o.km) (fun l => laneElem x o.km o.t o.a (t.getV o.b l).toNat) t)))
  ∧ (∀ o s x, Issues (.vbcast o) s x → exec (.vbcast o) s = .next (after s x (fun t =>
      lanesWritten o.t o.d (actOf t o.km) (fun _ => laneElem x o.km o.t o.a ((t.getS o.b).setWidth 32).toNat) t)))
  ∧ (∀ o s x, Issues (.vconf o) s x → exec (.vconf o) s = .next (after s x (fun t =>
      lanesWritten .n32 o.d (actOf t o.km) (fun l =>
        ((act x o.km).filter (fun p => decide (no p < no (t, l)) && p.1.elem o.t o.a p.2 == t.elem o.t o.a l)).foldl
          (fun n p => n + 2 ^ no p) 0) t)))
  ∧ (∀ o s x, Issues (.vcmprs o) s x → exec (.vcmprs o) s = .next (after s x (fun t =>
      lanesWritten o.t o.d 0xF (fun l => match (act x o.km)[no (t, l)]? with | some p => p.1.elem o.t o.a p.2 | none => 0) t)))
  ∧ (∀ o s x, Issues (.vexpnd o) s x → exec (.vexpnd o) s = .next (after s x (fun t =>
      lanesWritten o.t o.d (actOf t o.km) (fun l =>
        let i := ((act x o.km).findIdx? (fun p => no p == no (t, l))).getD 0
        match x.slices.find? (fun y => y.idx == i / 4) with | some y => y.elem o.t o.a (Fin.ofNat 4 i) | none => 0) t)))
  ∧ (∀ o s x, Issues (.vmov o) s x → exec (.vmov o) s = .next (after s x (fun t =>
      (lanesOf (actOf t o.km)).foldl (fun t' l =>
        if o.sec = 2 then (t'.putV o.d l (t.getV o.a l)).putV (o.d + 1) l (t.getV (o.a + 1) l) else t'.putV o.d l (t.getV o.a l)) t)))
  ∧ (∀ o s x, Issues (.vsplat o) s x → exec (.vsplat o) s = .next (after s x (fun t =>
      let w : W64 := if o.xf.getLsbD 3 then
          (if o.sec.getLsbD 0 then o.imm.setWidth 64 <<< (if o.sec.getLsbD 1 then 48 else 16) else o.imm.signExtend 64)
        else t.getS o.a
      (lanesOf (actOf t o.km)).foldl (fun t' l =>
        if o.sec.getLsbD 1 then (t'.putV o.d l (w.extractLsb' 0 32)).putV (o.d + 1) l (w.extractLsb' 32 32)
        else t'.putV o.d l (w.extractLsb' 0 32)) t)))
  ∧ (∀ o s x, Issues (.vextr o) s x → exec (.vextr o) s = .next (after s x (fun t =>
      let i := if o.xf.getLsbD 3 then o.imm.toNat else ((t.getS o.b).setWidth 32).toNat
      t.putS o.d (if o.sec = 2 then BitVec.ofNat 64 (laneElem x o.km .n64 o.a i)
        else (BitVec.ofNat 32 (laneElem x o.km .n32 o.a i)).signExtend 64))))
  ∧ ∀ o s x, Issues (.vlane o) s x → exec (.vlane o) s = .next (after s x (fun t =>
      (lanesOf (actOf t o.km)).foldl (fun t' l => t'.putV o.d l (BitVec.ofNat 32 (4 * t.idx + l.val))) t))

/-- VRED, VSCAN and VCOMB (R108 to R111) over the pairwise tree of lane positions 0 to 31: the root over the active lanes; the root over the
positions up to a lane, or below it, the identity where there is none; the tree over the lanes of one key in the lowest of them, the
identity in the others. A node computes ADD, MIN, MAX, AND, OR or XOR of its left and right values: an integer ADD wraps, or clamps with
SATD under S, MIN and MAX go by the type's sign; a float ADD is the exact sum rounded once under RM and flushed under FTZ, MIN and MAX as
FMIN and FMAX (R108, R110). A float leaf is read with FTZ, and a NaN as the canonical one, with NV where it signals (R62), also where a lone
child is passed on, which R108 says goes on unchanged (DEDUCED, log entry 25). Flags of every
leaf and node go to each executing slice, and class 7 is raised under the lowest slice's FPCTL for a float type, with nothing
written; that its record names every active lane is the model's choice (log entry 19). -/
def Obligations.TreeInstructions : Prop :=
  let leaf (o : PArgs) (x : Issue) (r : Reg) (keep : Nat → Bool) (i : Nat) : Option Node :=
    if i < 32 ∧ keep i = true then
      ((groupLanes x.slices o.km).find? (fun p => laneNo p.1 p.2 == i)).map (fun p =>
        let e := if WellFormed.floatT o.t then (formatOf o.t).flushIn (x.low.fpctl.getLsbD 3) (p.1.elem o.t r p.2) else p.1.elem o.t r p.2
        if WellFormed.floatT o.t ∧ isNan ((formatOf o.t).decode e) = true then
          ((formatOf o.t).qnan, if sigOf ((formatOf o.t).decode e) then Flags.nv else 0)
        else (e, 0))
    else none
  let node (o : PArgs) (ctl : W32) (a b : Node) : Node :=
    let f := formatOf o.t
    let op := o.sec.toNat % 16
    let r : Nat × Flags :=
      if WellFormed.floatT o.t then
        match op with
        | 0 => f.flushOut (ctl.getLsbD 3) (f.deliver (rmFor ctl o.rm) false (Val.add (rmFor ctl o.rm) (f.decode a.1) (f.decode b.1)))
        | 1 => fminmax f false a.1 b.1
        | _ => fminmax f true a.1 b.1
      else
        let n := widthOf o.t
        let value (k : Nat) : Int := if signedT o.t then (BitVec.ofNat n k).toInt else (k % 2 ^ n : Nat)
        let lo : Int := if signedT o.t then -2 ^ (n - 1) else 0
        let hi : Int := if signedT o.t then 2 ^ (n - 1) - 1 else 2 ^ n - 1
        let z := value a.1 + value b.1
        let bits (k : Int) : Nat := (k % 2 ^ n).toNat
        match op with
        | 0 => (bits (if o.s then max lo (min hi z) else z), if o.s = true ∧ (z < lo ∨ hi < z) then Flags.satd else 0)
        | 1 => (bits (min (value a.1) (value b.1)), 0)
        | 2 => (bits (max (value a.1) (value b.1)), 0)
        | 3 => (a.1 &&& b.1, 0)
        | 4 => (a.1 ||| b.1, 0)
        | _ => (a.1 ^^^ b.1, 0)
    (r.1, r.2 ||| a.2 ||| b.2)
  let root (o : PArgs) (x : Issue) (r : Reg) (keep : Nat → Bool) : Option Node :=
    treeValue (node o x.low.fpctl) (leaf o x r keep) 5 0
  let identity (o : PArgs) : Nat :=
    let n := widthOf o.t
    match o.sec.toNat % 16 with
    | 1 => if WellFormed.floatT o.t then (formatOf o.t).infBits false else if signedT o.t then 2 ^ (n - 1) - 1 else 2 ^ n - 1
    | 2 => if WellFormed.floatT o.t then (formatOf o.t).infBits true else if signedT o.t then 2 ^ (n - 1) else 0
    | 3 => 2 ^ n - 1
    | _ => 0
  let key (o : PArgs) (x : Issue) (i : Nat) : Nat := laneElem x o.km o.t o.a i
  let active (o : PArgs) (x : Issue) (i : Nat) : Bool := (groupLanes x.slices o.km).any (fun p => laneNo p.1 p.2 == i)
  let rows : List ((PArgs → Instr) × (PArgs → Reg) × (PArgs → Issue → Nat → Node)) :=
    [(.vred, fun o => o.a, fun o x _ => (root o x o.a (fun _ => true)).getD (0, 0)),
     (.vscan, fun o => o.a, fun o x n => (root o x o.a (fun i => if o.sec.getLsbD 4 then decide (i < n) else decide (i ≤ n))).getD (identity o, 0)),
     (.vcomb, fun o => o.b, fun o x n =>
        if (List.range n).any (fun i => decide (i < 32) && active o x i && key o x i == key o x n) then (identity o, 0)
        else (root o x o.b (fun i => key o x i == key o x n)).getD (identity o, 0))]
  ∀ p ∈ rows, ∀ o s x, WellFormed.fieldsOk (p.1 o) = true → Issues (p.1 o) s x →
    let raised : List Flags := (groupLanes x.slices o.km).map (fun q => (p.2.2 o x (laneNo q.1 q.2)).2)
      ++ (List.range 32).map (fun i => ((leaf o x (p.2.1 o) (fun _ => true) i).map (fun q => q.2)).getD 0)
    let fl := raised.foldl (fun m f => m ||| f) (0 : Flags)
    let hit := if WellFormed.floatT o.t then x.low.fpctl.extractLsb' 4 5 &&& fl.setWidth 5 else 0
    let lanes := gangView x.slices (fun t => actOf t o.km)
    (hit = 0 → exec (p.1 o) s = .next (after s x (fun t =>
      { lanesWritten o.t o.d (actOf t o.km) (fun l => (p.2.2 o x (laneNo t l)).1) t with fpstat := t.fpstat ||| fl.setWidth 32 })))
    ∧ (hit ≠ 0 → exec (p.1 o) s = .next (afterTrap (p.1 o) s x { cls := 7, sub := hit.toNat, replay := lanes, faulted := lanes }))

/-- XV and its companions (R122, R124 to R131). While an XV of the group is in flight, or a register that a descriptor selects is empty, XV
does not issue; with no active lane it does nothing. Otherwise each active lane takes the cause that comes first, or its own operation;
an enabled exception of a lane without a fault raises class 7 with nothing done; the lanes without a fault commit their stacks, elements and
flags; and where a lane faults, class 1 is raised beside what committed. Causes come in the order of R126 from the codes, types and
arities that R123's table lists: reserved (5), illegal (1), privileged (2), a reserved selector (5), underflow (3), overflow (4). What
the lane codes compute is stated by type, from the operands that the selectors name (R121): integers exact, wrapped or clamped; floats
by one rounding, S clamping an infinity that passed; the SFU codes as their instructions; the stack codes and the stack behind a code
(R122). E0 to E2 read free values and E3 the allowance (R124, log entry 5). NV for an unselected signalling NaN of sel, and the
canonical NaN of mov, neg, abs and csgn, are the model's reading (DEDUCED, log entry 25). The companions push, pop, read, count and clear. -/
def Obligations.ExecuteVector : Prop :=
  let code (d : W32) : Nat := (d.extractLsb' 24 8).toNat
  let sels (d : W32) : List Nat := [(d.extractLsb' 18 6).toNat, (d.extractLsb' 12 6).toNat, (d.extractLsb' 6 6).toNat]
  let mode (d : W32) : Nat := (d.extractLsb' 4 2).toNat
  let ofT (o : PArgs) : TCode := if o.t = .f16 then .f16 else if o.t = .i32 then .i32 else .f32
  -- code, whether a float type accepts it, whether i32 does, arity
  let table : List (Nat × Bool × Bool × Nat) :=
    [0x00, 0x01, 0x02, 0x04, 0x05, 0x10, 0x11, 0x12, 0x13, 0x14, 0x15, 0x16].map (fun c => (c, true, true, 2))
      ++ [0x03, 0x08, 0x09, 0x0B, 0x0C].map (fun c => (c, true, true, 3)) ++ [0x06, 0x07, 0x0A].map (fun c => (c, true, true, 1))
      ++ [0x20, 0x21, 0x22, 0x23, 0x24, 0x25, 0x26, 0x27, 0x28, 0x29, 0x2A].map (fun c => (c, true, false, 1)) ++ [(0x2B, true, false, 2)]
      ++ [0x30, 0x31, 0x32, 0x33, 0x34, 0x35, 0x39, 0x3A, 0x3B].map (fun c => (c, false, true, 2))
      ++ [0x36, 0x37, 0x38].map (fun c => (c, false, true, 1)) ++ [0x50, 0x51, 0x52, 0x53].map (fun c => (c, true, true, 0))
  let arity (d : W32) : Nat := ((table.find? (fun r => r.1 == code d)).map (fun r => r.2.2.2)).getD 0
  let reads (d : W32) : List Nat :=
    ((((sels d).take (arity d)).filter (fun k => decide (48 ≤ k ∧ k < 56))).map (fun k => k - 48)).eraseDups
  let causeOf (levelS int : Bool) (d : W32) (depth : Nat) : Nat :=
    let push := if mode d = 1 ∨ mode d = 2 then 1 else 0
    if mode d = 3 ∨ d.extractLsb' 0 4 ≠ 0 then 5
    else if 0xE0 ≤ code d ∧ code d ≤ 0xEF then
      if levelS = false then 2 else if 0xE3 < code d then 1 else if sels d ≠ [56, 56, 56] then 5 else if 8 < depth + push then 4 else 0
    else if table.all (fun r => r.1 != code d || !(if int then r.2.2.1 else r.2.1)) then 1
    else if ((sels d).take (arity d)).any (fun k => decide (60 < k ∨ (int = true ∧ k = 59))) ∨ ((sels d).drop (arity d)).any (fun k => k != 56) then 5
    else if 0x50 ≤ code d ∧ code d ≤ 0x53 then
      if mode d ≠ 0 then 5
      else if depth < (if code d = 0x50 ∨ code d = 0x52 then 1 else 2) then 3
      else if (code d = 0x50 ∨ code d = 0x53) ∧ depth = 8 then 4 else 0
    else if (reads d).any (fun k => decide (depth ≤ k)) then 3
    else if 8 < depth - (reads d).length + push then 4 else 0
  let cause (o : PArgs) (x : Issue) (t : Slice) (l : Fin 4) : Nat := causeOf x.unit.isS (ofT o == .i32) (t.getV o.a l) (t.stack l).length
  let lane (o : PArgs) (s : State) (x : Issue) (t : Slice) (l : Fin 4) : XvLane := xvLane s x.unit.id.core o t l (t.getV o.a l)
  let flags (o : PArgs) (s : State) (x : Issue) (t : Slice) (l : Fin 4) : Nat × Flags :=
    (0, if cause o x t l = 0 then (lane o s x t l).flags else 0)
  let faults (x : Issue) (km : Nat) (c : Slice → Fin 4 → Nat) : Prop := ∃ t ∈ x.slices, ∃ l ∈ lanesOf (actOf t km), c t l ≠ 0
  let commit (o : PArgs) (s : State) (x : Issue) (t : Slice) : Slice :=
    xvCommit o (((lanesOf (actOf t o.km)).filter (fun l => cause o x t l == 0)).map (fun l => (l, lane o s x t l))) t
  let trap (x : Issue) (km : Nat) (c : Slice → Fin 4 → Nat) : Trap := laneTrap (laneCauses x.slices km c)
  let counted (s : State) (x : Issue) : State := if x.unit.isS then { s with nonce := s.nonce + 2 } else s
  -- the bits of an operand by its selector
  let opd (ty : TCode) (t : Slice) (l : Fin 4) (k : Nat) : Nat :=
    let int (n : Int) : Nat := if ty = .i32 then (n % 2 ^ 32).toNat else ((formatOf ty).deliver .rne false (Val.ofInt n)).1
    if k < 48 then t.elem ty (BitVec.ofNat 6 k) l
    else if k < 56 then ((t.stack l).getD (k - 48) 0).toNat % 2 ^ widthOf ty
    else match k with
      | 57 => int 1 | 58 => int (-1) | 59 => ((formatOf ty).deliver .rne false (.num false 1 (-1) false)).1
      | 60 => int (4 * t.idx + l.val : Nat) | _ => 0
  let sel (d : W32) (n : Nat) : Nat := (sels d).getD n 0
  let ints : List (Nat × Bool × (W32 → W32 → W32 → Int)) :=
    [(0x00, true, fun a b _ => a.toInt + b.toInt), (0x01, true, fun a b _ => a.toInt - b.toInt), (0x02, true, fun a b _ => a.toInt * b.toInt),
     (0x03, true, fun a b c => a.toInt * b.toInt + c.toInt), (0x04, false, fun a b _ => min a.toInt b.toInt),
     (0x05, false, fun a b _ => max a.toInt b.toInt), (0x06, true, fun a _ _ => -a.toInt), (0x07, true, fun a _ _ => max a.toInt (-a.toInt)),
     (0x08, false, fun a b c => if c = 0 then b.toInt else a.toInt), (0x09, false, fun a b c => min (max a.toInt b.toInt) c.toInt),
     (0x0A, false, fun a _ _ => a.toInt), (0x0B, true, fun a b c => c.toInt - a.toInt * b.toInt),
     (0x0C, true, fun a b c => a.toInt + c.toInt * (b.toInt - a.toInt)), (0x10, false, fun a b _ => if a = b then 1 else 0),
     (0x11, false, fun a b _ => if a = b then 0 else 1), (0x12, false, fun a b _ => if a.toInt < b.toInt then 1 else 0),
     (0x13, false, fun a b _ => if a.toInt ≤ b.toInt then 1 else 0), (0x14, false, fun a b _ => if b.toInt < a.toInt then 1 else 0),
     (0x15, false, fun a b _ => if b.toInt ≤ a.toInt then 1 else 0), (0x16, false, fun _ _ _ => 0),
     (0x30, false, fun a b _ => (a &&& b).toInt), (0x31, false, fun a b _ => (a ||| b).toInt), (0x32, false, fun a b _ => (a ^^^ b).toInt),
     (0x33, false, fun a b _ => (a <<< (b.toNat % 32)).toInt), (0x34, false, fun a b _ => (a >>> (b.toNat % 32)).toInt),
     (0x35, false, fun a b _ => (a.sshiftRight (b.toNat % 32)).toInt), (0x36, false, fun a _ _ => (~~~a).toInt),
     (0x37, false, fun a _ _ => (((List.range 32).filter (fun i => decide (a.toNat < 2 ^ i))).length : Nat)),
     (0x38, false, fun a _ _ => (((List.range 32).filter (fun i => a.getLsbD i)).length : Nat)),
     (0x39, false, fun a b _ => a.toInt * b.toInt / 2 ^ 32), (0x3A, false, fun a b _ => (a.rotateLeft (b.toNat % 32)).toInt),
     (0x3B, false, fun a b _ => (a.rotateRight (b.toNat % 32)).toInt)]
  let floats (fm : Format) (rm : Rm) (sat ftz : Bool) : List (Nat × (Nat → Nat → Nat → Nat × Flags)) :=
    let v (a : Nat) : Val := fm.decode a
    let out (y : Val) : Nat × Flags := fm.flushOut ftz (fm.deliver rm sat y)
    let one : Nat := (fm.deliver .rne false (Val.ofInt 1)).1
    let nv (p : Bool) : Flags := if p then Flags.nv else 0
    let passed (r : Nat × Flags) : Nat × Flags :=
      match v r.1 with | .inf n => if sat then (fm.signBit n + fm.maxFinite, r.2 ||| Flags.satd) else r | _ => r
    let signed (a : Nat) (minus : Bool) (fl : Flags) : Nat × Flags :=
      (if isNan (v a) then fm.qnan else a % 2 ^ (fm.width - 1) + (if minus then 2 ^ (fm.width - 1) else 0), fl)
    let cmp (quiet : Bool) (a b : Nat) (test : Option Bool → Bool) (un : Bool) : Nat × Flags :=
      let nan := isNan (v a) || isNan (v b)
      (if (if nan then un else test ((v a).less (v b))) then one else 0, nv (sigOf (v a) || sigOf (v b) || (nan && !quiet)))
    [(0x00, fun a b _ => out (Val.add rm (v a) (v b))), (0x01, fun a b _ => out (Val.add rm (v a) (v b).neg)),
     (0x02, fun a b _ => out (Val.mul (v a) (v b))), (0x03, fun a b c => out (Val.fma rm (v a) (v b) (v c))),
     (0x04, fun a b _ => passed (fminmax fm false a b)), (0x05, fun a b _ => passed (fminmax fm true a b)),
     (0x06, fun a _ _ => signed a (!a.testBit (fm.width - 1)) (nv (sigOf (v a)))), (0x07, fun a _ _ => signed a false (nv (sigOf (v a)))),
     (0x08, fun a b c =>
        let zero := match v c with | .num _ m _ _ => m == 0 | .inf _ => false | .nan _ => true
        let r := out (if zero then v b else v a)
        (r.1, r.2 ||| nv (sigOf (v a) || sigOf (v b) || sigOf (v c)))),
     (0x09, fun a b c =>
        let p := fminmax fm true a b
        let q := fminmax fm false p.1 c
        passed (q.1, p.2 ||| q.2)),
     (0x0A, fun a _ _ => out (v a)), (0x0B, fun a b c => out (Val.add rm (v c) (Val.mul (v a) (v b)).neg)),
     (0x0C, fun a b c => out (Val.add rm (v a) (Val.mul (v c) (Val.add rm (v b) (v a).neg)))),
     (0x10, fun a b _ => cmp true a b (fun o => o == none) false), (0x11, fun a b _ => cmp true a b (fun o => o != none) true),
     (0x12, fun a b _ => cmp false a b (fun o => o == some true) false), (0x13, fun a b _ => cmp false a b (fun o => o != some false) false),
     (0x14, fun a b _ => cmp false a b (fun o => o == some false) false), (0x15, fun a b _ => cmp false a b (fun o => o != some true) false),
     (0x16, fun a b _ => cmp true a b (fun _ => false) true),
     (0x2A, fun a _ _ => passed (match v a with
        | .num n m e st =>
          let r := roundInt rm n m e st
          (if r.1 = 0 then (if n then 2 ^ (fm.width - 1) else 0) else (fm.deliver rm false (.num n r.1.natAbs 0 false)).1, if r.2 then Flags.nx else 0)
        | y => fm.deliver rm false y)),
     (0x2B, fun a b _ => passed (signed a (b.testBit (fm.width - 1)) (nv (sigOf (v a) || sigOf (v b)))))]
  let sfus : List (Nat × Config.SfuFn) := [(0x20, .rcp), (0x21, .rsq), (0x22, .sqrt), (0x23, .exp2), (0x24, .log2), (0x25, .sin), (0x26, .cos),
    (0x27, .tanh), (0x28, .sigm), (0x29, .erf)]
  -- what a code that is no stack code leaves, with result y: the positions read are gone, MODE pushes y and writes it
  let leaves (z : XvLane) (d : W32) (st : List W32) (y : Nat × Flags) : Prop :=
    let rest := ((List.range st.length).filter (fun k => !(reads d).contains k)).map (fun k => st.getD k 0)
    z.stack = (if mode d = 1 ∨ mode d = 2 then BitVec.ofNat 32 y.1 :: rest else rest)
      ∧ z.elem = (if mode d = 0 ∨ mode d = 2 then some y.1 else none) ∧ z.flags = y.2
  (∀ o s x, Issues (.xv o) s x →
    (xvBusy x.slices = true → exec (.xv o) s = .next s)
    ∧ (xvBusy x.slices = false → groupLanes x.slices o.km = [] → exec (.xv o) s = .next (after s x id))
    ∧ (xvBusy x.slices = false → groupLanes x.slices o.km ≠ [] →
      ((xvRegs o x.slices).any (fun r => x.slices.any (fun t => !t.fullV r false)) = true → exec (.xv o) s = .next s)
      ∧ ((xvRegs o x.slices).all (fun r => x.slices.all (fun t => t.fullV r false)) = true →
        (¬Quiet x o.km (flags o s x) → exec (.xv o) s = .next (afterTrap (.xv o) s x (class7 x o.km (flags o s x))))
        ∧ (Quiet x o.km (flags o s x) →
          (¬faults x o.km (cause o x) → exec (.xv o) s = .next (after (counted s x) x (commit o s x)))
          ∧ (faults x o.km (cause o x) → exec (.xv o) s
            = .next (afterTrapIn (.xv o) (counted s x) (x.unit.mapSlices x.js (commit o s x)) x (trap x o.km (cause o x))))))))
  ∧ (∀ r ∈ ints, ∀ s core o t l d, ofT o = .i32 → code d = r.1 →
      let opnd (n : Nat) : W32 := BitVec.ofNat 32 (opd .i32 t l (sel d n))
      let y := r.2.2 (opnd 0) (opnd 1) (opnd 2)
      let z := if o.s = true ∧ r.2.1 = true then max (-2 ^ 31) (min (2 ^ 31 - 1) y) else y
      leaves (xvLane s core o t l d) d (t.stack l) ((z % 2 ^ 32).toNat, if z = y then 0 else Flags.satd))
  ∧ (∀ s core o t l d, ofT o ≠ .i32 →
      let fm := formatOf (ofT o)
      let opnd (n : Nat) : Nat := fm.flushIn (t.fpctl.getLsbD 3) (opd (ofT o) t l (sel d n))
      (∀ r ∈ floats fm (rmFor t.fpctl o.rm) o.s (t.fpctl.getLsbD 3), code d = r.1 →
        leaves (xvLane s core o t l d) d (t.stack l) (r.2 (opnd 0) (opnd 1) (opnd 2)))
      ∧ ∀ r ∈ sfus, code d = r.1 → leaves (xvLane s core o t l d) d (t.stack l) (sfuOp r.2 (ofT o) o.s (opd (ofT o) t l (sel d 0))))
  ∧ (∀ s core o t l d, 0x50 ≤ code d → code d ≤ 0x53 → causeOf false (ofT o == .i32) d (t.stack l).length = 0 →
      let st := t.stack l
      xvLane s core o t l d = { stack := match code d with
                                  | 0x50 => st.getD 0 0 :: st | 0x51 => st.getD 1 0 :: st.getD 0 0 :: st.drop 2 | 0x52 => st.drop 1
                                  | _ => st.getD 1 0 :: st
                                elem := none, flags := 0 })
  ∧ (∀ s core o t l d, code d = 0xE3 →
      let a := s.allowance.getD (core / 128) 0
      leaves (xvLane s core o t l d) d (t.stack l) (if a < 0 then 0 else min a.toNat (2 ^ 32 - 1), 0))
  ∧ ∀ p ∈ ([(.xpush, fun _ st => if st.length < 8 then 0 else 4, fun o t l t' => t'.putStack l (t.getV o.a l :: t.stack l)),
      (.xpop, fun _ st => if st = [] then 3 else 0, fun o t l t' => (t'.putV o.d l ((t.stack l).headD 0)).putStack l (t.stack l).tail),
      (.xpeek, fun o st => if o.b.toNat < st.length then 0 else 3, fun o t l t' => t'.putV o.d l ((t.stack l).getD o.b.toNat 0)),
      (.xdepth, fun _ _ => 0, fun o t l t' => t'.putV o.d l (BitVec.ofNat 32 (t.stack l).length)),
      (.xclr, fun _ _ => 0, fun _ _ l t' => t'.putStack l [])] :
      List ((WArgs → Instr) × (WArgs → List W32 → Nat) × (WArgs → Slice → Fin 4 → Slice → Slice))),
    ∀ o s x, Issues (p.1 o) s x → xvBusy x.slices = false →
      let c (t : Slice) (l : Fin 4) : Nat := p.2.1 o (t.stack l)
      let F (t : Slice) : Slice := ((lanesOf (actOf t o.km)).filter (fun l => c t l == 0)).foldl (fun t' l => p.2.2 o t l t') t
      (¬faults x o.km c → exec (p.1 o) s = .next (after s x F))
      ∧ (faults x o.km c → exec (p.1 o) s = .next (afterTrapIn (p.1 o) s (x.unit.mapSlices x.js F) x (trap x o.km c)))

/-! ### Matrix instructions -/

/-- The settings of matrix work (R31, R142, R147, R149): TCFG writes the control word of a full tile at issue, with BEXP of the lowest
slice's sA for the bfp formats and 0 for bf16 and f16, and waits for an empty tile; MSPAN sets the span where the footprint has the
cores, and is class 13, cause 5, where it has not; TBITS sets the bitmap source of operand A or B. Nothing else changes. -/
def Obligations.MatrixSettings : Prop :=
  (∀ o s x, WellFormed.fieldsOk (.tcfg o) = true → Issues (.tcfg o) s x →
    let c := s.coreAt x.unit.id.core
    (c.fullT o.d.toNat = false → exec (.tcfg o) s = .next s)
    ∧ (c.fullT o.d.toNat = true → exec (.tcfg o) s = .next (after (s.setCore (c.putCtl o.d.toNat
        (0#5 ++ (if o.sec.toNat < 2 then 0#9 else (x.low.getS o.a).extractLsb' 0 9) ++ o.imm.extractLsb' 2 7 ++ o.imm.extractLsb' 9 7
          ++ o.sec.extractLsb' 0 4))) x id)))
  ∧ (∀ o s x, Issues (.mspan o) s x →
    let m := (o.imm.extractLsb' 13 3).toNat + 1
    let n := (o.imm.extractLsb' 10 3).toNat + 1
    let base := (o.imm.extractLsb' 0 7).toNat
    let cores := ((s.team? x.unit.team).map (fun t => t.cores.length)).getD 1
    (base + m * n ≤ cores → exec (.mspan o) s = .next (after s x (fun t => { t with span := .grid m n base })))
    ∧ (cores < base + m * n → exec (.mspan o) s = .next (afterTrap (.mspan o) s x { cls := 13, sub := 5, ecause := 5 })))
  ∧ (∀ o s x, Issues (.mspanSelf o) s x → exec (.mspanSelf o) s = .next (after s x (fun t => { t with span := .self })))
  ∧ ∀ p ∈ ([(.tbitsNone, fun _ _ => .none), (.tbitsSeed, fun o t => .seed (t.getS o.a) (t.getS o.b) o.imm),
        (.tbitsTile, fun o _ => .tile o.d.toNat)] : List ((WArgs → Instr) × (WArgs → Slice → Bitmap))),
    ∀ o s x, Issues (p.1 o) s x → exec (p.1 o) s = .next (after s x (fun t =>
      if o.sec.getLsbD 0 then { t with bitsB := p.2 o x.low } else { t with bitsA := p.2 o x.low }))

/-- Matrix commands (R30, R136 to R139, R143 to R150). A rule of the operands that is broken is class 13 with the first of its causes:
an unconfigured tile (1), shapes that do not meet or a bitmap tile too small (2), a float beside a bfp tile (3), an MLOOP of one pair
(4) or with a bitmap tile in its pairs (6); then alignment to 64 bytes, or to the element, is class 5, and the translation of every
address, and an end beyond the scratchpad, the trap that `matrixOffset` names. Then tiles and accumulators that are not full, a full
harrow queue or counter hold the instruction back; poison in what it reads is class 14; room in the log is made for all that it will
store, or class 12 raised, or it waits (R355). Else the command is queued on the cores of its span, the registers that it produces are
emptied, MATRIX counts it once, TZERO apart, and the group goes on. MLOOP's steps lie at fixed distances from the offset of the first
(R146). Which of several failing operands or steps is reported is the model's choice: A's before B's, earlier before later (log
entry 24). -/
def Obligations.MatrixCommands : Prop :=
  let rows (c : W32) : Nat := (c.extractLsb' 4 7).toNat
  let cols (c : W32) : Nat := (c.extractLsb' 11 7).toNat
  let float (c : W32) : Bool := decide ((c.extractLsb' 0 4).toNat < 2)
  let set (c : W32) : Bool := decide (0 < rows c ∧ 0 < cols c)
  let bytes (c : W32) : Nat := if float c then 2 * (rows c * cols c) else rows c * cols c + ((rows c * cols c + 15) / 16 + 1) / 2
  let cause (c : Core) (ta tb : Nat) (bits : List Nat) (k : Nat) (loop : Bool) : Option Nat :=
    let a := c.ctl ta
    let b := c.ctl tb
    ((([(1, !set a || !set b || bits.any (fun t => !set (c.ctl t))),
      (2, decide (cols a ≠ rows b ∨ cols a % 16 ≠ 0 ∨ 32 < cols b) || bits.any (fun t => decide (8 * bytes (c.ctl t) < k))),
      (3, float a != float b),
      (4, loop && decide (tb = ta ∨ tb = ta ^^^ 2)),
      (6, loop && bits.any (fun t => decide (t = ta ∨ t = tb ∨ t = ta ^^^ 2 ∨ t = tb ^^^ 2)))] : List (Nat × Bool)).find? (fun p => p.2)).map
      (fun p => p.1))
  let ready (s : State) (x : Issue) (cores tiles accs : List Nat) (counted : Bool) : Bool :=
    cores.all (fun n => tiles.all (s.coreAt n).fullT && accs.all (s.coreAt n).fullA && decide ((s.coreAt n).harrow.length < 4))
      && (!counted || decide (x.unit.count 1 < 255))
  let sound (s : State) (cores tiles accs : List Nat) : Bool :=
    cores.all (fun n => tiles.all (fun t => !(s.coreAt n).lostT t) && accs.all (fun a => !(s.coreAt n).lostA a))
  let queued (s : State) (x : Issue) (u : Machine.Unit) (cores emptyT emptyA : List Nat) (counted : Bool) (op : HarrowOp)
      (prep : Core → Core) : State :=
    let cmd : HarrowCommand :=
      { unit := x.unit.id, op := op, step := 0, blk := 0, win := u.winno, retireId := if counted then some s.nextId else none
        satSlice := x.low.idx, pc := x.pc, room := harrowEntries op, withheld := none }
    after (mapCores { s with nextId := s.nextId + 1 } cores (fun c =>
        let c := emptyA.foldl Core.emptyA (emptyT.foldl Core.emptyT (prep c))
        { c with harrow := c.harrow ++ [cmd] }))
      { x with unit := if counted then addOp u 1 s.nextId cores.length false else u } id
  let stores (i : Instr) (s s' : State) (x : Issue) (cores : List Nat) (op : HarrowOp) : Prop :=
    if cores.length * harrowEntries op = 0 then exec i s = .next (queued s' x x.unit cores [] [] true op id)
    else match makeRoom s' x.unit (cores.length * harrowEntries op) with
      | .room r => exec i s = .next (queued r x (refresh r x.unit) cores [] [] true op id)
      | .trap => exec i s = .next (afterTrap i s x { cls := 12, sub := 0 })
      | .abort => exec i s = .next (afterAbort s x 7)
      | .wait => exec i s = .next s
  (∀ p ∈ ([(.tld, true), (.tst, false)] : List ((WArgs → Instr) × Bool)), ∀ o s x, Issues (p.1 o) s x →
    let t := o.d.toNat
    let core := x.unit.id.core
    let ctl := (s.coreAt core).ctl t
    let va := x.low.getS o.a + o.imm.signExtend 64
    let acc : Access := if p.2 then .read else .write
    (set ctl = false → exec (p.1 o) s = .next (afterTrap (p.1 o) s x { cls := 13, sub := 1, ecause := 1 }))
    ∧ (set ctl = true → va.toNat % 64 ≠ 0 → exec (p.1 o) s = .next (afterTrap (p.1 o) s x { cls := 5, sub := 0, addr := va }))
    ∧ (set ctl = true → va.toNat % 64 = 0 →
      (∀ e, matrixOffset s x.unit acc va (bytes ctl) = .error e → exec (p.1 o) s = .next (afterTrap (p.1 o) s x e))
      ∧ ∀ off, matrixOffset s x.unit acc va (bytes ctl) = .ok off →
        let s' := tlbAfter s x.unit [va]
        let good := if p.2 then !poisoned s (scratchPa core off) (bytes ctl) else sound s [core] [t] []
        (ready s x [core] [t] [] true = false → exec (p.1 o) s = .next s)
        ∧ (ready s x [core] [t] [] true = true → good = false → exec (p.1 o) s = .next (afterTrap (p.1 o) s x { cls := 14, sub := 1 }))
        ∧ (ready s x [core] [t] [] true = true → good = true →
          (p.2 = true → exec (p.1 o) s = .next (queued s' x x.unit [core] [t] [] true (.tld t off ctl) id))
          ∧ (p.2 = false → stores (p.1 o) s s' x [core] (.tst t off va ctl)))))
  ∧ (∀ o s x, Issues (.tzero o) s x →
    let cores := spanCores s x.unit x.low.span
    (ready s x cores [] [o.d.toNat] false = false → exec (.tzero o) s = .next s)
    ∧ (ready s x cores [] [o.d.toNat] false = true →
      exec (.tzero o) s = .next (queued s x x.unit cores [] [o.d.toNat] false (.tzero o.d.toNat) id)))
  ∧ (∀ o s x, Issues (.mma o) s x →
    let core := x.unit.id.core
    let c := s.coreAt core
    let ta := o.a.toNat
    let tb := o.b.toNat
    let bits := bitmapTiles x.low.bitsA ++ bitmapTiles x.low.bitsB
    (∀ n, cause c ta tb bits (cols (c.ctl ta)) false = some n →
      exec (.mma o) s = .next (afterTrap (.mma o) s x { cls := 13, sub := n, ecause := BitVec.ofNat 8 n }))
    ∧ (cause c ta tb bits (cols (c.ctl ta)) false = none →
      (ready s x [core] ([ta, tb] ++ bits) [o.d.toNat] true = false → exec (.mma o) s = .next s)
      ∧ (ready s x [core] ([ta, tb] ++ bits) [o.d.toNat] true = true →
        (sound s [core] ([ta, tb] ++ bits) [o.d.toNat] = false → exec (.mma o) s = .next (afterTrap (.mma o) s x { cls := 14, sub := 1 }))
        ∧ (sound s [core] ([ta, tb] ++ bits) [o.d.toNat] = true →
          exec (.mma o) s = .next (queued s x x.unit [core] [] [o.d.toNat] true
            (.mma o.d.toNat ta tb (c.ctl ta) (c.ctl tb) x.low.bitsA x.low.bitsB) id)))))
  ∧ (∀ o s x, Issues (.mloop o) s x →
    let c := s.coreAt x.unit.id.core
    let ta := o.d.toNat / 8
    let tb := o.xf.toNat % 8
    let a := o.d.toNat % 4
    let n := o.sec.toNat + 1
    let pair := [ta, tb, ta ^^^ 2, tb ^^^ 2]
    let bits := bitmapTiles x.low.bitsA ++ bitmapTiles x.low.bitsB
    let cores := spanCores s x.unit x.low.span
    let incA := (o.imm.extractLsb' 8 8).toNat
    let incB := (o.imm.extractLsb' 0 8).toNat
    let vas (base : W64) (inc : Nat) : List W64 := (List.range n).map (fun j => base + BitVec.ofNat 64 (j * inc * 64))
    let offs (os : List Nat) (inc : Nat) : List Nat := (List.range n).map (fun j => os.headD 0 + j * inc * 64)
    let va := x.low.getS o.a
    let vb := x.low.getS o.b
    let na := bytes (c.ctl ta)
    let nb := bytes (c.ctl tb)
    (∀ k, cause c ta tb bits (n * cols (c.ctl ta)) true = some k →
      exec (.mloop o) s = .next (afterTrap (.mloop o) s x { cls := 13, sub := k, ecause := BitVec.ofNat 8 k }))
    ∧ (cause c ta tb bits (n * cols (c.ctl ta)) true = none →
      (va.toNat % 64 ≠ 0 → exec (.mloop o) s = .next (afterTrap (.mloop o) s x { cls := 5, sub := 0, addr := va }))
      ∧ (va.toNat % 64 = 0 → vb.toNat % 64 ≠ 0 → exec (.mloop o) s = .next (afterTrap (.mloop o) s x { cls := 5, sub := 0, addr := vb }))
      ∧ (va.toNat % 64 = 0 → vb.toNat % 64 = 0 →
        (∀ e, matrixOffsets s x.unit .read na (vas va incA) = .error e → exec (.mloop o) s = .next (afterTrap (.mloop o) s x e))
        ∧ (∀ os, matrixOffsets s x.unit .read na (vas va incA) = .ok os → (∀ p ∈ offs os incA, p + na ≤ Config.scratchBytes) →
          (∀ e, matrixOffsets s x.unit .read nb (vas vb incB) = .error e → exec (.mloop o) s = .next (afterTrap (.mloop o) s x e))
          ∧ (∀ os' j, matrixOffsets s x.unit .read nb (vas vb incB) = .ok os' → j < n → Config.scratchBytes < (offs os' incB).getD j 0 + nb →
            (∀ i, i < j → (offs os' incB).getD i 0 + nb ≤ Config.scratchBytes) →
            exec (.mloop o) s = .next (afterTrap (.mloop o) s x { cls := 4, sub := 8, addr := vb + BitVec.ofNat 64 (j * incB * 64) }))
          ∧ ∀ os', matrixOffsets s x.unit .read nb (vas vb incB) = .ok os' → (∀ p ∈ offs os' incB, p + nb ≤ Config.scratchBytes) →
            let good := sound s cores (bits.filter (fun t => !pair.contains t)) [a] && cores.all (fun k =>
              (offs os incA).all (fun p => !poisoned s (scratchPa k p) na) && (offs os' incB).all (fun p => !poisoned s (scratchPa k p) nb))
            (ready s x cores (pair ++ bits) [a] true = false → exec (.mloop o) s = .next s)
            ∧ (ready s x cores (pair ++ bits) [a] true = true → good = false →
              exec (.mloop o) s = .next (afterTrap (.mloop o) s x { cls := 14, sub := 1 }))
            ∧ (ready s x cores (pair ++ bits) [a] true = true → good = true →
              exec (.mloop o) s = .next (queued (tlbAfter s x.unit (vas va incA ++ vas vb incB)) x x.unit cores pair [a] true
                (.mloop a ta tb (c.ctl ta) (c.ctl tb) ((offs os incA).zip (offs os' incB)) x.low.bitsA x.low.bitsB)
                (fun k => (((k.putCtl ta (c.ctl ta)).putCtl (ta ^^^ 2) (c.ctl ta)).putCtl tb (c.ctl tb)).putCtl (tb ^^^ 2) (c.ctl tb)))))
        ∧ (∀ os j, matrixOffsets s x.unit .read na (vas va incA) = .ok os → j < n → Config.scratchBytes < (offs os incA).getD j 0 + na →
            (∀ i, i < j → (offs os incA).getD i 0 + na ≤ Config.scratchBytes) →
            exec (.mloop o) s = .next (afterTrap (.mloop o) s x { cls := 4, sub := 8, addr := va + BitVec.ofNat 64 (j * incA * 64) })))))
  ∧ ∀ o s x, Issues (.tout o) s x →
    let ty := (o.imm.extractLsb' 12 4).toNat
    let es := if ty < 2 then 4 else 2
    let n := (o.imm.extractLsb' 2 6).toNat + 1
    let w := o.sec.toNat + 1
    let cores := spanCores s x.unit x.low.span
    let va := x.low.getS o.a
    let pitch := if o.b = 63 then BitVec.ofNat 64 (w * es) else x.low.getS o.b
    let vas := (List.range n).map (fun i => va + BitVec.ofNat 64 i * pitch)
    ((va.toNat % es ≠ 0 ∨ pitch.toNat % es ≠ 0) → exec (.tout o) s = .next (afterTrap (.tout o) s x { cls := 5, sub := 0, addr := va }))
    ∧ (va.toNat % es = 0 → pitch.toNat % es = 0 →
      (∀ e, matrixOffsets s x.unit .write (w * es) vas = .error e → exec (.tout o) s = .next (afterTrap (.tout o) s x e))
      ∧ ∀ offs, matrixOffsets s x.unit .write (w * es) vas = .ok offs →
        (ready s x cores [] [o.d.toNat] true = false → exec (.tout o) s = .next s)
        ∧ (ready s x cores [] [o.d.toNat] true = true → sound s cores [] [o.d.toNat] = false →
          exec (.tout o) s = .next (afterTrap (.tout o) s x { cls := 14, sub := 1 }))
        ∧ (ready s x cores [] [o.d.toNat] true = true → sound s cores [] [o.d.toNat] = true →
          stores (.tout o) s (tlbAfter s x.unit vas) x cores
            (.tout o.d.toNat (vas.zip offs) w ty (o.imm.extractLsb' 9 3).toNat (o.imm.getLsbD 8) x.low.fpctl)))

/-! ### Memory -/

/-- Loads (R25, R203 to R209): a misaligned address is class 5; a cause of the translation class 3 or 4; else the bytes that the
slice's view gives, zero- or sign-extended, are on their way to the emptied destination. Lane accesses go to sA + offset + L x
size, or to sA + index x size below the bound in sC; lanes that fault do so beside the lanes that commit (R131, R209), with class 4
before the bound of class 7, before 11, before 3, and every faulted lane in the record. WBIND reads a walk record of six words. A
stream read (R22, R117, R284): illegal where no WBIND has bound the register; otherwise lane L receives the element at the position
plus L, zero past the end, on its way to the emptied vD, and each executing slice's position advances once by the launched lane
count. A 65th line in a transaction aborts it (R185). The model's choices: poison counts last among the causes of lanes (log entry
29); a read of a scratchpad word waits for the slice's own atomic there (log entry 25), and one of a weight store in its window for
the window's end (log entry 13). -/
def Obligations.Loads : Prop :=
  (
    let lanes (i : Instr) (km : Nat) (d : Reg) (n : Nat) (sx : Bool) (base : Slice → W64) (addr : Slice → Fin 4 → Option W64) : Prop :=
      ∀ s x, Issues i s x →
        (∀ va, laneMisaligned x km n base = some va → exec i s = .next (afterTrap i s x { cls := 5, sub := 0, addr := va }))
        ∧ (laneMisaligned x km n base = none →
          let found := laneAccesses s x km .read .plain addr
          let ls := markLost s (fun _ => n) found
          let oks := laneOks ls
          let held := readsHeld s x.unit ((laneOks found).map (fun p => (p.1.t.idx, p.2.1)))
          (held = true → exec i s = .next s)
          ∧ (held = false → joinReads x.unit (snapshotLines (oks.map (fun p => p.2))) = none → exec i s = .next (afterAbort s x 3))
          ∧ ∀ u, held = false → joinReads x.unit (snapshotLines (oks.map (fun p => p.2))) = some u →
            let s' := tlbAfter s u (oks.map (fun p => p.1.va))
            let u' := u.mapSlices x.js (fun t => queueElems (if n = 8 then .n64 else .n32) d (n == 8) false t
              ((oks.filter (fun p => p.1.t.idx == t.idx)).map (fun p => (p.1.l,
                let w := fromLe (readView s u p.1.t.idx (isDirect p.2.2) p.2.1 n)
                (if sx then BitVec.ofInt 64 (toInt (8 * n) w) else BitVec.ofNat 64 w).toNat))))
            (laneBad ls = [] → exec i s = .next (s'.setUnit (u'.advance x.js x.size)))
            ∧ ∀ t, laneFault .read (laneBad ls) = some t → exec i s = .next (afterTrapIn i s' u' x t))
    (∀ o s x, Issues (.sld o) s x →
      let n := if o.sec.toNat = 0 then 8 else if o.sec.toNat ≤ 2 then 4 else if o.sec.toNat ≤ 4 then 2 else 1
      let vas := x.slices.map (fun t => (t, t.getS o.a + o.imm.signExtend 64))
      (∀ va, (vas.map (fun v => v.2)).find? (fun va => va.toNat % n != 0) = some va →
        exec (.sld o) s = .next (afterTrap (.sld o) s x { cls := 5, sub := 0, addr := va }))
      ∧ ((∀ v ∈ vas, v.2.toNat % n = 0) →
        (∀ t, scalarPlaces s x.unit .read .plain vas = .error t → exec (.sld o) s = .next (afterTrap (.sld o) s x t))
        ∧ ∀ ps, scalarPlaces s x.unit .read .plain vas = .ok ps →
          (readsHeld s x.unit (ps.map (fun p => (p.1.idx, p.2.2.1))) = true → exec (.sld o) s = .next s)
          ∧ (readsHeld s x.unit (ps.map (fun p => (p.1.idx, p.2.2.1))) = false →
            ((∃ p ∈ ps, poisoned s p.2.2.1 n = true) → exec (.sld o) s = .next (afterTrap (.sld o) s x { cls := 14, sub := 1 }))
            ∧ ((∀ p ∈ ps, poisoned s p.2.2.1 n = false) →
              (joinReads x.unit (snapshotLines (ps.map (fun p => p.2.2))) = none → exec (.sld o) s = .next (afterAbort s x 3))
              ∧ ∀ u, joinReads x.unit (snapshotLines (ps.map (fun p => p.2.2))) = some u →
                exec (.sld o) s = .next ((tlbAfter s u (vas.map (fun v => v.2))).setUnit ((ps.foldl (fun u' p => u'.mapSlices [p.1.idx] (fun t =>
                  { t.emptyS o.d with results := t.results ++ [.scalar o.d
                    (let w := fromLe (readView s u p.1.idx (isDirect p.2.2.2) p.2.2.1 n)
                     if o.sec.getLsbD 0 then BitVec.ofInt 64 (toInt (8 * n) w) else BitVec.ofNat 64 w)] })) u).advance x.js x.size))))))
    ∧ (∀ o, lanes (.vld o) o.km o.d (wdBytes o.wd) (o.sec.getLsbD 2) (fun t => t.getS o.a + o.imm.signExtend 64)
        (fun t l => some (t.getS o.a + o.imm.signExtend 64 + BitVec.ofNat 64 ((4 * t.idx + l.val) * wdBytes o.wd))))
    ∧ (∀ o, lanes (.vldg o) o.km o.d (wdBytes o.wd) (o.imm.getLsbD 7) (fun t => t.getS o.a)
        (fun t l => if o.c ≠ 63 ∧ (t.getS o.c).toNat ≤ (t.getV o.b l).toNat then none
          else some (t.getS o.a + BitVec.ofNat 64 ((t.getV o.b l).toNat * wdBytes o.wd))))
    ∧ (∀ acc bad t, laneFault acc bad = some t →
        t.cls = (if bad.any (fun b => decide (b.2 ≠ 1 ∧ b.2 < 13)) then 4 else if bad.any (fun b => b.2 == 15) then 7
          else if bad.any (fun b => b.2 == 13 || b.2 == 14) then 11 else if bad.any (fun b => b.2 == 1) then 3 else 14)
        ∧ t.replay = t.faulted
        ∧ ∀ n, t.faulted.getLsbD n = (decide (n < 32) && bad.any (fun b => decide (4 * b.1.t.idx + b.1.l.val = n))))
    ∧ ∀ o s x, Issues (.wbind o) s x →
      let vas := x.slices.map (fun t => (t, t.getS o.a + o.imm.signExtend 64))
      let words := vas.flatMap (fun v => (List.range 6).map (fun k => (v.1, v.2 + BitVec.ofNat 64 (8 * k))))
      (∀ va, (vas.map (fun v => v.2)).find? (fun va => va.toNat % 16 != 0) = some va →
        exec (.wbind o) s = .next (afterTrap (.wbind o) s x { cls := 5, sub := 0, addr := va }))
      ∧ ((∀ v ∈ vas, v.2.toNat % 16 = 0) →
        (∀ t, scalarPlaces s x.unit .read .plain words = .error t → exec (.wbind o) s = .next (afterTrap (.wbind o) s x t))
        ∧ ∀ ps u, scalarPlaces s x.unit .read .plain words = .ok ps
          → readsHeld s x.unit (ps.map (fun p => (p.1.idx, p.2.2.1))) = false → (∀ p ∈ ps, poisoned s p.2.2.1 8 = false)
          → joinReads x.unit (snapshotLines (ps.map (fun p => p.2.2))) = some u →
          let record (t : Slice) : Nat :=
            fromLe ((ps.filter (fun p => p.1.idx == t.idx)).flatMap (fun p => readView s u t.idx (isDirect p.2.2.2) p.2.2.1 8))
          ((∃ t ∈ x.slices, walkForm (record t) = false) →
            exec (.wbind o) s = .next (afterTrap (.wbind o) s x { cls := 0, sub := 7 }))
          ∧ ((∀ t ∈ x.slices, walkForm (record t) = true) →
            exec (.wbind o) s = .next ((tlbAfter s u (words.map (fun v => v.2))).setUnit ((u.mapSlices x.js (fun t =>
              t.putStream o.d.toNat (some { walk := walkOf (record t), pos := 0, flags := 0 }))).advance x.js x.size))))
  ) ∧ (
    ∀ o s x, Issues (.vmovStream o) s x →
      let w := 4 * x.unit.slices.length
      let from_ (t : Slice) (m : Stream) : Nat := if t.replay.isSome then m.pos - w else m.pos
      let inside (t : Slice) (l : Fin 4) : Bool := match t.stream o.a.toNat with
        | some m => decide (from_ t m + (4 * t.idx + l.val) < m.walk.count) | none => false
      let found : List LaneAccess := ((groupLanes x.slices o.km).filter (fun p => inside p.1 p.2)).map (fun p => match p.1.stream o.a.toNat with
        | some m =>
          let va := m.walk.addr (from_ p.1 m + (4 * p.1.idx + p.2.val))
          { t := p.1, l := p.2, va := va, res := place s x.unit .read .plain va }
        | none => { t := p.1, l := p.2, va := 0, res := .error 15 })
      let bytes (t : Slice) : Nat := match t.stream o.a.toNat with | some m => m.walk.size | none => 4
      let ls := markLost s (fun a => bytes a.t) found
      let oks := laneOks ls
      ((∃ t ∈ x.slices, t.stream o.a.toNat = none) → exec (.vmovStream o) s = .next (afterTrap (.vmovStream o) s x { cls := 0, sub := 5 }))
      ∧ ((∀ t ∈ x.slices, t.stream o.a.toNat ≠ none) → readsHeld s x.unit ((laneOks found).map (fun p => (p.1.t.idx, p.2.1))) = false →
        ∀ u, joinReads x.unit (snapshotLines (oks.map (fun p => p.2))) = some u →
        let s' := tlbAfter s u (oks.map (fun p => p.1.va))
        let u' := u.mapSlices x.js (fun t =>
          let t' := queueElems (match t.stream o.a.toNat with | some m => m.walk.t | none => .n32) o.d false false t
            ((oks.filter (fun p => p.1.t.idx == t.idx)).map (fun p => (p.1.l, fromLe (readView s u t.idx (isDirect p.2.2) p.2.1 (bytes p.1.t))))
              ++ ((lanesOf (actOf t o.km)).filter (fun l => !inside t l)).map (fun l => (l, 0)))
          match t'.stream o.a.toNat with
          | some m => if t'.replay.isSome then t'
              else t'.putStream o.a.toNat (some { m with pos := m.pos + w, flags := m.walk.flags m.pos w })
          | none => t')
        (laneBad ls = [] → exec (.vmovStream o) s = .next (s'.setUnit (u'.advance x.js x.size)))
        ∧ ∀ t, laneFault .read (laneBad ls) = some t → exec (.vmovStream o) s = .next (afterTrapIn (.vmovStream o) s' u' x t))
  )

/-- Stores (R203 to R209, R220, R355): misaligned is class 5, a translation cause class 3 or 4. In a transaction a peer or a host page
aborts it with cause 5, a 65th line with cause 4; a GLOBAL counter that would pass 255 holds the instruction back (R30). With room in
the log the stores are issued in slice and lane order (`storeBytes`) and the group goes on, a window opening where LOGPOL says
(R353); lanes that fault do so beside the lanes that stored. That each lane counts one in GLOBAL is the model's choice (log entry
25). -/
def Obligations.Stores : Prop :=
  let commit (i : Instr) (s : State) (x : Issue) (ps : StoreList) (faulted : Bool) (end_ : State → Machine.Unit → State) : Prop :=
    let snap := (ps.filter (fun p => !isDirect p.2.2.2.1)).length
    if x.unit.txn.isSome = true ∧ (∃ p ∈ ps, placeOf p.2.2.1 = .host) then exec i s = .next (afterAbort s x 5)
    else if writesFit x.unit (snapshotLines (ps.map (fun p => (p.2.2.1, p.2.2.2.1)))) = false then exec i s = .next (afterAbort s x 4)
    else if 255 < x.unit.count 2 + snap then exec i s = .next s
    else RoomEnds i s x (if faulted then ps.length else entriesFor x.unit ps.length 0) (fun s u =>
      let q := ps.foldl (fun q p => storeBytes q.1 q.2 p.1 x.pc p.2.1 p.2.2.1 p.2.2.2.1 p.2.2.2.2) (s, u)
      end_ (tlbAfter q.1 q.2 (ps.map (fun p => p.2.1))) q.2)
  let lanes (i : Instr) (km : Nat) (d : Reg) (n : Nat) (base : Slice → W64) (addr : Slice → Fin 4 → Option W64) : Prop :=
    ∀ s x, Issues i s x →
      (∀ va, laneMisaligned x km n base = some va → exec i s = .next (afterTrap i s x { cls := 5, sub := 0, addr := va }))
      ∧ (laneMisaligned x km n base = none →
        let ls := laneAccesses s x km .write .plain addr
        let ps : StoreList := (laneOks ls).map (fun p =>
          (p.1.t.idx, p.1.va, p.2.1, p.2.2, leBytes (p.1.t.elem (if n = 8 then .n64 else .n32) d p.1.l) n))
        let inside := ls.filter (fun l => match l.res with | .error 15 => false | _ => true)
        (peerAborts s x.unit (inside.map (fun l => l.va)) = true → exec i s = .next (afterAbort s x 5))
        ∧ (peerAborts s x.unit (inside.map (fun l => l.va)) = false →
          commit i s x ps (!(laneBad ls).isEmpty) (fun s' u => match laneFault .write (laneBad ls) with
            | none => afterStored s' u x false
            | some t => afterTrapIn i s' u x t)))
  (∀ o s x, Issues (.sst o) s x →
    let n := if o.sec.toNat = 0 then 8 else if o.sec.toNat ≤ 2 then 4 else if o.sec.toNat ≤ 4 then 2 else 1
    let vas := x.slices.map (fun t => (t, t.getS o.a + o.imm.signExtend 64))
    (∀ va, (vas.map (fun v => v.2)).find? (fun va => va.toNat % n != 0) = some va →
      exec (.sst o) s = .next (afterTrap (.sst o) s x { cls := 5, sub := 0, addr := va }))
    ∧ ((∀ v ∈ vas, v.2.toNat % n = 0) →
      (peerAborts s x.unit (vas.map (fun v => v.2)) = true → exec (.sst o) s = .next (afterAbort s x 5))
      ∧ (peerAborts s x.unit (vas.map (fun v => v.2)) = false →
        (∀ t, scalarPlaces s x.unit .write .plain vas = .error t → exec (.sst o) s = .next (afterTrap (.sst o) s x t))
        ∧ ∀ qs, scalarPlaces s x.unit .write .plain vas = .ok qs →
          commit (.sst o) s x (qs.map (fun p => (p.1.idx, p.2.1, p.2.2.1, p.2.2.2, leBytes (p.1.getS o.d).toNat n))) false
            (fun s' u => afterStored s' u x false))))
  ∧ (∀ o, lanes (.vst o) o.km o.d (wdBytes o.wd) (fun t => t.getS o.a + o.imm.signExtend 64)
      (fun t l => some (t.getS o.a + o.imm.signExtend 64 + BitVec.ofNat 64 ((4 * t.idx + l.val) * wdBytes o.wd))))
  ∧ ∀ o, lanes (.vstg o) o.km o.d (wdBytes o.wd) (fun t => t.getS o.a)
      (fun t l => if o.c ≠ 63 ∧ (t.getS o.c).toNat ≤ (t.getV o.b l).toNat then none
        else some (t.getS o.a + BitVec.ofNat 64 ((t.getV o.b l).toNat * wdBytes o.wd)))

/-- One store (R161, R162, R178, R179, R206, R359): the slice reads back what it stored, every byte outside the stored ones reads as before,
memory itself is untouched until the store is performed or published, and the log gains one entry with the bytes overwritten (R352; for a
host page a mark of kind 3). That these are the bytes as the storing gang sees them is the model's reading (DEDUCED, log entry 21). -/
def Obligations.StoreSeen : Prop :=
  ∀ (s : State) (u : Machine.Unit) (j : Nat) (pc va : W64) (pa : Nat) (a : BitVec 12) (bs : List Byte),
    u.id.kind = .gang → bs ≠ [] →
    let su := storeBytes s u j pc va pa a bs
    readView su.1 su.2 j (isDirect a) pa bs.length = bs
    ∧ (∀ b, (b < pa ∨ pa + bs.length ≤ b) → readSnapshot su.2 b = readSnapshot u b ∧ readDirect su.1 su.2 j b = readDirect s u j b)
    ∧ (∀ b, isDirect a = false → readDirect su.1 su.2 j b = readDirect s u j b)
    ∧ (∀ b, isDirect a = true → readSnapshot su.2 b = readSnapshot u b)
    ∧ (∀ b, su.1.mem.read b = s.mem.read b) ∧ su.2.slices = u.slices ∧ su.1.units = s.units
    ∧ ∃ e, su.1.log = s.log ++ [e] ∧ e.gang = u.gangId ∧ e.win = u.winno
        ∧ (placeOf pa ≠ .host → e.kind = 0 ∧ e.va = va ∧ e.old = BitVec.ofNat 64 (fromLe (readView s u j (isDirect a) pa bs.length)))
        ∧ (placeOf pa = .host → e.kind = 3 ∧ e.va = pc)

/-- The frame of the stores SST, VST and VSTG: where they go on, every slice of the group passes on with its registers as they were, every
other unit, every core and every byte of memory is as before, and the unit's own view keeps every byte outside those that the instruction
stores, at the addresses that its operands give. -/
def Obligations.StoreFrame : Prop :=
  ∀ (i : Instr) (s : State) (x : Issue) (ps : StoreList), Issues i s x → x.unit.id.kind = .gang →
    ((∃ o, i = .sst o ∧ (∀ t ∈ x.slices, (t.getS o.a + o.imm.signExtend 64).toNat % swBytes o.sec.toNat = 0) ∧ ∃ qs,
        scalarPlaces s x.unit .write .plain (x.slices.map (fun t => (t, t.getS o.a + o.imm.signExtend 64))) = .ok qs
        ∧ ps = qs.map (fun p => (p.1.idx, p.2.1, p.2.2.1, p.2.2.2, leBytes (p.1.getS o.d).toNat (swBytes o.sec.toNat))))
      ∨ (∃ o, i = .vst o ∧
        let ls := laneAccesses s x o.km .write .plain (fun t l =>
            some (t.getS o.a + o.imm.signExtend 64 + BitVec.ofNat 64 ((4 * t.idx + l.val) * wdBytes o.wd)))
        laneMisaligned x o.km (wdBytes o.wd) (fun t => t.getS o.a + o.imm.signExtend 64) = none ∧ laneBad ls = []
        ∧ ps = (laneOks ls).map (fun p =>
          (p.1.t.idx, p.1.va, p.2.1, p.2.2, leBytes (p.1.t.elem (if wdBytes o.wd = 8 then .n64 else .n32) o.d p.1.l) (wdBytes o.wd))))
      ∨ ∃ o, i = .vstg o ∧
        let ls := laneAccesses s x o.km .write .plain (indexedAddr o (wdBytes o.wd))
        laneMisaligned x o.km (wdBytes o.wd) (fun t => t.getS o.a) = none ∧ laneBad ls = []
        ∧ ps = (laneOks ls).map (fun p =>
          (p.1.t.idx, p.1.va, p.2.1, p.2.2, leBytes (p.1.t.elem (if wdBytes o.wd = 8 then .n64 else .n32) o.d p.1.l) (wdBytes o.wd)))) →
    (x.unit.txn.isSome && ps.any (fun p => onHost p.2.2.1)) = false → peerAborts s x.unit (ps.map (fun p => p.2.1)) = false →
    writesFit x.unit (snapshotLines (ps.map (fun p => (p.2.2.1, p.2.2.2.1)))) = true →
    x.unit.count 2 + (ps.filter (fun p => !isDirect p.2.2.2.1)).length ≤ 255 → logFits s x.unit (entriesFor x.unit ps.length 0) = true →
    ∃ s' u, exec i s = .next s' ∧ s'.unit? x.unit.id = some u
      ∧ u.slices = x.unit.slices.map (fun t => if t.idx ∈ x.js then t.passed x.size else t)
      ∧ (∀ id, id ≠ x.unit.id → s'.unit? id = s.unit? id) ∧ s'.cores = s.cores ∧ (∀ a, s'.mem.read a = s.mem.read a)
      ∧ ∀ a, (∀ p ∈ ps, a < p.2.2.1 ∨ p.2.2.1 + p.2.2.2.2.length ≤ a) →
        readSnapshot u a = readSnapshot x.unit a ∧ ∀ j, readDirect s' u j a = readDirect s x.unit j a

/-! ### Atomics, synchronisation and peers -/

/-- Atomic arithmetic (R210): on integers ADD wraps at the width, MIN and MAX compare in the type's signedness, AND, OR, XOR and SWAP act
on the bits, CAS stores the new value where the old one equals the compare value; on floats ADD is the exact sum (`Rounding`) rounded to
nearest even without flushing, MIN and MAX are those of FMIN and FMAX (`Rounding`), and no flags are kept. -/
def Obligations.AtomicValues : Prop :=
  (∀ (ty : BitVec 3) (old d c : Nat), ty.toNat < 4 → old < 2 ^ (if ty.toNat < 2 then 64 else 32) →
    let w := if ty.toNat < 2 then 64 else 32
    let o := BitVec.ofNat w old
    let x := BitVec.ofNat w d
    let less (a b : BitVec w) : Bool := if ty.getLsbD 0 then a.slt b else a.ult b
    atomNew 0 ty old d c = (o + x).toNat ∧ atomNew 1 ty old d c = (if less x o then x else o).toNat
    ∧ atomNew 2 ty old d c = (if less o x then x else o).toNat ∧ atomNew 3 ty old d c = (o &&& x).toNat
    ∧ atomNew 4 ty old d c = (o ||| x).toNat ∧ atomNew 5 ty old d c = (o ^^^ x).toNat ∧ atomNew 6 ty old d c = x.toNat
    ∧ atomNew 7 ty old d c = (if o = BitVec.ofNat w c then x else o).toNat)
  ∧ ∀ (ty : BitVec 3) (old d c : Nat), 4 ≤ ty.toNat → ty.toNat < 7 →
    let f := formatOf (if ty.toNat = 4 then .f64 else if ty.toNat = 5 then .f32 else .f16)
    atomNew 0 ty old d c = (f.deliver .rne false ((f.decode old).add .rne (f.decode d))).1
    ∧ atomNew 1 ty old d c = (fminmax f false old d).1 ∧ atomNew 2 ty old d c = (fminmax f true old d).1

/-- SATOM, VATOM and GATOM (R202 to R204, R209 to R213): misaligned is class 5. A `.REL` waits until nothing of the unit is left for a PHASE
to wait for, and then publishes; translation causes come behind that. Of those without a result, the ones off direct pages that commit count
in GLOBAL, which holds them back beyond 255 (R30), and room in the log is made for what commits (R355). The atomics are queued, one for each
slice or active lane, with the data and compare values of R211; a destination is emptied until its old value arrives. `.ACQ` ends in a
PHASE, else the group goes on; lanes that fault do so beside the others. The model's choices: each lane counts one operation, and a `.REL`
holds its instruction back (log entries 22, 25). -/
def Obligations.Atomics : Prop :=
  let ends (s : State) (u : Machine.Unit) (x : Issue) (acq rel : Bool) : State :=
    if acq then (if u.quiet then completePhase s u x.js x.pc x.size .next else s.setUnit (u.park x.js (.phase .next) x.size))
    else afterStored s u x rel
  let released (s : State) (u : Machine.Unit) (x : Issue) (rel : Bool) : State × Machine.Unit := if rel then doPhase s u x.pc else (s, u)
  let count (x : Issue) (returns : Bool) (ps : List (Nat × BitVec 12)) : Nat :=
    x.unit.count 2 + (if returns then 0 else (ps.filter (fun p => !isDirect p.2)).length)
  let entries (x : Issue) (o : WArgs) (n : Nat) (faulted : Bool) : Nat :=
    if faulted then n + bit01 o.rel else entriesFor x.unit n (bit01 o.rel + bit01 o.acq)
  let lanes (i : Instr) (o : WArgs) (addr : Slice → Fin 4 → Option W64) : Prop :=
    ∀ s x, Issues i s x →
      let n := tyBytes o.ty
      let wide := WellFormed.wideTy o.imm
      let ty : TCode := if wide then .n64 else .n32
      let look (q : State × Machine.Unit) : List LaneAccess :=
        markLost q.1 (fun _ => n) (laneAccesses q.1 { x with unit := q.2 } o.km .write (.atomic o.op o.ty) addr)
      let first := look (released s x.unit x o.rel)
      (∀ va, laneMisaligned x o.km n (fun t => t.getS o.a) = some va → exec i s = .next (afterTrap i s x { cls := 5, sub := 0, addr := va }))
      ∧ (laneMisaligned x o.km n (fun t => t.getS o.a) = none → o.rel = true → x.unit.quiet = false → exec i s = .next s)
      ∧ (laneMisaligned x o.km n (fun t => t.getS o.a) = none → (o.rel = true → x.unit.quiet = true) →
        (255 < count x o.retBit ((laneOks first).map (fun p => p.2)) → exec i s = .next s)
        ∧ (count x o.retBit ((laneOks first).map (fun p => p.2)) ≤ 255 →
          RoomEnds i s x (entries x o (laneOks first).length (!(laneBad first).isEmpty)) (fun r v =>
            let su := released r v x o.rel
            let ls := look su
            let oks := laneOks ls
            let q := oks.foldl (fun q p => queueAtomic q.1 q.2
              { slice := p.1.t.idx, lane := some p.1.l, ret := if o.retBit then some o.d else none, pa := p.2.1, va := p.1.va
                page := spanOf su.1 su.2.ctx su.2.id.core p.1.va, op := o.op, ty := o.ty, data := BitVec.ofNat 64 (p.1.t.elem ty o.d p.1.l)
                cmp := if o.isCas then BitVec.ofNat 64 (p.1.t.elem ty o.b p.1.l) else 0
                win := q.2.winno, pc := x.pc, retireId := none, frame := false } p.2.2) su
            let u' := if o.retBit then q.2.mapSlices x.js (fun t =>
                let m := lanesWhere 0xF (fun l => oks.any (fun p => p.1.t.idx == t.idx && p.1.l == l))
                t.pushVector o.d wide m m (Vector.replicate 4 0) (Vector.replicate 4 0) false)
              else q.2
            let s' := tlbAfter q.1 u' (oks.map (fun p => p.1.va))
            match laneFault .write (laneBad ls) with
            | none => ends s' u' x o.acq o.rel
            | some t => afterTrapIn i s' u' x t)))
  (∀ o s x, Issues (.satom o) s x →
    let n := tyBytes o.ty
    let vas := x.slices.map (fun t => (t, t.getS o.a))
    let look (q : State × Machine.Unit) : Except Trap (List (Slice × W64 × Nat × BitVec 12)) :=
      match scalarPlaces q.1 q.2 .write (.atomic o.op o.ty) vas with
      | .error t => .error t
      | .ok ps => if ps.any (fun p => poisoned q.1 p.2.2.1 n) then .error { cls := 14, sub := 1 } else .ok ps
    let first : List (Nat × BitVec 12) := match look (released s x.unit x o.rel) with | .ok ps => ps.map (fun p => p.2.2) | .error _ => []
    let faulted : Bool := match look (released s x.unit x o.rel) with | .ok _ => false | .error _ => true
    (∀ va, (vas.map (fun v => v.2)).find? (fun va => va.toNat % n != 0) = some va →
      exec (.satom o) s = .next (afterTrap (.satom o) s x { cls := 5, sub := 0, addr := va }))
    ∧ ((∀ v ∈ vas, v.2.toNat % n = 0) → o.rel = true → x.unit.quiet = false → exec (.satom o) s = .next s)
    ∧ ((∀ v ∈ vas, v.2.toNat % n = 0) → (o.rel = true → x.unit.quiet = true) →
      (255 < count x (o.d != 63) first → exec (.satom o) s = .next s)
      ∧ (count x (o.d != 63) first ≤ 255 → RoomEnds (.satom o) s x (entries x o first.length faulted) (fun r v =>
        let su := released r v x o.rel
        match look su with
        | .error t => afterTrapIn (.satom o) su.1 su.2 x t
        | .ok ps =>
          let q := ps.foldl (fun q p => queueAtomic q.1 q.2
            { slice := p.1.idx, lane := none, ret := if o.d = 63 then none else some o.d, pa := p.2.2.1, va := p.2.1
              page := spanOf su.1 su.2.ctx su.2.id.core p.2.1, op := o.op, ty := o.ty, data := p.1.getS o.b, cmp := p.1.getS o.c, win := q.2.winno, pc := x.pc, retireId := none, frame := false } p.2.2.2) su
          let u' := if o.d = 63 then q.2 else q.2.mapSlices x.js (fun t => { t.emptyS o.d with results := t.results ++ [.scalarWait o.d] })
          ends (tlbAfter q.1 u' (vas.map (fun v => v.2))) u' x o.acq o.rel))))
  ∧ (∀ o, lanes (.vatom o) o (fun t l => some (t.getS o.a + BitVec.ofNat 64 ((4 * t.idx + l.val) * tyBytes o.ty))))
  ∧ ∀ o, lanes (.gatom o) o (fun t l => if o.c ≠ 63 ∧ (t.getS o.c).toNat ≤ (t.getV o.b l).toNat then none
      else some (t.getS o.a + BitVec.ofNat 64 ((t.getV o.b l).toNat * tyBytes o.ty)))

/-- A PHASE where it takes its place (R162, R179, R214): the unit's stores are published at one point, its snapshot is the memory there and
what it reads is that memory, nothing is held any more, and the log gains a phase mark of its window. -/
def Obligations.PhaseTakesPlace : Prop :=
  (∀ (s : State) (u : Machine.Unit) (js : List Nat) (pc size : W64), s.unit? u.id = some u → u.txn = none →
    ∃ v, (completePhase s u js pc size .next).unit? u.id = some v ∧ (completePhase s u js pc size .next).mem = Overlay.publish u.own s.mem
      ∧ v.snapshot = Overlay.publish u.own s.mem ∧ v.own = []
      ∧ (∀ a, readSnapshot v a = (completePhase s u js pc size .next).mem.read a)
      ∧ ∃ e ∈ (completePhase s u js pc size .next).log, e.kind = 5 ∧ e.gang = u.gangId ∧ e.va = pc ∧ e.win = windowOf s u)
  ∧ ∀ (m : Mem) (o : Overlay) (a : Nat), m.wf = true → Mem.risingFrom 0 o = true →
    (Overlay.publish o m).read a = (Overlay.find o a).getD (m.read a)

/-- PHASE, FENCE, WAITC and MWAIT (R29, R181, R214 to R217, R253). PHASE takes its place where the unit is quiet and parks the group
otherwise. FENCE orders the stores issued so far before later sluice commands. WAITC goes on at a count of at most its number, and then the
engine writes of every retired sluice command are visible, those too that an earlier Wait covered; otherwise it parks, and no group of the
gang issues meanwhile. MWAIT reads each slice's word: once every condition holds sD receives the words and a PHASE follows; otherwise the
group waits, with a monitor for each slice whose condition does not hold. That a WAITC covers every retired command and holds the whole gang
(log entry 22), and that AUTON's count rises by an MWAIT's reads, where R353 counts stores and atomics (log entry 21), are the model's
readings. -/
def Obligations.Synchronisation : Prop :=
  let phased (s : State) (u : Machine.Unit) (x : Issue) : State :=
    if u.quiet then completePhase s u x.js x.pc x.size .next else s.setUnit (u.park x.js (.phase .next) x.size)
  (∀ o s x, Issues (.phase o) s x → RoomEnds (.phase o) s x (entriesFor x.unit 0 1) (fun r u => phased r u x))
  ∧ (∀ o s x, Issues (.fence o) s x → exec (.fence o) s = .next (after s { x with unit := { x.unit with
      fenced := Overlay.layer x.unit.own x.unit.fenced, fencedDirect := x.unit.direct.length, fencedAtomics := x.unit.atomics.length } } id))
  ∧ (∀ o s x, Issues (.waitc o) s x →
    let live (n : Nat) : Bool := x.unit.ops.any (fun op => op.id == n)
    let covered := (x.unit.engineDone.filter (fun e => !live e.1)).foldl (fun v e => Overlay.layer e.2 v) x.unit.engineCovered
    (x.unit.count o.d.toNat ≤ o.imm.toNat → exec (.waitc o) s = .next (after s { x with unit := if o.d = 0 then { x.unit with
        engineDone := x.unit.engineDone.filter (fun e => live e.1), engineCovered := covered
        engineSeen := Overlay.layer covered x.unit.engineSeen } else x.unit } id))
    ∧ (o.imm.toNat < x.unit.count o.d.toNat → exec (.waitc o) s = .next (afterPark s x (.waitc o.d.toNat o.imm.toNat))
        ∧ ∀ js, mayIssue (x.unit.park x.js (.waitc o.d.toNat o.imm.toNat) x.size) js = false))
  ∧ ∀ o s x, Issues (.mwait o) s x →
    let n := if o.sec.getLsbD 5 then 4 else 8
    let vas := x.slices.map (fun t => (t, t.getS o.a))
    let word (s : State) (pa : Nat) : W64 :=
      let w := fromLe (s.mem.readBytes pa n)
      if n = 4 ∧ o.sec.getLsbD 4 = false then BitVec.ofInt 64 (toInt 32 w) else BitVec.ofNat 64 w
    let num (v : W64) : Int := match n, o.sec.getLsbD 4 with
      | 4, true => (v.toNat % 2 ^ 32 : Nat) | 4, false => toInt 32 v.toNat | _, true => (v.toNat : Int) | _, false => v.toInt
    let holds (s : State) (p : Slice × W64 × Nat × BitVec 12) : Bool :=
      condition (o.sec.extractLsb' 0 4).toNat (num (word s p.2.2.1)) (num (p.1.getS o.b))
    (∀ va, (vas.map (fun v => v.2)).find? (fun va => va.toNat % n != 0) = some va →
      exec (.mwait o) s = .next (afterTrap (.mwait o) s x { cls := 5, sub := 0, addr := va }))
    ∧ ((∀ v ∈ vas, v.2.toNat % n = 0) →
      (∀ t, scalarPlaces s x.unit .read .plain vas = .error t → exec (.mwait o) s = .next (afterTrap (.mwait o) s x t))
      ∧ ∀ ps, scalarPlaces s x.unit .read .plain vas = .ok ps →
        ((∃ p ∈ ps, inRefresh s p.2.2.1 = true) → exec (.mwait o) s = .next s)
        ∧ ((∀ p ∈ ps, inRefresh s p.2.2.1 = false) →
          ((∃ p ∈ ps, poisoned s p.2.2.1 n = true) → exec (.mwait o) s = .next (afterTrap (.mwait o) s x { cls := 14, sub := 1 }))
          ∧ ((∀ p ∈ ps, poisoned s p.2.2.1 n = false) → RoomEnds (.mwait o) s x (entriesFor x.unit 0 1) (fun r v =>
            let mine (t : Slice) : Option (Slice × W64 × Nat × BitVec 12) := (ps.filter (fun p => p.1.idx == t.idx)).getLast?
            let emptied (t : Slice) : Slice := if o.d = 63 then t else { t.emptyS o.d with results := t.results ++ [.scalarWait o.d] }
            if ps.all (holds r) then
              let u' := { v.mapSlices x.js (fun t => match mine t with
                | some p => { emptied t with results := (emptied t).results.map (fun y => if y == .scalarWait o.d then .scalar o.d (word r p.2.2.1) else y)
                                             run := .parked (.phase .next) x.size.toNat false }
                | none => emptied t) with autoCount := v.autoCount + ps.length }
              phased (tlbAfter r u' (vas.map (fun v => v.2))) u' x
            else
              let u' := { v.mapSlices x.js (fun t => match mine t with
                | some p => { emptied t with run := .parked (.mwait p.2.1 (o.sec.getLsbD 5) (o.sec.getLsbD 4) (o.sec.extractLsb' 0 4)
                    (if holds r p then word r p.2.2.1 else p.1.getS o.b) o.d) x.size.toNat (holds r p) }
                | none => emptied t) with autoCount := v.autoCount + (ps.filter (holds r)).length }
              ((ps.filter (fun p => !holds r p)).foldl (fun s p => placeMonitor s x.unit.id p.1.idx p.2.2.1)
                (tlbAfter r u' (vas.map (fun v => v.2)))).setUnit u')))) 

/-- PST, PATOM, PREF and NOP (R186, R218, R219, R275, R416): an operation for each slice is sent to the peer that its address names, with an
irreversible mark, counted in PEER; with EN 0 it fails at once and its launch will complete with status 4. A host or peer page in a
transaction aborts it (R220), a full PEER counter holds the instruction back (R30), and the log has room first (R355). That a PATOM
counts for AUTON, as an atomic, is the model's reading (DEDUCED, log entry 21). PREF and NOP only pass. -/
def Obligations.PeerAndNothing : Prop :=
  let sent (s : State) (x : Issue) (u : Machine.Unit) (ps : List (Slice × W64 × Nat × BitVec 12)) (op : Option (BitVec 4 × BitVec 3)) (n : Nat)
      (r : Reg) : State × Machine.Unit :=
    ps.foldl (fun q p =>
      let s1 := logMark q.1 q.2 3 x.pc
      let s2 := { s1 with nextId := s1.nextId + 1 }
      let k := match placeOf p.2.2.1 with | .peer k => k | _ => 0
      let launch := ((s.team? u.team).map (fun t => t.launch)).getD 0
      let u2 := addOp q.2 3 s1.nextId 1 false
      if (s2.peer k).en then
        let sent : PeerOp := { id := s1.nextId, unit := q.2.id, launch := launch, peer := k, pa := p.2.2.1 % 2 ^ 42, op := op
                               bytes := leBytes (p.1.getS r).toNat n, data := p.1.getS r, issued := s2.gtick, tmo := (s2.peer k).tmo.toNat }
        ({ s2 with peerOps := s2.peerOps ++ [sent] }, u2)
      else ({ s2 with launches := s2.launches.map (fun l => if l.id == launch && l.status == 0 then { l with status := 4 } else l) },
        completeOp u2 s1.nextId)) (s, u)
  (∀ o s x, Issues (.pst o) s x →
    let n := swBytes o.sec.toNat
    let vas := x.slices.map (fun t => (t, t.getS o.a + o.imm.signExtend 64))
    let aborts := peerAborts s x.unit (vas.map (fun v => v.2)) || hostAborts s x.unit (vas.map (fun v => v.2))
    (∀ va, (vas.map (fun v => v.2)).find? (fun va => va.toNat % n != 0) = some va →
      exec (.pst o) s = .next (afterTrap (.pst o) s x { cls := 5, sub := 0, addr := va }))
    ∧ ((∀ v ∈ vas, v.2.toNat % n = 0) →
      (aborts = true → exec (.pst o) s = .next (afterAbort s x 5))
      ∧ (aborts = false →
        (∀ t, scalarPlaces s x.unit .write .peer vas = .error t → exec (.pst o) s = .next (afterTrap (.pst o) s x t))
        ∧ ∀ ps, scalarPlaces s x.unit .write .peer vas = .ok ps →
          (255 < x.unit.count 3 + ps.length → exec (.pst o) s = .next s)
          ∧ (x.unit.count 3 + ps.length ≤ 255 → RoomEnds (.pst o) s x (entriesFor x.unit ps.length 0) (fun r u =>
            let q := sent r x u ps none n o.d
            afterStored (tlbAfter q.1 q.2 (vas.map (fun v => v.2))) q.2 x false)))))
  ∧ (∀ o s x, Issues (.patom o) s x →
    let vas := x.slices.map (fun t => (t, t.getS o.a))
    let released (s : State) (u : Machine.Unit) : State × Machine.Unit := if o.rel then doPhase s u x.pc else (s, u)
    let n (q : State × Machine.Unit) : Nat := match scalarPlaces q.1 q.2 .write .peer vas with | .ok ps => ps.length | .error _ => 0
    let faulted : Bool := match scalarPlaces (released s x.unit).1 (released s x.unit).2 .write .peer vas with | .ok _ => false | .error _ => true
    (∀ va, (vas.map (fun v => v.2)).find? (fun va => va.toNat % tyBytes o.ty != 0) = some va →
      exec (.patom o) s = .next (afterTrap (.patom o) s x { cls := 5, sub := 0, addr := va }))
    ∧ ((∀ v ∈ vas, v.2.toNat % tyBytes o.ty = 0) →
      ((255 < x.unit.count 3 + n (s, x.unit) ∨ (o.rel = true ∧ x.unit.quiet = false)) → exec (.patom o) s = .next s)
      ∧ (x.unit.count 3 + n (s, x.unit) ≤ 255 → (o.rel = true → x.unit.quiet = true) → x.unit.count 2 ≤ 255 →
        RoomEnds (.patom o) s x (if faulted then n (released s x.unit) + bit01 o.rel else entriesFor x.unit (n (released s x.unit)) (bit01 o.rel))
          (fun r v =>
            let su := released r v
            match scalarPlaces su.1 su.2 .write .peer vas with
            | .error t => afterTrapIn (.patom o) su.1 su.2 x t
            | .ok ps =>
              let q := sent su.1 x su.2 ps (some (o.op, o.ty)) (tyBytes o.ty) o.b
              let u' := { q.2 with autoCount := q.2.autoCount + ps.length }
              afterStored (tlbAfter q.1 u' (vas.map (fun v => v.2))) u' x o.rel))))
  ∧ (∀ o s x, Issues (.pref o) s x → exec (.pref o) s = .next (after s x id))
  ∧ ∀ o s x, Issues (.nop o) s x → exec (.nop o) s = .next (after s x id)

/-! ### Sluice commands and channels -/

/-- The issue of the commands CP, CPX, CPS, CPRED, CPCONV, MOEDISP and CPSTAGE (R30, R138, R221, R228 to R235): a misaligned base is
class 5; a window whose place in the scratchpad of the core that executes it does not translate, is none, or has not the bytes that the
window takes, is class 3 or class 4, cause 8; with 32 commands in the issuing core's queue or SLUICE at 255 it does not issue;
otherwise the command, with its operands and its place in the order of the unit's commands, enters that queue, SLUICE counts it, and
the group goes on. CPSTAGE takes the team's next schedule entry and names the core that executes it; beyond the last entry it is class
13, cause 26. The model's choices (log entry 23): CPX, CPS and CPRED check sA before sD, and an entry with a bad ordinal or reserved
field enters the queue and stops there with cause 20. -/
def Obligations.SluiceCommands : Prop :=
  let queued (s : State) (x : Issue) (core : Nat) (major : BitVec 7) (op : SluiceOp) (ord : Bool) (phase : SluicePhase) : State × Machine.Unit :=
    let c := s.coreAt x.unit.id.core
    (({ s with nextId := s.nextId + 1 } : State).setCore { c with sluice := c.sluice ++ [newCommand x.unit core major op ord s.nextId x.pc phase] },
      { addOp x.unit 0 s.nextId 1 false with seqNo := x.unit.seqNo + 1 })
  let fits (s : State) (x : Issue) (core : Nat) (ld : Bool) (spad : W64) (shape : BitVec 16) : Except Snag Nat :=
    let n := ((shape.extractLsb' 10 6).toNat + 1) * ((shape.extractLsb' 4 6).toNat + 1)
    let bytes := if shape.extractLsb' 0 4 = 0 then n else if shape.extractLsb' 0 4 = 3 then n + (n / 16 + 1) / 2 else 2 * n
    match cmdPlace s x.unit core (if ld then .write else .read) .matrix true spad with
    | .error e => .error e
    | .ok (pa, _) => if 2 ^ 18 < pa % 2 ^ 18 + bytes then .error (.fatal spad 8) else .ok pa
  let command (i : Instr) (major : BitVec 7) (ord : Bool) (bases : Issue → List (W64 × Nat)) (check : State → Issue → Except Snag Nat)
      (op : Issue → SluiceOp) : Prop :=
    ∀ s x, Issues i s x →
      let full := 32 ≤ (s.coreAt x.unit.id.core).sluice.length ∨ 255 ≤ x.unit.count 0
      let bad := (bases x).find? (fun b => b.1.toNat % b.2 != 0)
      (∀ b, bad = some b → exec i s = .next (afterTrap i s x { cls := 5, sub := 0, addr := b.1 }))
      ∧ (bad = none → ∀ e, check s x = .error e → SnagEnds i s x e)
      ∧ (bad = none → ∀ pa, check s x = .ok pa → full → exec i s = .next s)
      ∧ (bad = none → ∀ pa, check s x = .ok pa → ¬full →
        exec i s = .next (let q := queued s x x.unit.id.core major (op x) ord .queued; after q.1 { x with unit := q.2 } id))
  let free : State → Issue → Except Snag Nat := fun _ _ => .ok 0
  let window (ld : Bool) (o : WArgs) (x : Issue) : SluiceOp := .cp ld (x.low.getS o.d) (x.low.getS o.a) (x.low.getS o.b)
    ((o.imm.extractLsb' 10 6).toNat + 1) ((o.imm.extractLsb' 4 6).toNat + 1) (o.imm.extractLsb' 0 4).toNat
  let indices (x : Issue) (o : WArgs) : List W32 := (groupLanes x.slices o.km).map (fun p => p.1.getV o.b p.2)
  (∀ o, command (.cpLd o) 0x66 o.ordBit (fun x => [(x.low.getS o.d, 64), (x.low.getS o.a, 64)])
      (fun s x => fits s x x.unit.id.core true (x.low.getS o.d) o.imm) (window true o))
  ∧ (∀ o, command (.cpSt o) 0x66 o.ordBit (fun x => [(x.low.getS o.d, 64), (x.low.getS o.a, 64)])
      (fun s x => fits s x x.unit.id.core false (x.low.getS o.d) o.imm) (window false o))
  ∧ (∀ o, command (.cpx o) 0x67 o.ordBit (fun x => [(x.low.getS o.a, 4), (x.low.getS o.d, if o.sec.getLsbD 0 then 4 else 32)]) free
      (fun x => .cpx (o.sec.getLsbD 0) (x.low.getS o.d) (x.low.getS o.a) (indices x o) o.imm.toNat))
  ∧ (∀ o, command (.cps o) 0x68 o.ordBit (fun x => [(x.low.getS o.a, 4), (x.low.getS o.d, 4)]) free
      (fun x => .cps (x.low.getS o.d) (x.low.getS o.a) (indices x o) o.imm.toNat))
  ∧ (∀ o, command (.cpred o) 0x69 o.ordBit
      (fun x => [(x.low.getS o.a, tyBytes (o.sec.extractLsb' 4 3)), (x.low.getS o.d, tyBytes (o.sec.extractLsb' 4 3))]) free
      (fun x => .cpred (x.low.getS o.d) (x.low.getS o.a) (indices x o) o.imm.toNat (o.sec.extractLsb' 0 4) (o.sec.extractLsb' 4 3)))
  ∧ (∀ o, command (.cpconv o) 0x6A o.ordBit
      (fun x => (x.low.getS o.a, 64) :: if o.sec.getLsbD 0 then [] else [(x.low.getS o.d, 32)]) free
      (fun x => .cpconv (o.sec.getLsbD 0) (x.low.getS o.d) (x.low.getS o.a) (x.low.getS o.b) (x.low.getS (o.imm.extractLsb' 0 6))
        ((o.imm.extractLsb' 6 10).toNat + 1)))
  ∧ (∀ o, command (.moedisp o) 0x6F o.ordBit (fun x => [(x.low.getS o.a, 64)]) free
      (fun x => .moedisp (x.low.getS o.d) (x.low.getS o.a) ((groupLanes x.slices o.km).map (fun p => (4 * p.1.idx + p.2.val, p.1.getV o.b p.2)))))
  ∧ ∀ o s x, Issues (.cpstage o) s x → ∀ t, s.team? x.unit.team = some t → ∀ l, launchOf s x.unit = some l →
    (l.sched.length ≤ t.cursor → exec (.cpstage o) s = .next (afterTrap (.cpstage o) s x { cls := 13, sub := 26, ecause := 26 }))
    ∧ ∀ e, l.sched[t.cursor]? = some e →
      let bad := [(e.spad, 64), (e.lrec, 64)].find? (fun (b : W64 × Nat) => b.1.toNat % b.2 != 0)
      let form := e.reservedOk && decide (e.ord < t.cores.length)
      let core := if form then t.cores.getD e.ord x.unit.id.core else x.unit.id.core
      let check := if form then fits s x core (!e.st) e.spad e.shape else .ok 0
      let full := 32 ≤ (s.coreAt x.unit.id.core).sluice.length ∨ 255 ≤ x.unit.count 0
      (∀ b, bad = some b → exec (.cpstage o) s = .next (afterTrap (.cpstage o) s x { cls := 5, sub := 0, addr := b.1 }))
      ∧ (bad = none → ∀ f, check = .error f → SnagEnds (.cpstage o) s x f)
      ∧ (bad = none → ∀ pa, check = .ok pa → full → exec (.cpstage o) s = .next s)
      ∧ (bad = none → ∀ pa, check = .ok pa → ¬full → exec (.cpstage o) s = .next (
          let q := queued s x core 0x6B (.cp (!e.st) e.spad e.lrec e.origin ((e.shape.extractLsb' 10 6).toNat + 1)
            ((e.shape.extractLsb' 4 6).toNat + 1) (e.shape.extractLsb' 0 4).toNat) o.ordBit (if form then .queued else .stopped 20)
          after (q.1.setTeam { t with cursor := t.cursor + 1 }) { x with unit := q.2 } id))

/-- The issue of KST, QSIG and BGATHER (R221, R237 to R239): a head or channel that is not aligned is class 5. KST and QSIG read d, the head's
dimension, as a command would read it, behind the direct stores and atomics that FENCE or .ORD orders before it (R215), wait for the
registers that hold the elements, and take element j from lane j mod W of register
vX + ⌊j / W⌋; registers beyond v63 are class 13, cause 21, a lane outside the group cause 22. A full queue or counter holds each back.
QSIG empties vD in each slice; BGATHER empties sD and its group waits for the probe. That an empty register behind the named one always
makes the instruction wait is the model's choice (log entry 23). -/
def Obligations.MemoryCommands : Prop :=
  let queued (s : State) (x : Issue) (major : BitVec 7) (op : SluiceOp) (ord : Bool) : State × Machine.Unit :=
    let c := s.coreAt x.unit.id.core
    (({ s with nextId := s.nextId + 1 } : State).setCore { c with sluice := c.sluice ++ [newCommand x.unit x.unit.id.core major op ord s.nextId x.pc .queued] },
      { addOp x.unit 0 s.nextId 1 false with seqNo := x.unit.seqNo + 1 })
  let room (s : State) (x : Issue) : Prop := (s.coreAt x.unit.id.core).sluice.length < 32 ∧ x.unit.count 0 < 255
  let signed (i : Instr) (o : WArgs) (r : Reg) (major : BitVec 7) (op : Issue → List W32 → SluiceOp) (mark : Slice → Slice) : Prop :=
    ∀ s x, Issues i s x →
      let head := x.low.getS o.a
      let w := 4 * x.unit.slices.length
      let read := cmdRead s x.unit { held := if o.ordBit then x.unit.own else x.unit.fenced, may := x.unit.own } x.unit.id.core false (head + 50) 1
      let before := if o.ordBit then x.unit.direct ≠ [] ∨ x.unit.atomics ≠ [] else x.unit.fencedDirect ≠ 0 ∨ x.unit.fencedAtomics ≠ 0
      (head.toNat % 128 ≠ 0 → exec i s = .next (afterTrap i s x { cls := 5, sub := 0, addr := head }))
      ∧ (head.toNat % 128 = 0 → before → exec i s = .next s)
      ∧ (head.toNat % 128 = 0 → ¬before → ∀ e, read = .error e → SnagEnds i s x e)
      ∧ (head.toNat % 128 = 0 → ¬before → ∀ b, read = .ok [b] →
        let d := b.toNat + 1
        let last := r.toNat + (d + w - 1) / w - 1
        let elem (j : Nat) : Option W32 := (x.slices.find? (fun t => t.idx == j % w / 4)).map (fun t =>
          t.getV (r + BitVec.ofNat 6 (j / w)) (Fin.ofNat 4 (j % w)))
        let held := ∀ k, r.toNat ≤ k → k ≤ last → k < 64 → ∀ t ∈ x.slices, t.fullV (BitVec.ofNat 6 k) false = true
        (¬held → exec i s = .next s)
        ∧ (held → 63 < last → exec i s = .next (afterTrap i s x { cls := 13, sub := 21, ecause := 21 }))
        ∧ (held → last ≤ 63 → (∃ j, j < d ∧ elem j = none) → exec i s = .next (afterTrap i s x { cls := 13, sub := 22, ecause := 22 }))
        ∧ (held → last ≤ 63 → (∀ j, j < d → elem j ≠ none) → ¬room s x → exec i s = .next s)
        ∧ (held → last ≤ 63 → ∀ q : List W32, q.length = d → (∀ j, j < d → elem j = q[j]?) → room s x →
          exec i s = .next (let e := queued s x major (op x q) o.ordBit; after e.1 { x with unit := e.2 } mark)))
  (∀ o, signed (.kst o) o o.d 0x70 (fun x key => .kst (x.low.getS o.a) (x.low.getS o.b) key) id)
  ∧ (∀ o, signed (.qsig o) o o.b 0x71 (fun x q => .qsig (x.low.getS o.a) q o.d x.js) (fun t => { t.emptyV o.d false with
      results := t.results ++ [.vector o.d false 0xF 0xF (Vector.replicate 4 0) (Vector.replicate 4 0) false] }))
  ∧ ∀ o s x, Issues (.bgather o) s x →
    let head := x.low.getS o.a
    let chan := x.low.getS (o.imm.extractLsb' 0 6)
    let bad := [(head, 128), (chan, 32)].find? (fun (b : W64 × Nat) => b.1.toNat % b.2 != 0)
    (∀ b, bad = some b → exec (.bgather o) s = .next (afterTrap (.bgather o) s x { cls := 5, sub := 0, addr := b.1 }))
    ∧ (bad = none → ¬room s x → exec (.bgather o) s = .next s)
    ∧ (bad = none → room s x → exec (.bgather o) s = .next (
        let e := queued s x 0x72 (.bgather head (x.low.getV o.b 0) (o.sec.getLsbD 0) (o.sec.getLsbD 1) chan o.d x.js) o.ordBit
        let u := if o.d = 63 then e.2 else e.2.mapSlices x.js (fun t => { t.emptyS o.d with results := t.results ++ [.scalarWait o.d] })
        e.1.setUnit (u.park x.js .probe x.size)))

/-- CHWAIT, CHREL and ROWBAR (R168, R169, R233, R363): a descriptor address off 32 bytes is class 5, a descriptor or slots that do not
translate class 3 or 4, a bad descriptor, or more slots than it has, class 13, cause 18, a poisoned one class 14. CHWAIT gives the
address of the slot at RPTR + n, once it is full; CHREL adds to RPTR; ROWBAR goes on once the channel holds its count. CHWAIT and ROWBAR
wait otherwise. The model's choices: CHREL is logged with KIND 1, as an atomic (log entry 21), and poison of a descriptor is judged
before its form (log entry 29). -/
def Obligations.ChannelInstructions : Prop :=
  let reads (i : Instr) (a : Reg) (acc : Access) (ok : State → Issue → Chan → Prop) : Prop := ∀ s x, Issues i s x →
    let va := x.low.getS a
    (va.toNat % 32 ≠ 0 → exec i s = .next (afterTrap i s x { cls := 5, sub := 0, addr := va }))
    ∧ (va.toNat % 32 = 0 → (∀ e, readChan s x.unit x.unit.id.core acc .plain va = .error e → SnagEnds i s x e)
      ∧ ∀ c, readChan s x.unit x.unit.id.core acc .plain va = .ok c → ok s x c)
  (∀ o, reads (.chwait o) o.a .read (fun s x c =>
      let s' := tlbAfter s x.unit [x.low.getS o.a]
      (c.nslot ≤ o.imm.toNat → exec (.chwait o) s = .next (afterTrap (.chwait o) s x { cls := 13, sub := 18, ecause := 18 }))
      ∧ (o.imm.toNat < c.nslot → o.imm.toNat < (c.wptr - c.rptr).toNat → exec (.chwait o) s = .next (after s' x (fun t =>
          t.putS o.d (c.base + BitVec.ofNat 64 ((c.rptr + BitVec.ofNat 32 o.imm.toNat).toNat % c.nslot * c.slotsz)))))
      ∧ (o.imm.toNat < c.nslot → (c.wptr - c.rptr).toNat ≤ o.imm.toNat → exec (.chwait o) s = .next (s'.setUnit
          ((if o.d = 63 then x.unit else x.unit.mapSlices x.js (fun t => { t.emptyS o.d with results := t.results ++ [.scalarWait o.d] })).park
            x.js (.chwait (x.low.getS o.a) o.imm.toNat o.d) x.size)))))
  ∧ (∀ o, reads (.chrel o) o.a .write (fun s x c =>
      let n := o.imm.toNat + 1
      ((c.wptr - c.rptr).toNat < n → exec (.chrel o) s = .next (afterTrap (.chrel o) s x { cls := 13, sub := 18, ecause := 18 }))
      ∧ (n ≤ (c.wptr - c.rptr).toNat → RoomEnds (.chrel o) s x (entriesFor x.unit 1 0) (fun r v =>
          let r1 := logWrite r v 1 (x.low.getS o.a + 20) (r.mem.readBytes (c.pa + 20) 4) (c.pa + 20) true false
          afterStored (performAt (tlbAfter r1 v [x.low.getS o.a]) (c.pa + 20) (leBytes (c.rptr + BitVec.ofNat 32 n).toNat 4))
            { v with autoCount := v.autoCount + 1 } x false))))
  ∧ ∀ o, reads (.rowbar o) o.a .read (fun s x c =>
      let s' := tlbAfter s x.unit [x.low.getS o.a]
      let n := (x.low.getS o.b).toNat
      (c.nslot < n → exec (.rowbar o) s = .next (afterTrap (.rowbar o) s x { cls := 13, sub := 18, ecause := 18 }))
      ∧ (n ≤ c.nslot → n ≤ (c.wptr - c.rptr).toNat → exec (.rowbar o) s = .next (after s' x id))
      ∧ (n ≤ c.nslot → (c.wptr - c.rptr).toNat < n →
        exec (.rowbar o) s = .next (s'.setUnit (x.unit.park x.js (.rowbar (x.low.getS o.a) (x.low.getS o.b)) x.size))))

/-! ### Control -/

/-- Transfers (R271, R275, R276): BR and BRC go to their own first word plus a word offset, BRC where its condition holds in the slice and on to
the next instruction where not; CALL puts the address behind it in s60 and on the return stack, whose ninth entry spills. Slices that end at one
address stay in one group (R272). -/
def Obligations.Branches : Prop :=
  let pushed (ra : W64) (t : Slice) : Slice := { t with
    retStack := (ra :: t.retStack).take 8, retSpilled := (ra :: t.retStack).drop 8 ++ t.retSpilled }
  let goTo (pc : W64) (t : Slice) : Slice := { t with pc := pc, seqF := false, replay := none }
  (∀ o s x, Issues (.br o) s x → exec (.br o) s = .next (afterTransfer s x (fun t => goTo (t.pc + 4 * o.off.signExtend 64) t)))
  ∧ (∀ o s x, Issues (.brc o) s x → exec (.brc o) s = .next (afterTransfer s x (fun t =>
      if condition (o.d.extractLsb' 0 3).toNat (if o.d.getLsbD 3 then ((t.getS o.a).toNat : Int) else (t.getS o.a).toInt) 0
      then goTo (t.pc + 4 * o.imm.signExtend 64) t else t.passed x.size)))
  ∧ ∀ o s x, Issues (.call o) s x → exec (.call o) s = .next (afterTransfer s x (fun t =>
      goTo (t.pc + 4 * o.off.signExtend 64) (pushed (t.pc + x.size) (t.putS 60 (t.pc + x.size)))))

/-- Divergence within a slice (R277): BRV runs the lanes not taken first, JOIN then those taken and at last all of them again; LOOPB opens a loop,
or leaves it where no lane is active, LOOPE goes back, BRK takes lanes out of every branch token down to the loop's, and an empty slice goes on
where the topmost token with lanes says. A 17th token, an empty stack or a token of another kind traps with class 0, subclass 3 or 8. -/
def Obligations.Divergence : Prop :=
  let goTo (pc : W64) (t : Slice) : Slice := { t with pc := pc, seqF := false, replay := none }
  let each (i : Instr) (f : Issue → Slice → Except Nat Slice) : Prop := ∀ s x, Issues i s x →
    (∀ n, x.slices.findSome? (fun t => match f x t with | .error n => some n | .ok _ => none) = some n →
      exec i s = .next (afterTrap i s x { cls := 0, sub := n }))
    ∧ ((∀ t ∈ x.slices, ∃ t', f x t = .ok t') →
      exec i s = .next (afterTransfer s x (fun t => match f x t with | .ok t' => t' | .error _ => t)))
  (∀ o, each (.brv o) (fun x t =>
      let target := t.pc + 4 * o.imm.signExtend 64
      let taken := t.mask &&& t.getK o.d.toNat
      let rest := t.mask &&& ~~~t.getK o.d.toNat
      if 16 ≤ t.tokens.length then .error 3
      else if rest = 0 then .ok (goTo target { t with mask := taken, tokens := .branch t.mask 0 0 target 0 :: t.tokens })
      else .ok ({ t with mask := rest, tokens := .branch t.mask taken 0 target 0 :: t.tokens }.passed x.size)))
  ∧ (∀ o, each (.join o) (fun x t => match t.tokens with
      | [] => .error 3
      | .branch saved other _ target _ :: ts =>
        if other ≠ 0 then .ok (goTo target { t with mask := other, tokens := .branch saved 0 t.mask target (t.pc + x.size) :: ts })
        else .ok ({ t with mask := saved, tokens := ts }.passed x.size)
      | _ :: _ => .error 8))
  ∧ (∀ o, each (.loopb o) (fun x t =>
      let exit := t.pc + 4 * o.imm.signExtend 64
      if t.mask = 0 then .ok (goTo exit t) else if 16 ≤ t.tokens.length then .error 3
      else .ok ({ t with tokens := .loop t.mask exit :: t.tokens }.passed x.size)))
  ∧ (∀ o, each (.loope o) (fun _ t => match t.tokens with
      | [] => .error 3
      | .loop _ _ :: _ => .ok (goTo (t.pc + 4 * o.off.signExtend 64) t)
      | _ :: _ => .error 8))
  ∧ ∀ o, each (.brk o) (fun x t =>
      let above := t.tokens.takeWhile (fun k => match k with | .branch _ _ _ _ _ => true | _ => false)
      let b := t.mask &&& t.getK o.d.toNat
      let broken : List Token := above.map (fun k => match k with
        | .branch saved other wait target resume => .branch (saved &&& ~~~b) (other &&& ~~~b) (wait &&& ~~~b) target resume | k => k)
      match t.tokens, t.tokens.drop above.length with
      | [], _ => .error 3
      | _, .loop saved exit :: ts =>
        if t.mask &&& ~~~b ≠ 0 then .ok ({ t with mask := t.mask &&& ~~~b, tokens := broken ++ Token.loop saved exit :: ts }.passed x.size)
        else match broken.dropWhile (fun k => match k with | .branch _ other wait _ _ => other == 0 && wait == 0 | _ => false) with
          | .branch joined other wait target resume :: more =>
            if other ≠ 0 then .ok (goTo target { t with mask := other, tokens := .branch joined 0 wait target resume :: more ++ Token.loop saved exit :: ts })
            else .ok (goTo resume { t with mask := joined, tokens := more ++ Token.loop saved exit :: ts })
          | _ => .ok (goTo exit { t with mask := saved, tokens := ts })
      | _, _ => .error 8)

/-- CALLI and RET (R278 to R281, R209, R363): a misaligned link base is class 5 before anything else, a 17th token class 0, subclass 3.
Where every lane's entry of the link table is read with form 01, each slice with lanes pushes a call token with their targets and
calls the lowest lane's target with every lane that shares it; another slice goes on. A lane whose entry does not translate, is poisoned,
has another form or names a retiring object takes its cause beside the targets that were read, by the order of classes of `Loads`; an
entry of another form alone is class 11, a retiring object's class 11, subclass 2. RET at a call token's return address calls the next
target, or, with none left, returns with the saved mask; elsewhere it is a transfer to sA. The model's choices: the target of a lane
that no entry has given yet is a free value (log entry 5), a RET that calls a further target pushes the return stack as CALLI does
(log entry 23), and poison counts last among the lanes' causes (log entry 29). -/
def Obligations.Calls : Prop :=
  let goTo (pc : W64) (t : Slice) : Slice := { t with pc := pc, seqF := false, replay := none }
  let pushed (ra : W64) (t : Slice) : Slice := { t with
    retStack := (ra :: t.retStack).take 8, retSpilled := (ra :: t.retStack).drop 8 ++ t.retSpilled }
  let sharing (todo : BitVec 4) (tgt : Vector W64 4) : BitVec 4 := lanesWhere todo (fun l => match lanesOf todo with | f :: _ => tgt[l] == tgt[f] | [] => false)
  let target (todo : BitVec 4) (tgt : Vector W64 4) : W64 := match lanesOf todo with | l :: _ => tgt[l] | [] => 0
  let called (saved todo : BitVec 4) (tgt : Vector W64 4) (cpc ra : W64) (ts : List Token) (t : Slice) : Slice :=
    if todo = 0 then goTo ra { t with mask := saved, tokens := ts }
    else goTo (target todo tgt) (pushed ra ({ t with mask := sharing todo tgt
                                                     tokens := .call saved (todo &&& ~~~sharing todo tgt) tgt cpc ra true :: ts }.putS 60 ra))
  (∀ o s x, Issues (.calli o) s x →
    let found := laneAccesses s x o.km .read .plain (fun t l => some (t.getS 61 + BitVec.ofNat 64 (8 * (t.getV o.a l).toNat)))
    let ls := markLost s (fun _ => 8) found
    let oks := laneOks ls
    let entry (u : Machine.Unit) (p : LaneAccess × Nat × BitVec 12) : Nat := fromLe (readView s u p.1.t.idx (isDirect p.2.2) p.2.1 8)
    let dest (u : Machine.Unit) (p : LaneAccess × Nat × BitVec 12) : W64 := BitVec.ofNat 64 (entry u p / 4 % 2 ^ 54 * 4)
    let code (u : Machine.Unit) (p : LaneAccess × Nat × BitVec 12) : Nat :=
      if entry u p % 4 ≠ 1 then 13 else if retiringAt s u.ctx (dest u p) then 14 else 0
    let token (u : Machine.Unit) (t : Slice) : Option (BitVec 4 × BitVec 4 × Vector W64 4 × W64 × List Token) :=
      let read (old : Fin 4 → W64) : Vector W64 4 := vec4 (fun l =>
        match (oks.filter (fun p => p.1.t.idx == t.idx && p.1.l == l && code u p == 0)).getLast? with
        | some p => dest u p | none => old l)
      match t.tokens, resolving t with
      | .call saved todo tgt _ ra _ :: ts, true => some (saved, todo, read (fun l => tgt[l]), ra, ts)
      | ts, _ => if actOf t o.km = 0 then none
          else some (t.mask, actOf t o.km, read (fun l => Config.freeValue (s.nonce + (4 * t.idx + l.val)) &&& ~~~3), t.pc + x.size, ts)
    (∀ va, laneMisaligned x o.km 8 (fun t => t.getS 61) = some va →
      exec (.calli o) s = .next (afterTrap (.calli o) s x { cls := 5, sub := 0, addr := va }))
    ∧ (laneMisaligned x o.km 8 (fun t => t.getS 61) = none →
      ((∃ t ∈ x.slices, resolving t = false ∧ actOf t o.km ≠ 0 ∧ 16 ≤ t.tokens.length) →
        exec (.calli o) s = .next (afterTrap (.calli o) s x { cls := 0, sub := 3 }))
      ∧ ((∀ t ∈ x.slices, resolving t = true ∨ actOf t o.km = 0 ∨ t.tokens.length < 16) →
        let held := readsHeld s x.unit ((laneOks found).map (fun p => (p.1.t.idx, p.2.1)))
        (held = true → exec (.calli o) s = .next s)
        ∧ (held = false → joinReads x.unit (snapshotLines (oks.map (fun p => p.2))) = none → exec (.calli o) s = .next (afterAbort s x 3))
        ∧ ∀ u, held = false → joinReads x.unit (snapshotLines (oks.map (fun p => p.2))) = some u →
          let s' := { tlbAfter s u (oks.map (fun p => p.1.va)) with nonce := s.nonce + 32 }
          let bad : List (LaneAccess × Nat) := ls.filterMap (fun a => match a.res with
            | .error c => some (a, c)
            | .ok p => if code u (a, p) = 0 then none else some (a, code u (a, p)))
          (bad = [] → exec (.calli o) s = .next (s'.setUnit ((u.mapSlices x.js (fun t => match token u t with
            | some (saved, todo, tgt, ra, ts) => called saved todo tgt t.pc ra ts t
            | none => t.passed x.size)).regroup x.js)))
          ∧ (∀ t, laneFault .read bad = some t → exec (.calli o) s = .next (afterTrapIn (.calli o) s' (u.mapSlices x.js (fun t => match token u t with
              | some (saved, todo, tgt, ra, ts) => { t with tokens := .call saved todo tgt t.pc ra false :: ts }
              | none => t)) x t))
          ∧ (laneBad ls = [] → ∀ b bs, bad = b :: bs → laneFault .read bad = some
              { cls := 11, sub := b.2 - 12, replay := laneSet (bad.map (fun p => p.1)), faulted := laneSet (bad.map (fun p => p.1))
                lcause := bad.foldl (fun m p => m ||| BitVec.ofNat 128 p.2 <<< (16 * p.1.t.idx + 4 * p.1.l.val)) 0 }))))
  ∧ ∀ o s x, Issues (.ret o) s x →
    let bad := (x.slices.map (fun t => t.getS o.a)).find? (fun va => va.toNat % 4 != 0)
    (∀ va, bad = some va → exec (.ret o) s = .next (afterTrap (.ret o) s x { cls := 5, sub := 0, addr := va }))
    ∧ (bad = none → (∃ t ∈ x.slices, retCalls o.a t = true ∧ t.fullS 60 = false) → exec (.ret o) s = .next s)
    ∧ (bad = none → (∀ t ∈ x.slices, retCalls o.a t = true → t.fullS 60 = true) → exec (.ret o) s = .next (afterTransfer s x (fun t =>
        let p := if t.retStack = [] then { t with retSpilled := t.retSpilled.drop 1 } else { t with retStack := t.retStack.drop 1 }
        match t.tokens with
        | .call saved todo tgt cpc ra true :: ts => if ra = t.getS o.a then called saved todo tgt cpc ra ts p else goTo (t.getS o.a) p
        | _ => goTo (t.getS o.a) p)))

/-- BRW, REGANG, TICKW and SETPL (R272, R286, R287, R292, R293): BRW falls through on the chosen end flag and branches otherwise, illegal without a
binding; REGANG passes where the gang is in one group and waits otherwise; TICKW waits until GTICK has reached every slice's value; SETPL
sets the demand, at most 4. -/
def Obligations.StreamsAndTime : Prop :=
  (∀ o s x, Issues (.brw o) s x →
    ((∃ t ∈ x.slices, t.stream o.d.toNat = none) → exec (.brw o) s = .next (afterTrap (.brw o) s x { cls := 0, sub := 5 }))
    ∧ ((∀ t ∈ x.slices, t.stream o.d.toNat ≠ none) → exec (.brw o) s = .next (afterTransfer s x (fun t => match t.stream o.d.toNat with
      | some m => if m.flags.getLsbD o.imm.toNat then t.passed x.size
          else { t with pc := t.pc + 4 * (o.a ++ o.b ++ BitVec.ofBool o.fa ++ BitVec.ofBool o.fb).signExtend 64, seqF := false, replay := none }
      | none => t))))
  ∧ (∀ o s x, Issues (.regang o) s x →
    (x.unit.joined = true → exec (.regang o) s = .next (after s x id))
    ∧ (x.unit.joined = false → exec (.regang o) s = .next (afterPark s x .regang)))
  ∧ (∀ o s x, Issues (.tickw o) s x →
    ((∀ t ∈ x.slices, (t.getS o.a).toNat ≤ s.gtick.toNat) → exec (.tickw o) s = .next (after s x id))
    ∧ ∀ m, (∃ t ∈ x.slices, t.getS o.a = m) → (∀ t ∈ x.slices, (t.getS o.a).toNat ≤ m.toNat) → s.gtick.toNat < m.toNat →
      exec (.tickw o) s = .next (afterPark s x (.tickw m)))
  ∧ ∀ o s x, Issues (.setpl o) s x →
    exec (.setpl o) s = .next (after s x (fun t => { t with demand := if 4 < (t.getS o.a).toNat then 4 else (t.getS o.a).toNat }))

/-! ### Teams, launches and system registers -/

/-- EXIT and WBAR (R282, R291, R355): a gang's EXIT and WBAR end in a PHASE, for whose marks the log needs room, behind which the slices have
exited or wait for the round; an engine member exits, or waits, at once. With its last member a team ends. The model's choices (log entry
22): an engine member's EXIT has no PHASE, slices that exit leave their member's arrivals to the slices that are left, and where all of
those wait at a WMARK the group of the first executes it again. -/
def Obligations.ExitAndRound : Prop :=
  let exited (t : Slice) : Slice := { t with run := .exited, tokens := [], retStack := [], retSpilled := [] }
  let gone (u : Machine.Unit) (js : List Nat) : Machine.Unit :=
    let v := u.mapSlices js exited
    let left := v.slices.filter (fun t => t.run != .exited)
    let v := { v with exited := v.slices.all (fun t => t.run == .exited) }
    match left with
    | t :: _ => if left.all atWmark then
        v.mapSlices ((left.filter (fun y => y.grp == t.grp)).map (fun y => y.idx)) (fun y => { y with run := .running }) else v
    | [] => v
  let ended (s : State) (team : Nat) : State :=
    if s.units.all (fun u => u.team != team || u.exited) then
      { s with teams := s.teams.map (fun t => if t.id == team then { t with ended := true } else t) } else s
  (∀ o s x, Issues (.exit o) s x →
    ((x.unit.id.kind = .sluice ∨ x.unit.id.kind = .harrow) → exec (.exit o) s = .next (ended (s.setUnit (gone x.unit x.js)) x.unit.team))
    ∧ (x.unit.id.kind ≠ .sluice → x.unit.id.kind ≠ .harrow → RoomEnds (.exit o) s x (entriesFor x.unit 0 1) (fun r v =>
        if v.quiet then
          let p := doPhase r v x.pc
          let b := boundary p.1 (gone p.2 x.js) x.pc true
          ended (arriveWithout (b.1.setUnit b.2) b.2.team b.2.id) b.2.team
        else r.setUnit (v.park x.js (.phase .exit) x.size))))
  ∧ ∀ o s x, Issues (.wbar o) s x →
    ((x.unit.id.kind = .sluice ∨ x.unit.id.kind = .harrow) → exec (.wbar o) s = .next (afterPark s x .wbar))
    ∧ (x.unit.id.kind ≠ .sluice → x.unit.id.kind ≠ .harrow → RoomEnds (.wbar o) s x (entriesFor x.unit 0 2) (fun r v =>
        if v.quiet then
          let p := doPhase r v x.pc
          p.1.setUnit (p.2.park x.js .wbar x.size)
        else r.setUnit (v.park x.js (.phase .wbar) x.size)))

/-- HAND, BARA and BARW (R288 to R290): a unit bound to neither role passes; a sender that is not alone, a role without members, or a vector
hand-over of a harrow member is class 0, subclass 9. A sender waits while an earlier payload of the instruction is not taken, then puts
its own in the buffer; a receiver that finds its pass's payload takes it, and waits otherwise. BARA arrives and goes on, or waits for an unfinished
generation at which it has arrived; BARW waits for the generation of its arrivals; outside the group both are class 0, subclass 10. That a
generation is the count of a member's arrivals, and that a sender with its entry taken does not issue, is the model's choice (log entry
22). -/
def Obligations.HandOver : Prop :=
  (∀ o s x t, Issues (.hand o) s x → s.team? x.unit.team = some t →
    let members (r : Nat) : List UnitId := ((t.roles.find? (fun e => e.1 == r)).map (fun e => e.2)).getD []
    let from_ := members (o.imm.extractLsb' 0 3).toNat
    let to_ := members (o.imm.extractLsb' 3 3).toNat
    let vec := o.imm.getLsbD 6
    let sends := from_.contains x.unit.id
    let takes := to_.contains x.unit.id
    let bad := from_.length ≠ 1 ∨ to_ = [] ∨ (vec = true ∧ ∃ m ∈ from_ ++ to_, m.kind = .harrow)
    let off := x.pc.toNat
    let n := countOf x.low.handPass off + 1
    let full := if vec then x.slices.all (fun y => y.fullV o.d false) else x.slices.all (fun y => y.fullS o.d)
    let must := sends && x.unit.slices.all (fun y => decide (countOf y.handPass off < n))
    let free := t.hand.all (fun h => h.off != off || payloadTaken s t h)
    let u := x.unit.mapSlices x.js (fun y => { y with handPass := countUp y.handPass off })
    let t' := if must then { t with hand := t.hand.filter (fun h => h.off != off) ++
        [{ off := off, pass := n, scalar := x.low.getS o.d, toRole := (o.imm.extractLsb' 3 3).toNat, taken := [], slices := []
           vec := if vec then (List.range 32).map (fun i => match x.slices.find? (fun y => y.idx == i / 4) with
             | some y => y.getV o.d (Fin.ofNat 4 i) | none => 0) else [] }] } else t
    (sends = false → takes = false → exec (.hand o) s = .next (after s x id))
    ∧ ((sends = true ∨ takes = true) → bad → exec (.hand o) s = .next (afterTrap (.hand o) s x { cls := 0, sub := 9 }))
    ∧ ((sends = true ∨ takes = true) → ¬bad → full = true → (must = true → free = true) →
      (takes = false → exec (.hand o) s = .next (after (s.setTeam t') { x with unit := u } id))
      ∧ (takes = true → (∀ h ∈ t'.hand, ¬(h.off = off ∧ h.pass = n)) →
        exec (.hand o) s = .next ((s.setTeam t').setUnit (u.park x.js (.handRecv off n vec o.d) x.size)))
      ∧ (takes = true → ∀ h, t'.hand.find? (fun h => h.off == off && h.pass == n) = some h → exec (.hand o) s = .next (
          let r := receiveHand (s.setTeam t') t' u h x.js vec o.d
          after r.1 { x with unit := r.2 } id)))
    ∧ ((sends = true ∨ takes = true) → ¬bad → (full = false ∨ (must = true ∧ free = false)) → exec (.hand o) s = .next s))
  ∧ (∀ o s x, Issues (.hand o) s x → s.team? x.unit.team = none → exec (.hand o) s = .next (after s x id))
  ∧ (∀ o s x, Issues (.bara o) s x →
    (barrierOf s x.unit o.imm.toNat = none → exec (.bara o) s = .next (afterTrap (.bara o) s x { cls := 0, sub := 10 }))
    ∧ ∀ t b, barrierOf s x.unit o.imm.toNat = some (t, b) →
      (b.gen < countOf x.unit.arrived o.imm.toNat → exec (.bara o) s = .next (afterPark s x (.bara o.imm.toNat)))
      ∧ (countOf x.unit.arrived o.imm.toNat ≤ b.gen → exec (.bara o) s = .next (
          let r := arriveAt s t b (x.unit.mapSlices x.js (fun y => { y with barPass := countUp y.barPass o.imm.toNat }))
          after r.1 { x with unit := r.2 } id)))
  ∧ ∀ o s x, Issues (.barw o) s x →
    (barrierOf s x.unit o.imm.toNat = none → exec (.barw o) s = .next (afterTrap (.barw o) s x { cls := 0, sub := 10 }))
    ∧ ∀ t b, barrierOf s x.unit o.imm.toNat = some (t, b) →
      (countOf x.unit.arrived o.imm.toNat ≤ b.gen → exec (.barw o) s = .next (after s x id))
      ∧ (b.gen < countOf x.unit.arrived o.imm.toNat →
        exec (.barw o) s = .next (afterPark s x (.barw o.imm.toNat (countOf x.unit.arrived o.imm.toNat))))

/-- LAUNCH (R166, R294, R355, R408): a record off 64 bytes is class 5, one that does not translate class 3 or 4, and a weight store in its
refresh window holds it. With room in the log the 192 bytes are read, an irreversible mark is logged, and sD receives 2 where the queue
takes no launches from this context, 1 where it is full, and 0 where the record has been written to the slot at WPTR, each granule of an
interleaved window under its stacked name (R158), and WPTR has advanced. The model's choices: the mark is KIND 3 whatever the status
(log entry 21), a queue that is not opened or is fed otherwise answers 2 (log entry 26), and the record's context is that of the
launching team (log entry 28). -/
def Obligations.LaunchInstruction : Prop :=
  ∀ o s x, Issues (.launch o) s x →
    let va := x.low.getS o.a
    let q := o.imm.toNat
    let words := (List.range 24).map (fun k => (x.low, va + BitVec.ofNat 64 (8 * k)))
    (va.toNat % 64 ≠ 0 → exec (.launch o) s = .next (afterTrap (.launch o) s x { cls := 5, sub := 0, addr := va }))
    ∧ (va.toNat % 64 = 0 → (∀ t, scalarPlaces s x.unit .read .plain words = .error t → exec (.launch o) s = .next (afterTrap (.launch o) s x t))
      ∧ ∀ ps, scalarPlaces s x.unit .read .plain words = .ok ps →
        (refreshing s (ps.map (fun p => p.2.2.1)) = true → exec (.launch o) s = .next s)
        ∧ (refreshing s (ps.map (fun p => p.2.2.1)) = false → RoomEnds (.launch o) s x (entriesFor x.unit 1 0) (fun r v =>
          let d := r.queue q
          let status := if !d.serves || !d.dev || !(r.ctx v.ctx).qmask.getLsbD q then 2
            else if d.nslot.toNat ≤ (d.wptr - d.rptr).toNat then 1 else 0
          let record := ps.flatMap (fun p => (List.range 8).map (fun i =>
            cmdByte r { held := [], may := v.own } (isDirect p.2.2.2) (p.2.2.1 + i)))
          let r1 := logMark r v 3 x.pc
          let r2 := if status = 0 then (publishParts r1 v.id (d.rbase.toNat + d.wptr.toNat % d.nslot.toNat * 192) record).setQueue q
              { d with wptr := d.wptr + 1, askers := d.askers ++ [(d.wptr, v.ctx)] } else r1
          afterStored { tlbAfter r2 v [va] with nonce := r2.nonce + 1 }
            (v.mapSlices x.js (fun t => t.putS o.d (BitVec.ofNat 64 status))) x false)))

/-- System registers (R32, R337, R338): SYSR gives each slice its register's value; SYSW takes FPCTL and FPSTAT from each slice's own sA and
any other register from the lowest slice's, LOGPOL and LOGBASE for the next window, and a value outside the register's form is class 0,
subclass 6. The .CTX forms act on the live context that sB names: TRAPBASE, DELEG and DBGCTL also reach its table entry, LOGPOL and LOGBASE
the next windows of its gangs, saved ones too, and the teams of launches accepted so far, and SRSEED the executing gang at once. Registers
that level U may not touch, or that nobody writes, are class 2. The values are those of the slice, the gang, the core, the die or the
context that holds the register, UNITID by its fields. That SYSW ignores the bits of sA above the register's width (log entry 26), and that
a launch accepted later brings LOGPOL and LOGBASE of its own (DEDUCED, log entry 13), are the model's readings. -/
def Obligations.SystemRegisters : Prop :=
  let queuedScalar (d : Reg) (v : Slice → W64) (t : Slice) : Slice := { t.emptyS d with results := t.results ++ [.scalar d (v t)] }
  (∀ o s x, Issues (.sysr o) s x →
    (o.imm.toNat ∈ [0x50, 0x51, 0x52] → x.unit.isS = false → exec (.sysr o) s = .next (afterTrap (.sysr o) s x { cls := 2, sub := 0 }))
    ∧ ((o.imm.toNat ∈ [0x50, 0x51, 0x52] → x.unit.isS = true) →
      exec (.sysr o) s = .next (after s x (queuedScalar o.d (fun t => systemRegister s x.unit t o.imm.toNat)))))
  ∧ (∀ s u t, systemRegister s u t 0 = s.gtick ∧ systemRegister s u t 2 = BitVec.ofNat 64 u.ctx ∧ systemRegister s u t 3 = t.fpctl.setWidth 64
      ∧ systemRegister s u t 6 = BitVec.ofNat 64 (u.count 0 + 2 ^ 8 * u.count 1 + 2 ^ 16 * u.count 2 + 2 ^ 24 * u.count 3)
      ∧ systemRegister s u t 4 = t.fpstat.setWidth 64 ∧ systemRegister s u t 5 = u.srseed ∧ systemRegister s u t 0x30 = u.winno.setWidth 64
      ∧ systemRegister s u t 0x31 = u.logpol.setWidth 64 ∧ systemRegister s u t 0x32 = u.logbase
      ∧ systemRegister s u t 0x40 = (s.ctx u.ctx).trcbase ∧ systemRegister s u t 0x50 = (s.ctx u.ctx).trapbase
      ∧ systemRegister s u t 0x41 = (s.ctx u.ctx).trstat ∧ systemRegister s u t 0x42 = (s.ctx u.ctx).sampk
      ∧ systemRegister s u t 0x51 = (s.ctx u.ctx).deleg.setWidth 64 ∧ systemRegister s u t 0x52 = (s.ctx u.ctx).dbgctl.setWidth 64
      ∧ (u.id.core < 16384 → systemRegister s u t 0x20 = s.rfsched.getD (u.id.core / 1024) 0
          ∧ systemRegister s u t 0x21 = s.rfphase.getD (u.id.core / 1024) 0)
      ∧ (∀ i : Fin 8, systemRegister s u t (8 + i.val) = ((s.coreAt u.id.core).tctl[i]).setWidth 64)
      ∧ ∀ m n, s.team? u.team = some m → m.cores[n]? = some u.id.core → (∀ j, j < n → m.cores[j]? ≠ some u.id.core) → n < 128 →
          u.id.kind = .gang → u.id.core < 16384 → u.id.slot < 16 → t.idx < 8 →
          let w := systemRegister s u t 1
          w.extractLsb' 0 4 = BitVec.ofNat 4 (u.id.core / 1024) ∧ w.extractLsb' 4 3 = BitVec.ofNat 3 (u.id.core / 128 % 8)
          ∧ w.extractLsb' 7 7 = BitVec.ofNat 7 (u.id.core % 128) ∧ w.extractLsb' 14 4 = BitVec.ofNat 4 u.id.slot
          ∧ w.extractLsb' 18 3 = BitVec.ofNat 3 t.idx ∧ w.extractLsb' 21 7 = BitVec.ofNat 7 n ∧ w.extractLsb' 28 36 = 0)
  ∧ (∀ c : Context, ∀ p ∈ [(5, c.srseed), (0x31, c.logpol.setWidth 64), (0x32, c.logbase), (0x40, c.trcbase), (0x41, c.trstat),
      (0x42, c.sampk), (0x50, c.trapbase), (0x51, c.deleg.setWidth 64), (0x52, c.dbgctl.setWidth 64)], contextRegister c p.1 = p.2)
  ∧ (∀ o s x, Issues (.sysw o) s x →
    let n := o.imm.toNat
    let v := x.low.getS o.a
    (n ∈ [0, 1, 2, 6, 8, 9, 10, 11, 12, 13, 14, 15, 0x30] → exec (.sysw o) s = .next (afterTrap (.sysw o) s x { cls := 2, sub := 0 }))
    ∧ (n ∉ [0, 1, 2, 6, 8, 9, 10, 11, 12, 13, 14, 15, 0x30] → n ≠ 3 → n ≠ 4 → n ≠ 5 → x.unit.isS = false →
      exec (.sysw o) s = .next (afterTrap (.sysw o) s x { cls := 2, sub := 0 }))
    ∧ ((n = 3 ∨ n = 4) → (∃ t ∈ x.slices, registerForm n (t.getS o.a) = false) →
      exec (.sysw o) s = .next (afterTrap (.sysw o) s x { cls := 0, sub := 6 }))
    ∧ (n = 3 → (∀ t ∈ x.slices, registerForm 3 (t.getS o.a) = true) →
      exec (.sysw o) s = .next (after s x (fun t => { t with fpctl := (t.getS o.a).setWidth 32 })))
    ∧ (n = 4 → (∀ t ∈ x.slices, registerForm 4 (t.getS o.a) = true) →
      exec (.sysw o) s = .next (after s x (fun t => { t with fpstat := (t.getS o.a).setWidth 32 })))
    ∧ (n = 5 → exec (.sysw o) s = .next (after (s.setCtx x.unit.ctx { s.ctx x.unit.ctx with srseed := v })
        { x with unit := { x.unit with srseed := v } } id))
    ∧ (x.unit.isS = true → n ∈ [0x20, 0x21, 0x31, 0x32, 0x40, 0x41, 0x42, 0x50, 0x51, 0x52] →
      (registerForm n v = false → exec (.sysw o) s = .next (afterTrap (.sysw o) s x { cls := 0, sub := 6 }))
      ∧ (registerForm n v = true → exec (.sysw o) s = .next (let w := writeSystem s x.unit n v; after w.1 { x with unit := w.2 } id))))
  ∧ (∀ s u v, writeSystem s u 0x31 v = (s, { u with nextLogpol := v.setWidth 32 }) ∧ writeSystem s u 0x32 v = (s, { u with nextLogbase := v })
      ∧ writeSystem s u 0x40 v = (s.setCtx u.ctx { s.ctx u.ctx with trcbase := v }, u)
      ∧ writeSystem s u 0x20 v = ({ s with rfsched := s.rfsched.set (coreDie u.id.core) v }, u)
      ∧ writeSystem s u 0x21 v = ({ s with rfphase := s.rfphase.set (coreDie u.id.core) v }, u)
      ∧ writeSystem s u 0x50 v = (publishAt (s.setCtx u.ctx { s.ctx u.ctx with trapbase := v }) u.id
          (canonPa (s.ctxtab.toNat + 64 * u.ctx + 24)) (leBytes v.toNat 8), u))
  ∧ (∀ o s x, Issues (.sysrCtx o) s x →
    let b := (x.low.getS o.b).toNat
    (x.unit.isS = false → exec (.sysrCtx o) s = .next (afterTrap (.sysrCtx o) s x { cls := 2, sub := 0 }))
    ∧ (x.unit.isS = true → (64 ≤ b ∨ (s.ctx b).live = false) → exec (.sysrCtx o) s = .next (afterTrap (.sysrCtx o) s x { cls := 0, sub := 6 }))
    ∧ (x.unit.isS = true → b < 64 → (s.ctx b).live = true →
      exec (.sysrCtx o) s = .next (after s x (queuedScalar o.d (fun _ => contextRegister (s.ctx b) o.imm.toNat)))))
  ∧ ∀ o s x, Issues (.syswCtx o) s x →
    let b := (x.low.getS o.b).toNat
    let n := o.imm.toNat
    let v := x.low.getS o.a
    (x.unit.isS = false → exec (.syswCtx o) s = .next (afterTrap (.syswCtx o) s x { cls := 2, sub := 0 }))
    ∧ (x.unit.isS = true → (64 ≤ b ∨ (s.ctx b).live = false ∨ registerForm n v = false) →
      exec (.syswCtx o) s = .next (afterTrap (.syswCtx o) s x { cls := 0, sub := 6 }))
    ∧ (x.unit.isS = true → b < 64 → (s.ctx b).live = true → registerForm n v = true →
      let s0 := storeEntry (s.setCtx b ((s.ctx b).write n v)) x.unit.id b n v
      let s1 : State := { s0 with launches := s0.launches.map (fun l => if l.ctx == b then { l with record :=
        if n = 0x31 then { l.record with logp := v.setWidth 32 } else if n = 0x32 then { l.record with logb := v } else l.record } else l) }
      let s2 := s1.mapEvery (fun u => u.ctx == b) (fun u =>
        if n = 0x31 then { u with nextLogpol := v.setWidth 32 } else if n = 0x32 then { u with nextLogbase := v }
        else if n = 5 ∧ u.id = x.unit.id then { u with srseed := v } else u)
      exec (.syswCtx o) s = .next (after s2 { x with unit := (s2.unit? x.unit.id).getD x.unit } id))

/-- TLBINV, ECALL and FLUSHW (R339 to R341): TLBINV is class 2 at level U; at level S the entries it names leave every TLB, and its group
waits for the accesses translated under them. ECALL at level U waits for one of its die's places, posts its request with s0 to s7, an
irreversible mark and its number, and its group waits; at level S it is illegal. FLUSHW spills the gang's entries, ring by ring, visible to
it at once; while a ring that takes entries is too full for them it waits. What TLBINV waits for, and how a ring's room is counted, are the
model's readings (log entries 21, 22). -/
def Obligations.SupervisorCalls : Prop :=
  let gone (s : State) (x : Issue) (c : Option Nat) (page : Option W64) (p : TlbEntry → Bool) : State :=
    ({ s with tlb := s.tlb.filter (fun e => !p e.2) } : State).setUnit
      (x.unit.park x.js (.tlbinv c page) x.size)
  (∀ i, ((∃ o, i = .tlbinvPage o) ∨ (∃ o, i = .tlbinvCtx o) ∨ ∃ o, i = .tlbinvAll o) → ∀ s x, Issues i s x → x.unit.isS = false →
    exec i s = .next (afterTrap i s x { cls := 2, sub := 0 }))
  ∧ (∀ o s x, Issues (.tlbinvPage o) s x → x.unit.isS = true → exec (.tlbinvPage o) s = .next (
      let c := (x.low.getS o.a).toNat % 64
      gone s x (some c) (some (x.low.getS o.b)) (fun e => e.ctx == c && e.va ≤ (x.low.getS o.b).toNat && (x.low.getS o.b).toNat < e.va + e.size)))
  ∧ (∀ o s x, Issues (.tlbinvCtx o) s x → x.unit.isS = true → exec (.tlbinvCtx o) s = .next (
      let c := (x.low.getS o.a).toNat % 64
      gone s x (some c) none (fun e => e.ctx == c)))
  ∧ (∀ o s x, Issues (.tlbinvAll o) s x → x.unit.isS = true → exec (.tlbinvAll o) s = .next (gone s x none none (fun _ => true)))
  ∧ (∀ o s x, Issues (.ecall o) s x →
    (x.unit.isS = true → exec (.ecall o) s = .next (afterTrap (.ecall o) s x { cls := 0, sub := 0 }))
    ∧ (x.unit.isS = false →
      let used := (s.ecalls.filter (fun r => r.die == coreDie x.unit.id.core)).length
      (Config.ecallRequestsPerDie ≤ used → exec (.ecall o) s = .next s)
      ∧ (used < Config.ecallRequestsPerDie → RoomEnds (.ecall o) s x (entriesFor x.unit 1 0) (fun r v =>
        let r1 := logMark r v 3 x.pc
        let q : EcallRequest :=
          { unit := v.id, team := v.team, slice := x.low.idx, ctx := v.ctx, pc := x.pc, n := o.imm
            args := (List.range 8).map (fun i => x.low.getS (BitVec.ofNat 6 i)), die := coreDie x.unit.id.core }
        ({ r1 with ecalls := r1.ecalls ++ [q] } : State).setUnit (v.park x.js .ecall x.size)))))
  ∧ ∀ o s x, Issues (.flushw o) s x →
    let mine := s.log.filter (fun e => e.of x.unit && e.spilled == none)
    let short (es : List LogEntry) : Bool := match es with
      | [] => false
      | e :: _ =>
        let ring := ringState s e.ctx e.core e.ring e.ringSize
        (ringHeader s e.ctx e.core e.ring).isSome && decide (ring.2.2 - (ring.1 - ring.2.1) / 32 < es.length)
    (mine = [] → exec (.flushw o) s = .next (after s x id))
    ∧ ((byRing mine.length mine).any short = true → exec (.flushw o) s = .next s)
    ∧ ((byRing mine.length mine).any short = false →
      let r := (byRing mine.length mine).foldl (fun r es =>
        (spill r.1 es, Overlay.layer (ringBytes r.1 (spill r.1 es) es) r.2)) ((s, []) : State × Overlay)
      let v := (r.1.unit? x.unit.id).getD x.unit
      exec (.flushw o) s = .next (after r.1 { x with unit :=
        { v with engineSeen := Overlay.layer r.2 v.engineSeen, engineCovered := Overlay.layer r.2 v.engineCovered } } id))

/-! ### Traps, lanes and recovery -/

/-- Instructions whose effect is a trap, and the return from one (R51, R348, R370, R371): FDIV and VDIV are class 0, subclass 1, whatever
their registers; TRAP is class 8 with its number; BRKPT is class 9 where it is armed and passes otherwise. TRET outside a handler is class
0, subclass 11; in one it waits for the direct stores of all the handler's slices; a frame that is poisoned in its header or in SAVES or
SAVEV of a slice is class 14 (R363); else the gang goes on as its frame says: its handler
is over, s56 to s62 and v56 to v63 hold the frame's words but where a result is still on its way, and the slices that SLICES names have the
frame's masks. A frame that sends a slice to an address that is no multiple of 4 is class 5 (R38). Where a return goes on (R279, R281,
R371): REPLAY with lanes left re-executes them alone; NEXT, and REPLAY without lanes, go on behind the instruction, REEX at it, and NEXT and
REEX of a CALLI that is still resolving pop its token; a slice stopped by an asynchronous trap goes on where it stood, with the replay that
it was about to issue there (R132). That FDIV and VDIV
trap before any other check, and what becomes of results on their way, are the model's readings (log entry 19); so is which words of the
frame count for poison (log entry 29). -/
def Obligations.TrapsAndReturns : Prop :=
  (
    (∀ o s x, s.issuer = some x → exec (.fdiv o) s = .next (afterTrap (.fdiv o) s x { cls := 0, sub := 1 })
      ∧ exec (.vdiv o) s = .next (afterTrap (.vdiv o) s x { cls := 0, sub := 1 }))
    ∧ (∀ o s x, Issues (.trap o) s x → exec (.trap o) s = .next (afterTrap (.trap o) s x { cls := 8, sub := o.imm.toNat }))
    ∧ (∀ o s x, Issues (.brkpt o) s x →
      let armed := (s.ctx x.unit.ctx).dbgctl.getLsbD 0 && (s.ctx x.unit.ctx).brk.getLsbD o.imm.toNat
      exec (.brkpt o) s = .next (if armed then afterTrap (.brkpt o) s x { cls := 9, sub := 0 } else after s x id))
    ∧ ∀ p ∈ ([(.tretNext, .next), (.tretReplay, .replay), (.tretReex, .reex)] : List ((WArgs → Instr) × TretMode)), ∀ o s x, Issues (p.1 o) s x →
      let inside : Bool := match x.unit.handler with | some hs => x.js.all (fun j => hs.contains j) | none => false
      (inside = false → exec (p.1 o) s = .next (afterTrap (p.1 o) s x { cls := 0, sub := 11 }))
      ∧ ∀ hs, inside = true → x.unit.handler = some hs →
        let back := trapReturn s x.unit p.2
        let crook := (back.slices.filter (fun t => (frameSlices s x.unit).contains t.idx)).find? (fun t => t.run != .exited && t.pc.toNat % 4 != 0)
        ((∃ d ∈ x.unit.direct, d.slice ∈ hs) → exec (p.1 o) s = .next s)
        ∧ ((∀ d ∈ x.unit.direct, d.slice ∉ hs) → framePoisoned s x.unit = true →
          exec (p.1 o) s = .next (afterTrap (p.1 o) s x { cls := 14, sub := 1 }))
        ∧ ((∀ d ∈ x.unit.direct, d.slice ∉ hs) → framePoisoned s x.unit = false →
          (∀ t, crook = some t → exec (p.1 o) s = .next (afterTrap (p.1 o) s x { cls := 5, sub := 0, addr := t.pc }))
          ∧ (crook = none → exec (p.1 o) s = .next ((s.commandsToFrame x.unit.id false).setUnit back)))
  ) ∧ (
    ∀ (s : State) (u : Machine.Unit) (m : TretMode),
      let frame := Config.scratchWindow + u.id.core * 2 ^ 18 + (Config.frameBase + Config.frameBytes * u.id.slot)
      let word (off n : Nat) : Nat := fromLe (s.mem.readBytes (frame + off) n)
      let back := trapReturn s u m
      back.handler = none
      ∧ back.slices.map (fun t => t.idx) = u.slices.map (fun t => t.idx)
      ∧ ∀ t ∈ back.slices,
        (∀ i, i < 7 → t.getS (BitVec.ofNat 6 (56 + i)) = BitVec.ofNat 64 (word (256 + 64 * t.idx + 8 * i) 8))
        ∧ (∀ i, i < 8 → ∀ l : Fin 4, t.getV (BitVec.ofNat 6 (56 + i)) l = BitVec.ofNat 32 (word (768 + 128 * t.idx + 16 * i + 4 * l.val) 4))
        ∧ (word 40 1 / 2 ^ t.idx % 2 = 1 → t.idx < 8 → (∀ y ∈ u.slices, y.idx = t.idx → ∀ k ∈ y.tokens, ∀ saved todo tgt cpc ra,
            k ≠ .call saved todo tgt cpc ra false) → t.mask = (BitVec.ofNat 32 (word 48 4)).extractLsb' (4 * t.idx) 4)
  ) ∧ (
    ∀ (s : State) (u : Machine.Unit),
      let frame := Config.scratchWindow + u.id.core * 2 ^ 18 + (Config.frameBase + Config.frameBytes * u.id.slot)
      framePoisoned s u = true ↔ poisoned s frame 128 = true
        ∨ ∃ t ∈ u.slices, poisoned s (frame + 256 + 64 * t.idx) 64 = true ∨ poisoned s (frame + 768 + 128 * t.idx) 128 = true
  ) ∧ (
    ∀ (t : Slice) (pc own size : W64) (r : LaneSet),
      (∀ m, continueSlice t m true pc own size r = { t with
        pc := own, seqF := false, behind := none, replay := match t.behind with | some (p, k) => if p = own then some k else none | none => none })
      ∧ (r ≠ 0 → continueSlice t .replay false pc own size r = { t with pc := pc, seqF := false, replay := some (r.extractLsb' (4 * t.idx) 4) })
      ∧ (r = 0 → continueSlice t .replay false pc own size r = continueSlice t .next false pc own size r)
      ∧ ((∀ saved todo tgt ra ts, t.tokens ≠ .call saved todo tgt pc ra false :: ts) →
        continueSlice t .next false pc own size r = { t with pc := pc + size, seqF := false, replay := none }
        ∧ continueSlice t .reex false pc own size r = { t with pc := pc, seqF := false, replay := none })
      ∧ ∀ saved todo tgt ra ts, t.tokens = .call saved todo tgt pc ra false :: ts → ∀ m, m ≠ .replay →
        continueSlice t m false pc own size r = { t with pc := pc + size, seqF := false, replay := none, mask := saved, tokens := ts }
  )

/-- LANEINFO, VRDN and VWRN (R19, R372 to R375): items of the gang's side-buffer record, and registers by a number in sA; in a handler the numbers 56
to 63 are those of the frame, whose reads and writes come behind the direct stores to it that are pending; one that an atomic, QSIG or
BGATHER of the trapped program is still to give is not full; a poisoned word read there is class 14, and a scalar written whole
there loses its poison (R363). A pair at an odd number is class 0, subclass 4; a register that is not full holds the instruction back. -/
def Obligations.LaneAccess : Prop :=
  let queuedScalar (d : Reg) (v : Slice → W64) (t : Slice) : Slice := { t.emptyS d with results := t.results ++ [.scalar d (v t)] }
  (∀ o s x, Issues (.laneinfo o) s x →
    let b := x.unit.side
    let item : W64 := match o.imm.toNat with
      | 0 => b.replay.setWidth 64 | 1 => b.faulted.setWidth 64 | 2 => b.lcause.extractLsb' 0 64 | 3 => b.lcause.extractLsb' 64 64
      | 4 => b.seq.setWidth 64 | 5 => b.ecause.setWidth 64 | _ => b.cls.setWidth 64
    exec (.laneinfo o) s = .next (after s x (queuedScalar o.d (fun _ => item))))
  ∧ (∀ o s x, Issues (.laneinfoV o) s x → exec (.laneinfoV o) s = .next (after s x (fun t =>
      queueElems .n32 o.d false false t ((lanesOf (actOf t o.km)).map (fun l =>
        (l, (x.unit.side.lcause.extractLsb' (16 * t.idx + 4 * l.val) 4).toNat))))))
  ∧ (∀ o s x, Issues (.laneinfoClr o) s x → exec (.laneinfoClr o) s = .next (after s
      { x with unit := { x.unit with side := { x.unit.side with replay := x.unit.side.replay &&& ~~~((x.low.getS o.a).setWidth 32) } } } id))
  ∧ ∀ s x,
    let handled : Bool := match x.unit.handler with | some hs => x.js.all (fun j => hs.contains j) | none => false
    let frame := Config.scratchWindow + x.unit.id.core * 2 ^ 18 + (Config.frameBase + Config.frameBytes * x.unit.id.slot)
    let s_ (t : Slice) (r : Reg) : W64 := if handled = true ∧ 56 ≤ r.toNat then
        BitVec.ofNat 64 (fromLe (s.mem.readBytes (frame + 256 + 64 * t.idx + 8 * (r.toNat - 56)) 8)) else t.getS r
    let v_ (t : Slice) (r : Reg) (l : Fin 4) : W32 := if handled = true ∧ 56 ≤ r.toNat then
        BitVec.ofNat 32 (fromLe (s.mem.readBytes (frame + 768 + 128 * t.idx + 16 * (r.toNat - 56) + 4 * l.val) 4)) else t.getV r l
    let due (t : Slice) (r : Reg) (scalar : Bool) : Bool :=
      x.unit.atomics.any (fun a => a.frame && a.slice == t.idx && (match a.ret, a.lane with
        | some d, none => scalar && d == r
        | some d, some _ => !scalar && (d == r || (widthOf (atomT a.ty) == 64 && d + 1 == r))
        | none, _ => false))
      || s.cores.any (fun c => c.sluice.any (fun k => k.unit == x.unit.id && k.toFrame && (match k.op with
        | .qsig _ _ d js => !scalar && d == r && js.contains t.idx
        | .bgather _ _ _ _ _ d js => scalar && d == r && js.contains t.idx
        | _ => false)))
    let full (o : WArgs) (t : Slice) : Bool :=
      let r : Reg := (t.getS o.a).setWidth 6
      if handled && decide (56 ≤ r.toNat) then !due t r (o.imm.getLsbD 0) && (!o.imm.getLsbD 1 || !due t (r + 1) (o.imm.getLsbD 0))
      else if o.imm.getLsbD 0 then t.fullS r && (!o.imm.getLsbD 1 || t.fullS (r + 1)) else t.fullV r (o.imm.getLsbD 1)
    let lostV (o : WArgs) : LaneSet := gangView x.slices (fun t => lanesWhere (actOf t o.km) (fun l =>
      let r : Reg := (t.getS o.a).setWidth 6
      let word (r : Reg) : Bool := handled && decide (56 ≤ r.toNat) && poisoned s (frame + 768 + 128 * t.idx + 16 * (r.toNat - 56) + 4 * l.val) 4
      word r || (o.imm.getLsbD 1 && word (r + 1))))
    let lost (o : WArgs) : Prop := if o.imm.getLsbD 0 = true then
        ∃ t ∈ x.slices, handled = true ∧ 56 ≤ ((t.getS o.a).setWidth 6).toNat
          ∧ poisoned s (frame + 256 + 64 * t.idx + 8 * (((t.getS o.a).setWidth 6).toNat - 56)) (if o.imm.getLsbD 1 then 16 else 8) = true
      else lostV o ≠ 0
    let pending (o : WArgs) : Prop := handled = true ∧ (∃ t ∈ x.slices, 56 ≤ ((t.getS o.a).setWidth 6).toNat)
      ∧ ∃ d ∈ x.unit.direct, d.pa < frame + Config.frameBytes ∧ frame < d.pa + d.bytes.length
    let odd (o : WArgs) : Prop := o.imm.getLsbD 1 = true ∧ ∃ t ∈ x.slices, (t.getS o.a).getLsbD 0 = true
    (∀ o, Issues (.vrdn o) s x →
      (odd o → exec (.vrdn o) s = .next (afterTrap (.vrdn o) s x { cls := 0, sub := 4 }))
      ∧ (¬odd o → ((∃ t ∈ x.slices, full o t = false) ∨ pending o) → exec (.vrdn o) s = .next s)
      ∧ (¬odd o → (∀ t ∈ x.slices, full o t = true) → ¬pending o → lost o →
        let m := if o.imm.getLsbD 0 then 0 else lostV o
        exec (.vrdn o) s = .next (afterTrap (.vrdn o) s x { cls := 14, sub := 1, replay := m, faulted := m }))
      ∧ (¬odd o → (∀ t ∈ x.slices, full o t = true) → ¬pending o → ¬lost o → exec (.vrdn o) s = .next (after s x (fun t =>
        let r : Reg := (t.getS o.a).setWidth 6
        if o.imm.getLsbD 0 then
          if o.imm.getLsbD 1 then queuedScalar (o.d + 1) (fun _ => s_ t (r + 1)) (queuedScalar o.d (fun _ => s_ t r) t)
          else queuedScalar o.d (fun _ => s_ t r) t
        else if o.imm.getLsbD 1 then queueElems .n64 o.d true false t ((lanesOf (actOf t o.km)).map (fun l =>
          (l, (v_ t r l).toNat + 2 ^ 32 * (v_ t (r + 1) l).toNat)))
        else queueElems .n32 o.d false false t ((lanesOf (actOf t o.km)).map (fun l => (l, (v_ t r l).toNat)))))))
    ∧ ∀ o, Issues (.vwrn o) s x →
      (odd o → exec (.vwrn o) s = .next (afterTrap (.vwrn o) s x { cls := 0, sub := 4 }))
      ∧ (¬odd o → ((∃ t ∈ x.slices, full o t = false) ∨ pending o) → exec (.vwrn o) s = .next s)
      ∧ (¬odd o → (∀ t ∈ x.slices, full o t = true) → ¬pending o →
        let pair := o.imm.getLsbD 1
        let putS (t : Slice) (r : Reg) (v : W64) (w : State × Machine.Unit) : State × Machine.Unit :=
          let at_ := frame + 256 + 64 * t.idx + 8 * (r.toNat - 56)
          if r = 63 then w else if handled = true ∧ 56 ≤ r.toNat then
            (clearPoison { w.1 with mem := w.1.mem.writeBytes at_ (leBytes v.toNat 8) } at_ 8, w.2)
          else (w.1, w.2.mapSlices [t.idx] (fun y => y.putS r v))
        let putV (t : Slice) (r : Reg) (l : Fin 4) (v : W32) (w : State × Machine.Unit) : State × Machine.Unit :=
          if handled = true ∧ 56 ≤ r.toNat then
            ({ w.1 with mem := w.1.mem.writeBytes (frame + 768 + 128 * t.idx + 16 * (r.toNat - 56) + 4 * l.val) (leBytes v.toNat 4) }, w.2)
          else (w.1, w.2.mapSlices [t.idx] (fun y => y.putV r l v))
        let w := x.slices.foldl (fun w t =>
          let r : Reg := (t.getS o.a).setWidth 6
          if o.imm.getLsbD 0 then
            if pair then putS t (r + 1) (t.getS (o.b + 1)) (putS t r (t.getS o.b) w) else putS t r (t.getS o.b) w
          else (lanesOf (actOf t o.km)).foldl (fun w l =>
            if pair then putV t (r + 1) l (t.getV (o.b + 1) l) (putV t r l (t.getV o.b l) w) else putV t r l (t.getV o.b l) w) w) (s, x.unit)
        exec (.vwrn o) s = .next (after w.1 { x with unit := w.2 } id))

/-- Windows, reverse steps, transactions and regions (R353, R355, R376 to R382). WMARK opens the gang's next window with the live masks of its
safe point once every slice is there; WMARK.DROP moves E up, but not beyond the gang's own window, and the entries below it go. UNDO is
class 2 at level U, waits while its scope stops, and otherwise writes its status, 6 where an operand has a bit outside its fields. TBEGIN
opens a window and a transaction, or in a parted gang goes to its label with s59 of every slice 9; TCOMMIT publishes the write set and
leaves the gang's older stores, or aborts a doomed one; TABORT aborts; outside a transaction both are class 0, subclass 12. RGNE and RGNL
keep the region stack and are class 9, subclass 1, at an armed region. The model's choice (log entry 28): at the last window number,
which no window can follow, TBEGIN does not begin and gives cause 7. Its readings (DEDUCED, log entry 22): in a parted gang TBEGIN sends the
executing slices alone to its label, and WMARK's checkpoint has the live masks of the safe point of the group that completes it. -/
def Obligations.RecoveryInstructions : Prop :=
  let abort (s : State) (x : Issue) (cause code : Nat) : State := let r := abortTxn s x.unit cause 0 code; r.1.setUnit r.2
  (∀ o s x, Issues (.wmark o) s x →
    let others := x.unit.slices.filter (fun t => t.run != .exited && !x.js.contains t.idx)
    let live := (safePoint? s x.unit.ctx x.pc).getD (allLive, allLive)
    ((∃ t ∈ others, atWmark t = false) → exec (.wmark o) s = .next (afterPark s x .wmark))
    ∧ ((∀ t ∈ others, atWmark t = true) →
      RoomEnds (.wmark o) s x (if x.unit.winno = 0xFFFFFFFF then 0 else checkpointSize x.unit live.1 live.2) (fun r v =>
        let q := openWindow r ((v.advance x.js x.size).release (others.map (fun t => t.idx))) 4 x.pc live.1 live.2
        q.1.setUnit (q.2.regroup x.js))))
  ∧ (∀ s (u : Machine.Unit) kind pc ls lv, u.winno ≠ 0xFFFFFFFF →
      let r := openWindow s u kind pc ls lv
      r.2 = { u with winno := u.winno + 1, edges := 0, logpol := u.nextLogpol, logbase := u.nextLogbase
                     checkpoints := u.checkpoints ++ [{ win := u.winno + 1, edge := 0, liveS := ls, liveV := lv, slices := u.slices.map Slice.captured }] }
      ∧ ∃ e es, r.1.log = s.log ++ e :: es ∧ e.kind = kind ∧ e.va = pc ∧ e.gang = u.gangId ∧ ∀ d ∈ es, d.kind = 8)
  ∧ (∀ o s x, Issues (.wmarkDrop o) s x → exec (.wmarkDrop o) s = .next (
      let r := releaseWindows s x.unit ((x.low.getS o.a).setWidth 32); after r.1 { x with unit := r.2 } id))
  ∧ (∀ s u w, let r := releaseWindows s u w
      r.2.earliest = max u.earliest (min w.toNat u.winno.toNat) ∧ r.2.checkpoints = u.checkpoints.filter (fun c => decide (r.2.earliest ≤ c.win.toNat))
      ∧ r.1.log = s.log.filter (fun e => !(e.of u && decide (e.win.toNat < r.2.earliest))))
  ∧ (∀ p ∈ ([(.undo, false), (.undoTeam, true)] : List ((WArgs → Instr) × Bool)), ∀ o s x, Issues (p.1 o) s x →
    let a := (x.low.getS o.a).toNat
    let b := (x.low.getS o.b).toNat
    (x.unit.isS = false → exec (p.1 o) s = .next (afterTrap (p.1 o) s x { cls := 2, sub := 0 }))
    ∧ (x.unit.isS = true →
      match reverseStep s (a % 64) (a / 64 % 2 ^ 18) (BitVec.ofNat 32 b) (b / 2 ^ 32 % 2 ^ 16) p.2 (decide (a < 2 ^ 24 ∧ b < 2 ^ 48)) with
      | .status n s' => exec (p.1 o) s = .next
          (after s' { x with unit := (s'.unit? x.unit.id).getD x.unit } (fun t => t.putS o.d (BitVec.ofNat 64 n)))
      | .waits s' => exec (p.1 o) s = .next s'))
  ∧ (∀ o s x, Issues (.tbegin o) s x →
    let label := x.pc + 4 * o.imm.signExtend 64
    let refused (why : W64) : State := s.setUnit ((({ x.unit with slices := x.unit.slices.map (fun t => t.setNow 59 why) } : Machine.Unit).mapSlices
      x.js (fun t => { t with pc := label, seqF := false, replay := none })).regroup x.js)
    (x.unit.joined = false → exec (.tbegin o) s = .next (refused 9))
    ∧ (x.unit.joined = true → x.unit.winno = 0xFFFFFFFF → exec (.tbegin o) s = .next (refused 7))
    ∧ (x.unit.joined = true → x.unit.winno ≠ 0xFFFFFFFF → RoomEnds (.tbegin o) s x (checkpointSize x.unit allLive allLive) (fun r v =>
        let q := openWindow r (v.advance x.js x.size) 7 x.pc allLive allLive
        q.1.setUnit (({ q.2 with txn := some { label := label, win := q.2.winno, reads := [], writes := [], own := [], pages := [], doomed := false
                                               slices := q.2.slices.map Slice.captured } } : Machine.Unit).regroup x.js))))
  ∧ (∀ o s x, Issues (.tcommit o) s x →
    (x.unit.txn = none → exec (.tcommit o) s = .next (afterTrap (.tcommit o) s x { cls := 0, sub := 12 }))
    ∧ ∀ t, x.unit.txn = some t → (x.unit.count 2 ≠ 0 → exec (.tcommit o) s = .next s)
      ∧ (x.unit.count 2 = 0 → t.doomed = true → exec (.tcommit o) s = .next (abort s x 1 0))
      ∧ (x.unit.count 2 = 0 → t.doomed = false → match makeRoom s x.unit 1 with
        | .room r =>
          let v := (r.unit? x.unit.id).getD x.unit
          ∃ s' u, exec (.tcommit o) s = .next s' ∧ s'.mem = Overlay.publish t.own r.mem ∧ s'.unit? x.unit.id = some u ∧ u.txn = none
            ∧ u.own = v.own ∧ u.slices = v.slices.map (fun y => if y.idx ∈ x.js then y.passed x.size else y)
            ∧ ∃ e ∈ s'.log, e.kind = 5 ∧ e.va = x.pc ∧ e.gang = x.unit.gangId
        | .trap => exec (.tcommit o) s = .next (afterTrap (.tcommit o) s x { cls := 12, sub := 0 })
        | .abort => exec (.tcommit o) s = .next (afterAbort s x 7)
        | .wait => exec (.tcommit o) s = .next s))
  ∧ (∀ o s x, Issues (.tabort o) s x →
    (x.unit.txn = none → exec (.tabort o) s = .next (afterTrap (.tabort o) s x { cls := 0, sub := 12 }))
    ∧ (x.unit.txn ≠ none → exec (.tabort o) s = .next (abort s x 2 o.imm.toNat)))
  ∧ ∀ p ∈ ([(.rgne, true), (.rgnl, false)] : List ((WArgs → Instr) × Bool)), ∀ o s x, Issues (p.1 o) s x →
    let c := s.ctx x.unit.ctx
    let full := if p.2 then x.slices.any (fun t => decide (16 ≤ t.regions.length)) else x.slices.any (fun t => t.regions == [])
    let ids := if p.2 then [o.imm] else x.slices.flatMap (fun t => t.regions.take 1)
    let edge (t : Slice) : Slice := { t with regions := if p.2 then o.imm :: t.regions else t.regions.drop 1 }
    let armed := c.dbgctl.getLsbD 0 && ids.any (fun k => c.regions.toList.contains (some k))
    (full = true → exec (p.1 o) s = .next (afterTrap (p.1 o) s x { cls := 0, sub := 3 }))
    ∧ (full = false → c.dbgctl.getLsbD 1 = false → armed = false → exec (p.1 o) s = .next (after s x edge))
    ∧ (full = false → c.dbgctl.getLsbD 1 = false → armed = true →
      exec (p.1 o) s = .next (afterTrapIn (p.1 o) s (x.unit.mapSlices x.js edge) x { cls := 9, sub := 1 }))
    ∧ (full = false → c.dbgctl.getLsbD 1 = true → RoomEnds (p.1 o) s x (checkpointSize x.unit allLive allLive) (fun r v =>
      let at_ := v.mapSlices x.js edge
      let q := takeCheckpoint r { at_.advance x.js x.size with edges := v.edges + 1 } 6 x.pc allLive allLive
      let marked : Machine.Unit := { at_ with edges := q.2.edges, checkpoints := q.2.checkpoints }
      if armed then afterTrapIn (p.1 o) q.1 marked x { cls := 9, sub := 1 } else q.1.setUnit (marked.advance x.js x.size)))

/-! ### The device's own steps -/

/-- The path of a launch (R6, R158, R245 to R251, R268, R365, R366, R410). A reset release loads the newer image whose seal matches, slot 0 where
both match and neither is newer, or holds; a new image in reset-hold fills its slot with a matching seal and is loaded; later one goes to the slot that was not loaded, its number one
more. A doorbell joins WPTR or is dropped and counted, and none is taken in reset-hold. An accepted record, read byte for byte under the
stacked names of its addresses, completes at once with the status of the check that it fails, or waits for its gate, which holds from
GATEVAL on; a head that has waited 600,000 ticks blocks lower priorities; a placement step places the first head that fits; a placed team
on powered cores starts; a round whose teams have all arrived is released; a footprint without work, of a set that S does not hold, has its
team's log spilled, which may wait for a page of its region or the end of a transaction (R322, R355), and is then
released with its units; a launch that is over adds one to DONE and leaves its completion record. The model's choices and readings: an image
written in reset-hold is loaded at once with a free sequence number (log entries 2, 5), the order of the checks, tables that are read once no
refresh window hides them, and a doorbell dropped on a queue that LAUNCH feeds (log entries 11, 13), a round released only with no team of
the launch saved (DEDUCED, log entry 20), a log that a torn-down context's footprint does not wait for (log entry 21), a footprint released
only with no operation, store or command left, DONE raised in the completion step, and which statuses add to DONE (log entry 28). -/
def Obligations.LaunchPath : Prop :=
  ∀ s : State,
  let sealed (k : Fin 2) : Prop := s.images[k].crc = crc32c s.images[k].body.bytes
  (∀ k : Fin 2, s.loaded = none → sealed k → (∀ j : Fin 2, j ≠ k → sealed j → newer s.images[k].seq s.images[j].seq = true) →
    exec .resetRelease s = .next { loadImage s k with defective := [] } ∧ (loadImage s k).pkgstat = .running ∧ (loadImage s k).loaded = some k)
  ∧ (s.loaded = none → sealed 0 → sealed 1 → (s.images[0].seq = s.images[1].seq ∨ s.images[0].seq - s.images[1].seq = 2 ^ 31) →
    exec .resetRelease s = .next { loadImage s 0 with defective := [] })
  ∧ (s.loaded = none → ¬sealed 0 → ¬sealed 1 → exec .resetRelease s = .next { s with pkgstat := .resetHold })
  ∧ (∀ (k : Fin 2) body, s.pkgstat = .resetHold → ∃ x s', s.free = (x, s') ∧ exec (.hostImageWrite k.val body) s = .next (loadImage
      { s' with images := s'.images.set k { seq := x.setWidth 32, crc := crc32c body.bytes, body := body } } k))
  ∧ (∀ (k l : Fin 2) body, s.pkgstat ≠ .resetHold → s.loaded = some l → exec (.hostImageWrite k.val body) s = .next (if l = k then s else
      { s with images := s.images.set k { seq := s.images[l].seq + 1, crc := crc32c body.bytes, body := body } }))
  ∧ (∀ q (n : W32), q < 64 →
    let d := s.queue q
    let fits : Prop := d.dev = false ∧ d.used + n.toNat ≤ d.nslot.toNat
    (s.pkgstat = .resetHold → exec (.doorbell q n) s = .next s)
    ∧ (s.pkgstat ≠ .resetHold → fits → exec (.doorbell q n) s = .next (s.setQueue q { d with wptr := d.wptr + n }))
    ∧ (s.pkgstat ≠ .resetHold → ¬fits → exec (.doorbell q n) s = .next (s.setQueue q { d with dropdb := BitVec.ofNat 32 (min (d.dropdb.toNat + 1) (2 ^ 32 - 1)) })))
  ∧ (∀ q, q < 64 → canAccept s q = true →
    let d := s.queue q
    let ctx := if d.dev then ((d.askers.find? (fun a => a.1 == d.rptr)).map (fun a => a.2)).getD d.ctx.toNat else d.ctx.toNat
    let record := fromLe ((List.range 192).map (fun i => s.mem.read (canonPa (d.rbase.toNat + d.rptr.toNat % d.nslot.toNat * 192 + i))))
    let s₁ := s.setQueue q { d with rptr := d.rptr + 1, askers := d.askers.filter (fun a => a.1 != d.rptr) }
    let settled := sameVerdict (examineLaunch s₁ q ctx d.rptr record) (examineLaunch { s₁ with refresh := [] } q ctx d.rptr record)
    (settled = false → exec (.launchAccept q) s = .next s)
    ∧ (settled = true → ∀ st, examineLaunch s₁ q ctx d.rptr record = .error st →
      exec (.launchAccept q) s = .next (writeCompletion s₁ q d.rptr st 0))
    ∧ ∀ l, settled = true → examineLaunch s₁ q ctx d.rptr record = .ok l →
      exec (.launchAccept q) s = .next { s₁ with launches := s₁.launches ++ [l], nextId := s₁.nextId + 1 })
  ∧ (∀ n l v, s.launch? n = some l → l.gateOk = false → gateWord s l = some v →
    exec (.gateSatisfied n) s = .next (if l.record.gateval.toNat ≤ v then s.setLaunch { l with gateOk := true, headSince := s.gtick.toNat } else s))
  ∧ (∀ q, exec (.headWaitExpiry q) s = .next { s with launches := s.launches.map (fun l =>
      if l.queue = q ∧ isHead l = true ∧ l.headSince + 600000 ≤ s.gtick.toNat then { l with blocking := true } else l) })
  ∧ (∀ l fs, placementChoice s = some (l, fs) → exec .placementStep s = .next (placeSet s l fs))
  ∧ (placementChoice s = none → exec .placementStep s = .next (dropUnplaceable s))
  ∧ (∀ n t l r o, s.team? n = some t → s.launch? t.launch = some l → launchRef s l = some (r, o) → canStart s t = true →
    let s₁ := t.cores.foldl (fun s c => startCore s t r c) s
    let first := l.tstart == 0 && !s₁.teams.any (fun x => x.launch == l.id && x.started)
    let s₂ := s₁.setLaunch { l with tstart := if first then s₁.gtick else l.tstart }
    let s₃ := s₂.setCtx t.ctx { s₂.ctx t.ctx with trcbase := l.record.trcb }
    exec (.teamStart n) s = .next (joinTeam (s₃.setTeam { t with started := true }) l t r o))
  ∧ (∀ n l, s.launch? n = some l →
    let finished : Prop := l.placed = l.record.nteam ∧ (∀ x ∈ s.saved, x.team.launch ≠ l.id)
      ∧ (∀ t ∈ s.teams, t.launch = l.id → teamArrived s t = true) ∧ ∃ t ∈ s.teams, t.launch = l.id ∧ t.ended = false
    let ids := (s.units.filter (fun u => s.teams.any (fun t => t.launch == l.id && t.id == u.team))).map (fun u => u.id)
    let left := ids.foldl (fun s id => match s.unit? id with | some u => leaveRound s u | none => s) s
    (finished → exec (.roundRelease n) s = .next (left.setLaunch { l with round := l.round + 1 }))
    ∧ (¬finished → exec (.roundRelease n) s = .next s))
  ∧ (∀ n t, s.team? n = some t → (t.ended = false ∨ footprintBusy s t = true ∨ setHeld s t.launch t.set = true) →
    exec (.footprintRelease n) s = .next s)
  ∧ (∀ n t, s.team? n = some t → t.ended = true → footprintBusy s t = false → setHeld s t.launch t.set = false →
    let s₁ := spillTeam s n
    let s₂ := { s₁ with
      units := s₁.units.filter (fun u => u.team != n), teams := s₁.teams.filter (fun x => x.id != n)
      monitors := s₁.monitors.filter (fun m => !s₁.units.any (fun u => u.team == n && u.id == m.unit))
      log := s₁.log.filter (fun e => e.team != n) }
    let lost := match s₁.launch? t.launch with | some l => l.status == 6 | none => false
    exec (.footprintRelease n) s = .next (if !lost && spillingTeam s₁ n then s₁ else if lost then t.cores.foldl clearCore s₂ else s₂))
  ∧ ∀ n l, s.launch? n = some l → launchOver s l = true → (s.queue l.queue).completes = true →
    let s₁ := writeCompletion (addDone (publishOverlay s device l.weights) l) l.queue l.seq l.status l.tstart
    exec (.launchComplete n) s = .next { s₁ with launches := s₁.launches.filter (fun x => x.id != l.id) }

/-- Saving and restoring teams (R28, R252, R324, R349 to R351, R366): a hard pre-emption stops a resident team's gangs, and saves it once no
producer can still fill one of its registers and no store of another team is on its way to its cores (R309); a soft one gives its gangs their budget to reach their safe points, and what is left when
it ends is saved hard; a team at WBAR makes room for its launch's own teams. A save waits while the team's log waits for its ring (R322,
R355). It leaves no unit, team, command or issue slot of the team behind, and holds its members with no transaction, store, atomic or ready result left to do, and the bytes of each of its scratchpads. A
saved team is put back onto powered free cores of its pool, gated ones being powered up first: their scratchpads then hold the saved bytes,
its members stand there with their registers, those outside a soft save's live masks 0, and its log entries name them and their places,
where those already in the ring keep their bytes; one that the distributor took off returns in the order of placement (R251, R266). A
core that held another context's state is cleared, its scratchpad zero, none of its log entries left, before its next use, once its log has
gone to its rings. A context's
teardown ends its teams, exits its members and drops what they had still to store and what is saved of them; it writes no memory. The model's
choices: a save is data of the state and not bytes of S's area, and a restored team's log entries are renamed to its new units and places,
where R351 says only that gang ids may change (DESIGN CHOICE, log entry 9); a register behind a command that cannot go on is saved still to
come, and a torn-down team's commands complete (log entry 20). -/
def Obligations.Preemption : Prop :=
  ∀ s : State,
  let hard (t : Team) : State :=
    let s₁ := s.setTeam { t with stopping := true }
    if savable s₁ t then saveTeam s₁ t false else s₁
  (∀ n t, s.team? n = some t → t.started = true → t.ended = false →
    exec (.hardPreempt n) s = .next (hard t)
    ∧ (∀ b, t.softBudget = none → b < 2 ^ 20 → exec (.softPreempt n b) s = .next (s.setTeam { t with softBudget := some (s.gtick.toNat + b) }))
    ∧ (∀ b d, t.softBudget = some d → exec (.softPreempt n b) s = .next (if softSettled s t then saveTeam s t false else s))
    ∧ (∀ d, t.softBudget = some d →
      exec (.softPreemptBudgetExpiry n) s = .next (if d ≤ s.gtick.toNat then hard t else s))
    ∧ ∀ l, s.launch? t.launch = some l → l.waiting = true → (∀ u ∈ s.units, u.team = n → atRound u = true) →
      exec (.teamSwapOut n) s = .next (if savable s t then saveTeam s t true else s))
  ∧ (∀ t, savable s t = true ↔ producersDone s t.id = true ∧ ∀ u ∈ s.units, u.team ≠ t.id →
      (∀ d ∈ u.direct, d.dest ∉ t.cores) ∧ ∀ a ∈ u.atomics, ∀ c, placeOf a.pa = .scratch c → c ∉ t.cores)
  ∧ (∀ t sw, spillingTeam (beforeSave s t.id) t.id = true → saveTeam s t sw = beforeSave s t.id)
  ∧ (∀ t sw, s.team? t.id = some t → (∀ u ∈ s.units, u.team = t.id → s.unit? u.id = some u) →
    spillingTeam (beforeSave s t.id) t.id = false →
    let s' := saveTeam s t sw
    (∀ u ∈ s'.units, u.team ≠ t.id) ∧ (∀ x ∈ s'.teams, x.id ≠ t.id)
    ∧ ∃ xs x, s'.saved = xs ++ [x] ∧ xs.map (fun y => y.team) = s.saved.map (fun y => y.team) ∧ x.team.id = t.id ∧ x.swapped = sw
      ∧ x.units.map (fun u => u.id) = (s.units.filter (fun u => u.team == t.id)).map (fun u => u.id)
      ∧ (∀ u ∈ x.units, u.txn = none ∧ u.direct = [] ∧ u.atomics = [] ∧ ∀ y ∈ u.slices, ∀ r ∈ y.results, r.ready = false)
      ∧ (s'.mem.wf = true → ∀ p ∈ t.cores.zip x.cores, ∀ a, a < 2 ^ 18 → p.2.2.1.read a = s'.mem.read (scratchPa p.1 0 + a)))
  ∧ (∀ n x l cores, s.saved.find? (fun x => x.team.id == n) = some x → s.launch? x.team.launch = some l →
    let may : Prop := takes s x l cores = true ∧ (x.swapped = true → restoreAllowed s l = true ∧ powerOrder s x l cores = true)
    (¬may → exec (.teamRestore n cores) s = .next s)
    ∧ (may →
      exec (.teamRestore n cores) s = .next (if cores.all (fun c => (s.coreAt c).power == .on) then putBack s x cores
        else cores.foldl (fun s c => s.setCore { s.coreAt c with power := powerUp s.gtick.toNat (s.coreAt c).power }) s)))
  ∧ (∀ x new, s.mem.wf = true → new.length = x.team.cores.length → new.Nodup → x.team.cores.length = x.cores.length →
    (∀ p ∈ x.cores, p.2.1.wf = true ∧ ∀ c ∈ p.2.1, c.1 < 2 ^ 18) →
    let s' := putBack s x new
    let moved (id : UnitId) : UnitId := { id with core := new.getD (x.team.cores.idxOf id.core) id.core }
    (∀ p ∈ new.zip x.cores, ∀ a, a < 2 ^ 18 → s'.mem.read (scratchPa p.1 0 + a) = p.2.2.1.read a)
    ∧ s'.units.map (fun u => u.id) = s.units.map (fun u => u.id) ++ x.units.map (fun u => moved u.id)
    ∧ (x.soft = [] → s'.units = s.units ++ x.units.map (fun u => { u with id := moved u.id, slices := u.slices.map (fun y => y.rewait.back) }))
    ∧ (∀ y ∈ s'.saved, y.team.id ≠ x.team.id)
    ∧ s'.log = s.log.map (fun e => if e.team = x.team.id then
        let name (g : BitVec 18) : BitVec 18 :=
          BitVec.ofNat 18 (new.getD (x.team.cores.idxOf (g.toNat / 16)) (g.toNat / 16) * 16 + g.toNat % 16)
        { e with core := new.getD (x.team.cores.idxOf e.core) e.core, pa := movePa x.team.cores new e.pa
                 owner := name e.owner, gang := if e.spilled = none then name e.gang else e.gang } else e))
  ∧ (∀ ls lv r w (y : Slice), (∀ q ∈ y.results, q.ready = false) → let y' := Slice.softBack (some (w, ls, lv)) y
      y'.getS r = (if ls.getLsbD r.toNat then y.getS r else 0) ∧ ∀ l, y'.getV r l = if lv.getLsbD r.toNat then y.getV r l else 0)
  ∧ (∀ core ctx old, (∀ t ∈ s.teams, core ∉ t.cores) → (s.coreAt core).lastCtx = some old → old ≠ ctx →
    let s₁ := spillAll s (unspilled s core)
    exec (.coreClear core ctx) s = .next (if outWaits s₁ (unspilled s₁ core) then s₁ else clearCore s₁ core)
    ∧ (∀ a, scratchPa core 0 ≤ a → a < scratchPa core 0 + Config.scratchBytes → (clearCore s core).mem.read a = 0)
    ∧ ∀ e ∈ (clearCore s core).log, e.core = core → e.spilled ≠ none)
  ∧ ∀ c, exec (.contextTeardown c) s = .next (dropContext s c 6)
    ∧ (∀ t ∈ (dropContext s c 6).teams, t.ctx = c → t.ended = true) ∧ (∀ x ∈ (dropContext s c 6).saved, x.team.ctx ≠ c)
    ∧ (∀ l ∈ (dropContext s c 6).launches, l.ctx = c → l.status ≠ 0 ∧ l.status ≠ 4)
    ∧ (∀ u ∈ (dropContext s c 6).units, u.ctx = c → u.id.kind ≠ .mgmt →
      u.exited = true ∧ u.txn = none ∧ u.own = [] ∧ u.direct = [] ∧ u.atomics = [])
    ∧ (dropContext s c 6).mem = s.mem

/-- Issue, power and time (R166, R253 to R261): a cycle advances GTICK, replenishes every cluster's allowance by P up to CAP, and arbitrates
its core unless its cluster's pool changes. Of the requests of a cluster, its cores' and its harrows', those are granted that the
allowance still covers or that have been withheld for 4,096 cycles, at most two of a core's gangs in a cycle, the groups that have issued in it
included. A request withheld so long is granted whatever the allowance holds, but not in a pool's change. As an instruction issues, its
weight is debited, it counts for its context, and the group has been served; one that had to wait does none of this (R256 to R258, R417). A core without a team may be gated after a window of 64
ticks, and comes up again. Groups within the drift bound again go on. A cluster that changes its pool issues nothing until the change
completes, within 600 ticks. A weight store's refresh window opens by the schedule in force and closes after WLEN ticks; a schedule as
written comes into force when a window would start, and opens one if it starts its own at that tick. The model's choices: a cycle of the cores is one tick (log entry 6), and where the old
schedule has no windows the new one takes over at once (log entry 13). -/
def Obligations.IssueAndPower : Prop :=
  ∀ s : State,
  let pausing (cl : Nat) : Prop := ∃ c ∈ s.poolChange, c.1 = cl
  (∀ core, exec (.issueArbitration core) s = .next (endCycle (
      if ∃ c ∈ (startCycle s).poolChange, c.1 = core / 128 then startCycle s else arbitrate (startCycle s) core)))
  ∧ (startCycle s).gtick = s.gtick + 1 ∧ (startCycle s).poolChange = s.poolChange ∧ (startCycle s).mem = s.mem
  ∧ (∀ (cl : Nat) (a : Int), s.allowance[cl]? = some a →
    let b := s.budgets.getD (s.pools.getD cl 1).toNat (0, 0)
    (startCycle s).allowance[cl]? = some (BitVec.ofInt 32 (min (a + b.1.toNat) b.2.toNat)).toInt)
  ∧ (∀ cl,
    let asked := ((coresInUse s).filter (fun c => clusterOf c == cl)).flatMap (fun c => coreRequests s c ++ stepRequest s c)
    let g := clusterGrants s cl
    (∀ r ∈ g.1, r ∈ asked) ∧ g.2 = s.allowance.getD cl 0 - (g.1.foldl (fun n r => n + r.weight) 0 : Nat)
    ∧ ∀ r ∈ asked, r ∉ g.1 → (r.unit.kind = .gang ∧ 2 ≤ (g.1.filter (fun x => x.unit.kind == .gang && x.unit.core == r.unit.core)).length
          + ((portsUsed s cl).filter (fun k => k == r.unit.core)).length)
      ∨ (g.2 < r.weight ∧ ∀ t, r.withheld = some t → s.gtick.toNat < t + 4096))
  ∧ (∀ core f,
    let granted := (clusterGrants s (core / 128)).1.filter (fun r => r.unit.core == core && r.unit.kind == .gang)
    let members := (coreGroups s core false).filterMap (fun g => readyGroup s g.1 g.2)
    f ∈ (arbitrate s core).focus.toList ++ (arbitrate s core).ports ↔
      f ∈ s.focus.toList ++ s.ports ∨ ∃ r ∈ granted ++ members, f = { unit := r.unit, slices := r.js, word0 := 0, word1 := 0 })
  ∧ (∀ core, (arbitrate s core).allowance = s.allowance ∧ (arbitrate s core).counts = s.counts)
  ∧ (∀ (i : Instr) (f : Focus) (t : State) (u : Machine.Unit), s.unit? f.unit = some u →
    let went : Prop := t.unit? f.unit ≠ some u ∨ (transfers i = true ∧ ∃ x, s.issuer = some x ∧ waitsToIssue s x i = false)
    let cl := f.unit.core / 128
    let marked := t.mapUnits (fun x => x.id == f.unit) (fun x => x.mapSlices f.slices (fun y => { y with served := some t.gtick.toNat }))
    (¬went → chargeIssue i f s t = t)
    ∧ (went → f.unit.kind = .mgmt → chargeIssue i f s t = marked)
    ∧ (went → f.unit.kind ≠ .mgmt → chargeIssue i f s t =
        let n := countsOf t cl
        setCounts { marked with allowance := t.allowance.set cl (BitVec.ofInt 32 (t.allowance.getD cl 0 - weightOf i)).toInt } cl
          { n with issued := n.issued + 1, byCtx := countUp n.byCtx u.ctx }))
  ∧ (∀ id sl u js r, s.unit? id = some u → (groupsOf u).find? (fun js => js.contains sl) = some js → readyGroup s u js = some r →
    let cl := id.core / 128
    let due : Prop := ∃ t, r.withheld = some t ∧ t + 4096 ≤ s.gtick.toNat
    (due → ¬pausing cl → exec (.withholdExpiry id sl) s = .next (giveSlots s [r]))
    ∧ ((¬due ∨ pausing cl) → exec (.withholdExpiry id sl) s = .next s))
  ∧ (∀ core, (∀ t ∈ s.teams, core ∉ t.cores) → (s.coreAt core).power = .on →
    exec (.gatingRequest core) s = .next (s.setCore { s.coreAt core with power := .window s.gtick.toNat }))
  ∧ (∀ core w, (∀ t ∈ s.teams, core ∉ t.cores) → (s.coreAt core).power = .window w →
    exec (.gatingWindowExpiry core) s = .next (if w + 64 ≤ s.gtick.toNat then s.setCore { s.coreAt core with power := .off } else s))
  ∧ (∀ core r, (s.coreAt core).power = .rising r → exec (.powerUpComplete core) s = .next (s.setCore { s.coreAt core with power := .on }))
  ∧ (∀ id u, s.unit? id = some u → exec (.driftStallRelease id) s =
      .next (s.setUnit (u.mapSlices ((groupsOf u).filter (fun js => !driftStalls s u js)).flatten (fun t =>
        match t.run with | .parked .drift _ _ => { t with run := .running } | _ => t))))
  ∧ (∀ cl c, cl < 128 → exec (.poolReassign cl c) s = .next (if s.pkgstat = .resetHold then s else { s with
      pools := s.pools.set cl c, poolChange := (cl, s.gtick.toNat + 600) :: s.poolChange.filter (fun x => x.1 != cl) }))
  ∧ (∀ cl, exec (.poolChangeComplete cl) s = .next { s with poolChange := s.poolChange.filter (fun x => x.1 != cl) })
  ∧ ∀ die, die < 16 →
    let old := s.rfForce.getD die (0, 0)
    let written := (s.rfsched.getD die 0, s.rfphase.getD die 0)
    let force := s.rfForce.set die written
    let new := force.getD die (0, 0)
    let period (x : W64) : Nat := x.toNat / 2 ^ 16 % 2 ^ 32
    let starts (e : W64 × W64) : Prop := period e.1 ≠ 0 ∧ e.2.toNat ≤ s.gtick.toNat ∧ (s.gtick.toNat - e.2.toNat) % period e.1 = 0
    let due : Prop := (starts old ∧ ((old.1.toNat % 2 ^ 16 ≠ 0 ∧ (die, s.gtick.toNat) ∉ s.refresh) ∨ old ≠ written)) ∨ (period old.1 = 0 ∧ old ≠ written)
    let elapsed : Prop := ∃ w ∈ s.refresh, w.1 = die ∧ w.2 + old.1.toNat % 2 ^ 16 ≤ s.gtick.toNat
    (due → starts old ∨ starts new → period new.1 ≠ 0 → new.1.toNat % 2 ^ 16 ≠ 0 → exec (.refreshWindowStart die) s = .next
      { s with rfForce := force, refresh := (die, s.gtick.toNat) :: s.refresh.filter (fun w => w.1 != die) })
    ∧ (due → ((¬starts old ∧ ¬starts new) ∨ period new.1 = 0 ∨ new.1.toNat % 2 ^ 16 = 0) → exec (.refreshWindowStart die) s = .next { s with rfForce := force })
    ∧ (¬due → exec (.refreshWindowStart die) s = .next s)
    ∧ (elapsed → exec (.refreshWindowEnd die) s = .next { s with refresh := s.refresh.filter (fun w => w.1 != die) })
    ∧ (¬elapsed → exec (.refreshWindowEnd die) s = .next s)

/-- The steps of the engines (R81, R82, R137, R140, R145, R146, R150, R154, R222 to R239, R256, R363). A K-step's first block starts when the
cluster's counter grants it, is debited 64 units of it, and else is noted as withheld; none starts in a pool's change. A block adds to each
element the exact sum of its products over the indices that no bitmap drops, rounded once. A TST or TOUT writes its rows and ends with them. A
command that reads poison ends in class 14. A sluice command starts by reading its records, then moves row by row, each row's reads and writes
as the tables of R228 to R239 have them; elements of CPRED are atomics in order, each on what the ones before it left. A condition that it meets
suspends or stops it; with the log full it gives up its turn; a stopped one is class 13 at its gang's next slot; one whose page has come starts
again or goes on. KST's link step and BGATHER's probe follow at the base die. The model's choices and readings: one command of a gang at a time
(log entry 8), a row of any command and a lane of MOEDISP as one step (log entry 23), which of its gang's later stores an engine read sees (log
entry 24), that a command which finds the log full gives up its turn (DEDUCED, log entry 27), that a harrow's class 14 waits while the gang
stands still (log entry 29), and the scale of PAD in MXFP4 and BEXP of a tile of zeros (log entry 5). -/
def Obligations.Engines : Prop :=
  ∀ (s : State) (core : Nat),
  let c := s.coreAt core
  let cl := core / 128
  let roomed (i : Instr) (u : Machine.Unit) (k : Nat) (go : State → State) : Prop :=
    match makeRoom s u k with
    | .room r => exec i s = .next (go r)
    | .abort => exec i s = .next ((abortTxn s u 7 0 0).1.setUnit (abortTxn s u 7 0 0).2)
    | _ => exec i s = .next (rotate s core u.id)
  (
    let lost (cmd : HarrowCommand) : Bool := (nextLoads cmd).any (fun p => poisoned s (scratchPa c.num p.1) p.2)
      || (nextReads cmd).1.any (fun t => c.tLost.getLsbD t) || (nextReads cmd).2.any (fun a => c.aLost.getLsbD a)
    let meets (cmd : HarrowCommand) (u : Machine.Unit) : Prop := lost cmd = true ∧ s.unit? cmd.unit = some u
    let dead (cmd : HarrowCommand) (rest : List HarrowCommand) (u : Machine.Unit) : State :=
      let s₁ := retireOp (s.setCore { harrowStopped c cmd.op with harrow := rest }) cmd.unit cmd.retireId
      let v := (s₁.unit? u.id).getD u
      if v.halt = .none ∨ v.exited = true then fatalTrap s₁ v cmd.pc { cls := 14, sub := 1, async := true }
      else s₁.setUnit { v with lostAt := some (v.lostAt.getD cmd.pc) }
    (∀ cmd rest, c.harrow = cmd :: rest → cmd.step < harrowSteps cmd.op → (∀ p ∈ s.poolChange, p.1 ≠ cl) →
      let granted : Prop := cmd.blk ≠ 0 ∨ ∃ r ∈ (clusterGrants s cl).1, r.unit.kind = .harrow ∧ r.unit.core = core
      let s₁ := setCounts { s with allowance := s.allowance.set cl (BitVec.ofInt 32 (s.allowance.getD cl 0 - 64)).toInt } cl
        { countsOf s cl with ksteps := (countsOf s cl).ksteps + 1 }
      (¬granted → exec (.harrowKstep core) s =
        .next (s.setCore { c with harrow := { cmd with withheld := some (cmd.withheld.getD s.gtick.toNat) } :: rest }))
      ∧ (granted → (∀ u, meets cmd u → exec (.harrowKstep core) s = .next (dead cmd rest u))
        ∧ ((∀ u, ¬meets cmd u) → exec (.harrowKstep core) s = .next ((if cmd.blk = 0 then s₁ else s).setCore
            { harrowBlock s c cmd with
              harrow := { cmd.nextBlock with withheld := none } :: rest
              stepped := if cmd.blk = 0 then some s.gtick.toNat else c.stepped }))))
    ∧ (∀ cmd rest, c.harrow = cmd :: rest → harrowSteps cmd.op ≤ cmd.step →
      (∀ u, meets cmd u → exec (.harrowCommandComplete core) s = .next (dead cmd rest u))
      ∧ ((∀ u, ¬meets cmd u) → cmd.step < harrowRows cmd.op → ∀ u, s.unit? cmd.unit = some u →
        let r := harrowRow c cmd
        let s₁ := engineWrite s u cmd.win cmd.pc r.1 (scratchPa core r.2.1) true r.2.2.1
        let s₂ := s₁.setCore (setHarrowHead (s₁.coreAt core) { cmd with step := cmd.step + 1, room := cmd.room - rowEntries cmd.op cmd.step })
        exec (.harrowCommandComplete core) s = .next (if r.2.2.2 then s₂.setUnit (raiseSatd cmd (refresh s₂ u)) else s₂))
      ∧ ((∀ u, ¬meets cmd u) → harrowRows cmd.op ≤ cmd.step → exec (.harrowCommandComplete core) s = .next (retireOp
            (s.setCore { harrowDone s c cmd with harrow := rest }) cmd.unit cmd.retireId)))
    ∧ (∀ (cmd : HarrowCommand) a rows cols ty rm sat fp, cmd.op = .tout a rows cols ty rm sat fp →
      (harrowRow c cmd).1 = (rows.getD cmd.step (0, 0)).1 ∧ (harrowRow c cmd).2.1 = (rows.getD cmd.step (0, 0)).2
      ∧ (harrowRow c cmd).2.2.1 = (List.range cols).flatMap (fun j => leBytes ((toutFormat ty).deliver (rmFor fp (rmOfNat rm)) sat
          (Acc.val (accGet (c.acc a) (cmd.step * 32 + j)))).1 (toutBytes ty)))
    ∧ (∀ (cmd : HarrowCommand) a ta tb ca cb ba bb, cmd.op = .mma a ta tb ca cb ba bb → a < 4 →
      (∀ i j, i < 64 → j < 32 → accGet ((harrowBlock s c cmd).acc a) (i * 32 + j) =
        if i < tileRows ca ∧ j < tileCols cb then
          Acc.round (Val.add .rne (Acc.val (accGet (c.acc a) (i * 32 + j))) (Val.sum
            (((List.range 16).filter (fun k => bitmapBit c ba (16 * cmd.blk + k) && bitmapBit c bb (16 * cmd.blk + k))).map (fun k =>
              (tileElem ca false (c.tile ta) i (16 * cmd.blk + k)).mulZ (tileElem cb true (c.tile tb) (16 * cmd.blk + k) j)))))
        else accGet (c.acc a) (i * 32 + j))
      ∧ (∀ b, b ≠ a → (harrowBlock s c cmd).acc b = c.acc b) ∧ ∀ t, (harrowBlock s c cmd).tile t = c.tile t)
    ∧ ∀ (cmd : HarrowCommand) a ta tb ca cb offs ba bb, cmd.op = .mloop a ta tb ca cb offs ba bb → a < 4 →
      let p := offs.getD cmd.step (0, 0)
      let t₁ := if cmd.step % 2 = 0 then ta else ta ^^^ 2
      let t₂ := if cmd.step % 2 = 0 then tb else tb ^^^ 2
      let d := if cmd.blk = 0 then loadTile (loadTile c t₁ (harrowBytes s cmd core p.1 (tileBytes ca))) t₂
        (harrowBytes s cmd core p.2 (tileBytes cb)) else c
      let k₀ := cmd.step * tileCols ca + 16 * cmd.blk
      ∀ i j, i < 64 → j < 32 → accGet ((harrowBlock s c cmd).acc a) (i * 32 + j) =
        if i < tileRows ca ∧ j < tileCols cb then
          Acc.round (Val.add .rne (Acc.val (accGet (c.acc a) (i * 32 + j))) (Val.sum
            (((List.range 16).filter (fun k => bitmapBit d ba (k₀ + k) && bitmapBit d bb (k₀ + k))).map (fun k =>
              (tileElem ca false (d.tile t₁) i (16 * cmd.blk + k)).mulZ (tileElem cb true (d.tile t₂) (16 * cmd.blk + k) j)))))
        else accGet (c.acc a) (i * 32 + j)
  ) ∧ (
    (∀ k u, c.sluice.find? (startable s) = some k → s.unit? k.unit = some u →
      let s₁ := { s with nonce := s.nonce + 1 }
      (∀ e, withRecord s u k.execOn k = .error e → exec (.sluiceCommandStart core) s = .next (meetSnag s₁ core u k true e))
      ∧ ∀ k₁, withRecord s u k.execOn k = .ok k₁ →
        (∀ e, startCommand s u k₁.execOn k₁ = .error e → exec (.sluiceCommandStart core) s = .next (meetSnag s₁ core u k₁ true e))
        ∧ ∀ k', startCommand s u k₁.execOn k₁ = .ok k' → exec (.sluiceCommandStart core) s = .next (rotate (setCommand s₁ core k') core u.id))
    ∧ (∀ k u, c.sluice.find? (fun k => k.phase == .rows) = some k → s.unit? k.unit = some u →
      (∀ e, nextRow s u k.execOn k = .error e → exec (.sluiceRowComplete core) s = .next (meetSnag { s with nonce := s.nonce + 2 } core u k false e))
      ∧ ∀ r, nextRow s u k.execOn k = .ok r → roomed (.sluiceRowComplete core) u (storeEntries r.writes) (fun s₁ =>
          let s₂ := rowRegisters (runStores s₁ (refresh s₁ u) k.win k.pc r.writes)
            (refresh (runStores s₁ (refresh s₁ u) k.win k.pc r.writes) u) k
          let m := k.execOn / 128
          let s₃ := setCounts (setCommand s₂ core r.cmd) m { countsOf s₂ m with rows := (countsOf s₂ m).rows + rowsWritten k r }
          rotate { s₃ with nonce := s₃.nonce + 2 } core u.id))
    ∧ (∀ k u, c.sluice.find? (overdue s) = some k → s.unit? k.unit = some u → roomed (.sluiceCommandComplete core) u 2 (fun s₁ =>
      retireCommand (engineWrite s₁ (refresh s₁ u) k.win k.pc (spadName s₁ u (recordOffset u k.seq)) (scratchPa u.id.core (recordOffset u k.seq))
        true (recordBytes k)) core u.id k))
    ∧ (∀ id u seq cause pc js, s.unit? id = some u → u.engineError = some (seq, cause, pc) → slotGroup u = some js → u.exited = false →
      u.halt = .none → u.handler = none → u.slices.any Slice.parkedHard = false →
      let p := abandonGroup s { u with engineError := none } js
      let trap : Trap := { cls := 13, sub := cause.toNat, seq := seq, ecause := cause, async := true }
      exec (.sluiceEngineError id) s = .next ((takeTrap p.1 p.2 js pc (wordsAt s u pc).1 (wordsAt s u pc).2 trap).mapUnits
        (fun x => x.id == id && x.halt == .none && x.handler.isNone) (fun x => { x with errorHold := false })))
    ∧ (∃ f : SluiceCommand → SluiceCommand, exec (.sluiceFaultResume core) s = .next (s.setCore { c with sluice := c.sluice.map f })
      ∧ ∀ k, (∀ page kind start u, k.phase = .suspended page kind start → s.unit? k.unit = some u →
          f k = if ∃ r ∈ s.requests, r.ctx = u.ctx ∧ r.page = page ∧ r.kind = kind then k
            else { k with phase := if start then .queued else .rows })
        ∧ ((∀ page kind start, k.phase ≠ .suspended page kind start) → f k = k))
    ∧ (∀ k u token key h, c.sluice.find? (fun k => k.phase == .link) = some k → s.unit? k.unit = some u → (∃ v, k.op = .kst v token key) →
      k.head = some h →
      let sig := signature h key
      (indexLost s h k.pins false [sig] = true → exec (.kstLink core) s = .next (meetSnag s core u k false .lost))
      ∧ (indexLost s h k.pins false [sig] = false →
        (linkStores s h k.pins sig token.toNat = none → exec (.kstLink core) s = .next (meetSnag s core u k false (.stop 24)))
        ∧ ∀ ws, linkStores s h k.pins sig token.toNat = some ws → roomed (.kstLink core) u (storeEntries ws) (fun s₁ =>
            setCommand (runStores s₁ (refresh s₁ u) k.win k.pc ws) core { k with touched := touchedBy k.touched ws, phase := .finished })))
    ∧ ∀ k u sig near denseOk d js h, c.sluice.find? (fun k => k.phase == .probe) = some k → s.unit? k.unit = some u →
      (∃ v ch, k.op = .bgather v sig near denseOk ch d js) → k.head = some h →
      let pans := sig.toNat % 2 ^ h.b :: if near then (List.range h.b).map (fun i => (sig.toNat % 2 ^ h.b) ^^^ 2 ^ i) else []
      (indexLost s h k.pins true pans = true → exec (.bgatherProbe core) s = .next (meetSnag s core u k false .lost))
      ∧ (indexLost s h k.pins true pans = false →
        (∀ n, probe s h k.pins sig near denseOk = .cause n → exec (.bgatherProbe core) s = .next (meetSnag s core u k false (.stop n)))
        ∧ (∀ n, probe s h k.pins sig near denseOk = .refused n → exec (.bgatherProbe core) s =
          .next (if u.halt = .none ∧ u.handler = none then refuseProbe s core u k d js n else rotate s core u.id))
        ∧ ∀ ts dense, probe s h k.pins sig near denseOk = .found ts dense →
          let held := atProbe u js
          let k' : SluiceCommand := { k with
            tokens := ts, phase := if ts = [] then .finished else .rows, flags := if dense then k.flags ||| 8 else k.flags }
          let s₁ := deliverScalar (setCommand s core k') u k held d (BitVec.ofNat 64 (ts.length + if dense then 2 ^ 32 else 0))
          exec (.bgatherProbe core) s = .next (s₁.setUnit ((refresh s₁ u).release held)))
  ) ∧ ∀ (u : Machine.Unit) (n : Nat) (k : SluiceCommand),
    let after (k : SluiceCommand) (total count : Nat) (ws : List EngineStore) : RowEnd :=
      { writes := ws, cmd := { k with row := k.row + 1, count := k.count + count, touched := touchedBy k.touched ws
                                      phase := if k.row + 1 = total then .finished else k.phase } }
    let flagged (k : SluiceCommand) (i : Nat) (b : Bool) : SluiceCommand := { k with flags := if b then k.flags ||| 1#5 <<< i else k.flags }
    let at64 (a : W64) (i : Nat) : W64 := a + BitVec.ofNat 64 i
    (∀ ld spad lr origin rows cols fmtx l, k.op = .cp ld spad lr origin rows cols fmtx → k.layout = some l →
      let o := origin.toNat
      let j := o / 2 ^ 48 % 2 ^ 16
      let coords (r c : Nat) : List Nat := [o % 2 ^ 24 + c, o / 2 ^ 24 % 2 ^ 24 + r, j % l.extent 2, j / l.extent 2 % l.extent 3,
        j / (l.extent 2 * l.extent 3)]
      let inside (r c : Nat) : Bool := decide (o % 2 ^ 24 + c < l.extent 0) && decide (o / 2 ^ 24 % 2 ^ 24 + r < l.extent 1)
      let elem (r c : Nat) : Except Snag (Nat × Nat) := if inside r c then readElem s u n k l (coords r c)
        else .ok (l.pad.toNat, (Config.freeValue s.nonce).toNat % 255)
      (ld = true → fmtx < 3 → ∀ x : Nat → Nat × Nat, (∀ c, c < cols → elem k.row c = .ok (x c)) →
        let xs := (List.range cols).map x
        let w := if fmtx = 0 then fmtBytes l.fmt else 2
        let out (y : Nat × Nat) : List Byte := if fmtx = 0 then leBytes y.1 w
          else leBytes ((formatOf (if fmtx = 1 then .bf16 else .f16)).deliver .rne false (elemValue l.fmt y)).1 2
        ∀ ws, windowWrite s u n (at64 spad (k.row * cols * w)) (xs.flatMap out) = .ok ws →
          nextRow s u n k = .ok (after (flagged k 1 (l.fmt == 7 && xs.any (fun y => y.2 == 255))) rows cols ws))
      ∧ (ld = true → fmtx = 3 → ∀ x : Nat → Nat → Nat × Nat, (∀ r c, r < rows → c < cols → elem r c = .ok (x r c)) →
        let xs := (List.range rows).flatMap (fun r => (List.range cols).map (x r))
        let tile := tileOf l.fmt (toInt 9 (Config.freeValue (s.nonce + 1)).toNat) xs
        ∀ ws, windowWrite s u n spad tile.1 = .ok ws → nextRow s u n k = .ok (after
          (flagged (flagged { k with bexp := BitVec.ofInt 9 tile.2.1 } 0 tile.2.2) 1 (l.fmt == 7 && xs.any (fun y => y.2 == 255))) 1 (rows * cols) ws))
      ∧ (ld = false → ∀ bs, windowRead s u n k (at64 spad (k.row * cols * fmtBytes l.fmt)) (cols * fmtBytes l.fmt) = .ok bs →
        ∀ ws : Nat → List EngineStore, (∀ c, c < cols → if inside k.row c then
            cmdWrite s u n false (l.base + BitVec.ofInt 64 (l.elem (coords k.row c) * fmtBytes l.fmt)) (slice bs (c * fmtBytes l.fmt) (fmtBytes l.fmt))
              = .ok (ws c)
          else ws c = []) →
        nextRow s u n k = .ok (after k (if fmtx = 3 then 1 else rows) cols ((List.range cols).flatMap ws))))
    ∧ (∀ sp dst src idx m, k.op = .cpx sp dst src idx m → ∀ bs ws, cmdRead s u k.seen n false (at64 src ((idx.getD k.row 0).toNat * m)) m = .ok bs →
      (if sp then cmdWrite s u n true (at64 dst (k.row * m)) bs else chanPush s u n dst (some bs)) = .ok ws →
      nextRow s u n k = .ok (after k idx.length 1 ws))
    ∧ (∀ dst src idx m, k.op = .cps dst src idx m → ∀ bs ws, cmdRead s u k.seen n true (at64 src (k.row * m)) m = .ok bs →
      cmdWrite s u n false (at64 dst ((idx.getD k.row 0).toNat * m)) bs = .ok ws → nextRow s u n k = .ok (after k idx.length 1 ws))
    ∧ (∀ dst src idx m op ty, k.op = .cpred dst src idx m op ty → ∀ bs, cmdRead s u k.seen n true (at64 src (k.row * m)) m = .ok bs →
      let w := tyBytes ty
      let elemVa (e : Nat) : W64 := at64 (at64 dst ((idx.getD k.row 0).toNat * m)) (e * w)
      ∀ p : Nat → Nat × BitVec 12, (∀ e, e < m / w → cmdPlace s u n .write (.reduce op ty) false (elemVa e) = .ok (p e) ∧ poisoned s (p e).1 w = false) →
      ∃ ws : List EngineStore, nextRow s u n k = .ok (after k idx.length 1 ws) ∧ ws.length = m / w ∧ ∀ e x, ws[e]? = some x →
        x.atomic = true ∧ x.va = elemVa e ∧ x.pa = (p e).1 ∧ x.direct = isDirect (p e).2 ∧
        let left (a : Nat) : Byte := (ws.take e).foldl (fun b y => if y.pa ≤ a ∧ a < y.pa + w then y.bytes.getD (a - y.pa) 0 else b) (s.mem.read a)
        x.bytes = leBytes (atomNew op ty (fromLe ((List.range w).map (fun i => left (x.pa + i)))) (fromLe (slice bs (e * w) w)) 0) w)
    ∧ (∀ sp dst lr first geom count l, k.op = .cpconv sp dst lr first geom count → k.layout = some l →
      let g := geom.toNat
      let oh := g % 2 ^ 16
      let ow := g / 2 ^ 16 % 2 ^ 16
      let p := first.toNat + k.row
      let y : Int := (p / ow % oh * (g / 2 ^ 32 % 2 ^ 4 + 1) : Nat) - (g / 2 ^ 40 % 2 ^ 8 : Nat) + (g / 2 ^ 56 % 2 ^ 4 * (g / 2 ^ 36 % 2 ^ 4 + 1) : Nat)
      let x : Int := (p % ow * (g / 2 ^ 32 % 2 ^ 4 + 1) : Nat) - (g / 2 ^ 48 % 2 ^ 8 : Nat) + (g / 2 ^ 60 % 2 ^ 4 * (g / 2 ^ 36 % 2 ^ 4 + 1) : Nat)
      let size := fmtBytes l.fmt
      let put (bs : List Byte) : Except Snag (List EngineStore) :=
        if sp then cmdWrite s u n true (at64 dst (k.row * bs.length)) bs else chanPush s u n dst (some bs)
      (l.extent 3 ≤ p / (oh * ow) → ∀ ws, (if sp then .ok [] else chanPush s u n dst none) = .ok ws →
        nextRow s u n k = .ok (after (flagged { k with nvoid := k.nvoid + 1 } 2 true) count 1 ws))
      ∧ (p / (oh * ow) < l.extent 3 → ¬(0 ≤ y ∧ y < l.extent 2 ∧ 0 ≤ x ∧ x < l.extent 1) →
        ∀ ws, put ((List.range (l.extent 0)).flatMap (fun _ => leBytes l.pad.toNat size)) = .ok ws → nextRow s u n k = .ok (after k count 1 ws))
      ∧ (p / (oh * ow) < l.extent 3 → 0 ≤ y ∧ y < l.extent 2 ∧ 0 ≤ x ∧ x < l.extent 1 →
        ∀ v : Nat → Nat × Nat, (∀ c, c < l.extent 0 → readElem s u n k l [c, x.toNat, y.toNat, p / (oh * ow)] = .ok (v c)) →
        ∀ ws, put ((List.range (l.extent 0)).flatMap (fun c => leBytes (v c).1 size)) = .ok ws → nextRow s u n k = .ok (after k count 1 ws)))
    ∧ (∀ token desc lanes, k.op = .moedisp token desc lanes →
      let x := fromLe (k.tokens.flatMap (fun w => leBytes w.toNat 4))
      let w (lo : Nat) : W64 := BitVec.ofNat 64 (x / 2 ^ lo)
      let rowb := x / 2 ^ 320 % 2 ^ 16
      let cap := x / 2 ^ 352 % 2 ^ 32
      let lane := (lanes.getD k.row (0, 0)).1
      let e := (lanes.getD k.row (0, 0)).2
      let i := at64 token lane
      let cnt := at64 (w 256) (4 * e.toNat)
      let old := pinnedWord s k.pins cnt
      let r := pinnedWord s k.pins (desc + 52)
      let stat (v : Nat) := cmdWrite s u n false (w 192 + 4 * i) (leBytes v 4)
      let entry (ovf : Nat) (va : W64) (bs : List Byte) := cmdWrite s u n false va
        (leBytes ovf 4 ++ leBytes i.toNat 4 ++ leBytes e.toNat 4 ++ leBytes 0 4 ++ bs)
      let row := cmdRead s u k.seen n false (w 0 + i * BitVec.ofNat 64 rowb) rowb
      let nexp := x / 2 ^ 336 % 2 ^ 16
      (nexp ≤ e.toNat → ∀ b, stat 0xFFFFFFFF = .ok b → nextRow s u n k = .ok (after k lanes.length 0 b))
      ∧ (e.toNat < nexp → pinnedLost s k.pins cnt = true → nextRow s u n k = .error .lost)
      ∧ (e.toNat < nexp → pinnedLost s k.pins cnt = false → old < cap → ∀ bs a b, row = .ok bs →
        entry 0 (at64 (w 64) ((e.toNat * cap + old) * (rowb + 16))) bs = .ok a → stat (e.toNat * 2 ^ 16 + old) = .ok b →
        nextRow s u n k = .ok (after k lanes.length 1 (pinnedStore k.pins cnt (old + 1) :: a ++ b)))
      ∧ (e.toNat < nexp → pinnedLost s k.pins cnt = false → cap ≤ old →
        (pinnedLost s k.pins (desc + 52) = true → nextRow s u n k = .error .lost)
        ∧ (pinnedLost s k.pins (desc + 52) = false → r < x / 2 ^ 384 % 2 ^ 32 → ∀ bs a b, row = .ok bs →
          entry 1 (at64 (w 128) (r * (rowb + 16))) bs = .ok a → stat (2 ^ 31 + r) = .ok b →
          nextRow s u n k = .ok (after (flagged k 4 true) lanes.length 0 (pinnedStore k.pins (desc + 52) (r + 1) :: a ++ b)))
        ∧ (pinnedLost s k.pins (desc + 52) = false → x / 2 ^ 384 % 2 ^ 32 ≤ r → ∀ b, stat 0xFFFFFFFE = .ok b →
          nextRow s u n k = .ok (after (flagged k 4 true) lanes.length 0 b))))
    ∧ (∀ v token key h, k.op = .kst v token key → k.head = some h →
      ∀ ws, cmdWrite s u n false (h.kbase + token * BitVec.ofNat 64 h.kpitch) (key.flatMap (fun y => leBytes y.toNat h.ksize)) = .ok ws →
      nextRow s u n k = .ok { writes := ws, cmd := { k with row := k.row + 1, touched := touchedBy k.touched ws
                                                            count := k.count + 1, phase := if k.row = 0 then .link else k.phase } })
    ∧ (∀ head q d js, k.op = .qsig head q d js → nextRow s u n k = .ok (after k 1 0 []))
    ∧ ∀ v sig near denseOk ch d js h, k.op = .bgather v sig near denseOk ch d js → k.head = some h →
      let t := k.tokens.getD k.row 0
      ∀ kb vb ws, cmdRead s u k.seen n false (at64 h.kbase (t.toNat * h.kpitch)) (h.d * h.ksize) = .ok kb →
      cmdRead s u k.seen n false (at64 h.vbase (t.toNat * h.vpitch)) h.vbytes = .ok vb →
      chanPush s u n ch (some (leBytes t.toNat 4 ++ leBytes 0 12 ++ kb ++ List.replicate ((h.d * h.ksize + 15) / 16 * 16 - kb.length) 0 ++ vb)) = .ok ws →
      nextRow s u n k = .ok (after k k.tokens.length 1 ws)

/-- The performing of loads, stores and atomics, and what reaches memory from outside (R25, R161 to R163, R186, R206, R210 to R214, R302, R352, R355,
R361, R363, R365, R406, R413, R414). A slice's oldest result that is there lands and fills its register. A direct store is performed for each
destination in order: its bytes replace those of the footprint's core, its entry takes its place among the performings, and nothing else of memory,
of the log or of any register changes. A GLOBAL-counted store is held. Of a unit's atomics one that no earlier one must precede is performed: the word
takes its new value, one entry with the old one joins the log, and the old value goes to its slice. A PHASE takes its place once its stores are held
and its atomics performed, or raises class 12 with the log full under TRAP. A peer's answer or its timeout retires an operation, one that comes late
as failed; a peer's store reaches HBM4 within its window; the host writes its own memory, and the device's through its window, by bytes or by an
AtomicOp. The model's choices: which atomic comes next is a free value (log entry 5); a log line holds four entries (log entry 29); a unit's direct
stores and atomics on one scratchpad are performed in the order of their issue, each other atomic where it may come (log entry 25, DEDUCED); class 12
at PHASE_COMPLETE, where the log is full under TRAP (log entry 22, DEDUCED). -/
def Obligations.MemoryEvents : Prop :=
  ∀ s : State,
  let placed (old new : Mem) (a : Nat) (bs : List Byte) : Prop :=
    ∀ b, new.read b = if a ≤ b ∧ b < a + bs.length then bs.getD (b - a) 0 else old.read b
  (∀ id sl u, s.unit? id = some u → exec (.loadDataReturn id sl) s = .next (s.setUnit (u.mapSlices [sl] (fun t =>
      match t.results.find? Result.ready with
      | none => t
      | some r => { landResult t r with results := t.results.eraseIdx (t.results.findIdx Result.ready) }))))
  ∧ (∀ id dest u, s.unit? id = some u → s.mem.wf = true →
    (∀ d, u.direct.find? (fun d => d.dest == dest) = some d → (∀ a ∈ u.atomics.take d.after, scratchCore a.pa ≠ some dest) →
      ∃ s' u', exec (.storePerform id dest) s = .next s' ∧ s'.unit? id = some u'
      ∧ (footprintLive s d.pa = true → placed s.mem s'.mem d.pa d.bytes) ∧ (footprintLive s d.pa = false → s'.mem = s.mem)
      ∧ u'.direct = u.direct.eraseIdx (u.direct.findIdx (fun d => d.dest == dest))
      ∧ u' = { u with direct := u'.direct, fencedDirect := u'.fencedDirect }
      ∧ (∀ k, k ≠ id → s'.unit? k = s.unit? k)
      ∧ s'.log.map (fun (e : LogEntry) => { e with order := none }) = s.log.map (fun (e : LogEntry) => { e with order := none })
      ∧ (∀ (i : Nat) (e : LogEntry), s.log[i]? = some e → s'.log[i]? = some e ∨ (e.order = none ∧ e.team = u.team ∧ e.owner = u.gangId ∧ e.eng = u.eng
        ∧ e.pa = d.pa ∧ e.direct = true ∧ s'.log[i]? = some { e with order := some s.nextId })))
    ∧ (u.direct.find? (fun d => d.dest == dest) = none → exec (.storePerform id dest) s = .next (s.setUnit u))
    ∧ (∀ d, u.direct.find? (fun d => d.dest == dest) = some d → (∃ a ∈ u.atomics.take d.after, scratchCore a.pa = some dest) →
      exec (.storePerform id dest) s = .next (s.setUnit u)))
  ∧ (∀ id u, s.unit? id = some u → exec (.storeRetire id) s =
    .next (match u.ops.find? (fun o => o.cls == 2 && o.store && o.left != 0) with | some o => s.setUnit (completeOp u o.id) | none => s))
  ∧ (∀ id u, s.unit? id = some u → u.atomics = [] → exec (.atomicPerform id) s = .next s)
  ∧ (∀ id u, s.unit? id = some u → u.atomics ≠ [] → ∃ i a, u.atomics[i]? = some a ∧ (∀ j b, j < i → u.atomics[j]? = some b → inOrder a b = false)
    ∧ exec (.atomicPerform id) s = .next (performAtomic s u i a))
  ∧ (∀ id u (i : Nat) a, s.unit? id = some u → s.mem.wf = true → u.atomics[i]? = some a →
    (∀ d ∈ u.direct, scratchCore a.pa = some d.dest → i < d.after) → a.frame = false →
    let n := tyBytes a.ty
    let old := fromLe (s.mem.readBytes a.pa n)
    let s' := performAtomic s u i a
    (footprintLive s a.pa = true → placed s.mem s'.mem a.pa (leBytes (atomNew a.op a.ty old (a.data.toNat % 2 ^ (8 * n)) a.cmp.toNat) n))
    ∧ (footprintLive s a.pa = false → s'.mem = s.mem)
    ∧ (∃ e, s'.log = s.log ++ [e] ∧ e.gang = u.gangId ∧ e.win = a.win
      ∧ (placeOf a.pa ≠ .host → e.kind = 1 ∧ e.va = a.va ∧ e.old = BitVec.ofNat 64 old) ∧ (placeOf a.pa = .host → e.kind = 3 ∧ e.va = a.pc))
    ∧ ∃ u', s'.unit? id = some u' ∧ u'.atomics = u.atomics.eraseIdx i
      ∧ (a.ret = none → u'.slices = u.slices)
      ∧ ∀ d, a.ret = some d → u'.slices = u.slices.map (fun t => if t.idx = a.slice then
          (match a.lane with
            | none => giveScalar d (if a.ty = 3 then (BitVec.ofNat 32 old).signExtend 64 else BitVec.ofNat 64 old) t
            | some l => fillLane d l (atomT a.ty) old t)
          else t))
  ∧ (∀ id u t after size, s.unit? id = some u → u.slices.find? (fun t => (phasing t).isSome) = some t → phasing t = some (after, size) →
    let js := (u.slices.filter (fun x => x.grp == t.grp && (phasing x).isSome)).map (fun x => x.idx)
    (u.quiet = false → exec (.phaseComplete id) s = .next s)
    ∧ (u.quiet = true → match makeRoom s u (phaseEntries u after) with
      | .room s₁ => exec (.phaseComplete id) s = .next (completePhase s₁ (refresh s₁ u) js t.pc (BitVec.ofNat 64 size) after)
      | .trap => exec (.phaseComplete id) s =
          .next (takeTrap s (u.mapSlices js Slice.abandon) js t.pc (wordsAt s u t.pc).1 (wordsAt s u t.pc).2 { cls := 12, sub := 0 })
      | _ => exec (.phaseComplete id) s = .next s))
  ∧ (∀ q ∈ s.peerOps, (∀ r ∈ s.peerOps, r.id = q.id → r = q) →
    let late : Prop := q.issued.toNat + q.tmo * 100 ≤ s.gtick.toNat
    (∀ ok, (¬late → exec (.peerAck q.id ok) s = .next (retirePeer s q ok)) ∧ (late → exec (.peerAck q.id ok) s = .next (retirePeer s q false)))
    ∧ (late → exec (.peerTimeout q.id) s = .next (retirePeer s q false)) ∧ (¬late → exec (.peerTimeout q.id) s = .next s))
  ∧ (∀ p,
    let w := (s.peer p).wbase.toNat * 2 ^ 20
    let reach (a n : Nat) : Prop :=
      (s.peer p).en = true ∧ w < 2 ^ 40 ∧ w ≤ a ∧ a + n ≤ w + (s.peer p).wsize.toNat * 2 ^ 20 ∧ a + n ≤ 2 ^ 40
    (∀ a bs, (reach a bs.length → exec (.peerOpArrival p (.store a bs)) s = .next (deviceWrite s a bs))
      ∧ (¬reach a bs.length → exec (.peerOpArrival p (.store a bs)) s = .next s))
    ∧ (∀ a k ty d, (reach a (tyBytes ty) →
        let old := fromLe (s.mem.readBytes (canonPa a) (tyBytes ty))
        exec (.peerOpArrival p (.atomic a k ty d)) s = .next (publishAt s device (canonPa a)
          (leBytes (atomNew k ty old (d.toNat % 2 ^ (8 * tyBytes ty)) 0) (tyBytes ty))))
      ∧ (¬reach a (tyBytes ty) → exec (.peerOpArrival p (.atomic a k ty d)) s = .next s))
    ∧ ∀ a n, exec (.peerOpArrival p (.read a n)) s = .next s)
  ∧ (∀ a bs, bs ≠ [] → a % 4096 + bs.length ≤ 4096 →
    ((∃ k, placeOf (canonPa a) = .hbm k) ∨ (∃ k, placeOf (canonPa a) = .weight k) → deviceWrite s a bs = publishAt s device (canonPa a) bs)
    ∧ ((∃ k, placeOf (canonPa a) = .scratch k) → deviceWrite s a bs = performAt s (canonPa a) bs))
  ∧ (∀ by_ a bs, s.mem.wf = true → placed s.mem (publishAt s by_ a bs).mem a bs ∧ (publishAt s by_ a bs).log = s.log)
  ∧ (∀ core n, exec (.logSpill core n) s = .next (spill s (spillable s core n)))
  ∧ (∀ c (t : Fin 8), exec (.dataPoison (.tile c t.val)) s =
    .next (s.setCore { s.coreAt c with tLost := (s.coreAt c).tLost ||| 1#8 <<< t.val }))
  ∧ (∀ c (a : Fin 4), exec (.dataPoison (.acc c a.val)) s =
    .next (s.setCore { s.coreAt c with aLost := (s.coreAt c).aLost ||| 1#4 <<< a.val }))
  ∧ (∀ a, a < 2 ^ 40 → exec (.dataPoison (.memory a)) s = .next (addPoison s (canonPa a)))
  ∧ (∀ n, ∀ e ∈ s.log, e.id = n → (∀ x ∈ s.log, x.id = n → x = e) → ∃ es, exec (.dataPoison (.log n)) s = .next (discardWindows s es) ∧ e ∈ es ∧ es.length ≤ 4
    ∧ ∀ x ∈ es, x ∈ s.log ∧ (e.spilled = none → x.core = e.core ∧ x.spilled = none))
  ∧ (∀ i, i < 16400 →
    let old := ((s.corr.find? (fun c => c.1 == i)).map (fun c => c.2)).getD 0
    ∃ s', exec (.correctedError i) s = .next s'
      ∧ s'.corr = (i, BitVec.ofNat 32 (min (old.toNat + 1) (2 ^ 32 - 1))) :: s.corr.filter (fun c => c.1 != i)
      ∧ s' = { s with corr := s'.corr, counts := s'.counts })
  ∧ (∀ a bs, a + bs.length ≤ 2 ^ 50 → exec (.hostWrite a bs) s = .next (publishAt s device (0x8000000000000 + a) bs))
  ∧ (∀ a op, s.pkgstat = .resetHold → exec (.hostWindowWrite a op) s = .next s)
  ∧ (∀ a bs, s.pkgstat ≠ .resetHold → exec (.hostWindowWrite a (.bytes bs)) s = .next (readChanged s (deviceWrite s a bs)))
  ∧ ∀ a k ty (d c : W64), s.pkgstat ≠ .resetHold →
    let n := tyBytes ty
    exec (.hostWindowWrite a (.atomic k ty d c)) s = .next (if (k = 0 ∨ k = 6 ∨ k = 7) ∧ 4 ≤ n ∧ a % n = 0 then
        readChanged s (deviceWrite s a (leBytes (atomNew k ty (fromLe (deviceBytes s a n)) (d.toNat % 2 ^ (8 * n)) c.toNat) n))
      else s)

/-- The ends of waits (R165, R216, R217, R233, R267, R269, R287 to R292, R320 to R322, R339, R340, R351): a slice whose monitored word was written, or
whose poll is due, translates and reads again and goes on waiting unless its condition holds; where the word no longer translates, or is poisoned, its
group issues its MWAIT anew. A channel wait ends when enough slots are full, WAITC when few enough operations are outstanding, HAND with its payload in
the registers of its slices, TICKW at its tick, REGANG when every slice has come, a barrier generation when every member has arrived or all have exited,
TLBINV when no access under what it names is still to be performed, ECALL with S's answer in s0 and s1, and a page's wait with its request; then a
slice stands behind its instruction, or issues it again for a page. The model's choices: what a WAITC covers, what becomes of an exited member of a
generation, and what TLBINV waits for (log entry 22); an ECALL's answer lands only while its team is resident, and MWAIT translates anew (log entry
20). -/
def Obligations.WaitEnds : Prop :=
  ∀ (s : State) (id : UnitId) (sl : Nat),
  (∀ u t w n b, s.unit? id = some u → u.slice? sl = some t → t.run = .parked w n b →
    let js := groupWith u sl
    let seen : Prop := ∃ m ∈ s.monitors, m.unit = id ∧ m.slice = sl
    let abandoned := (abandonGroup s u js).1.setUnit (abandonGroup s u js).2
    (seen → exec (.mwaitMonitorWake id sl) s = .next (mwaitRead s u js t w) ∧ exec (.mwaitPollExpiry id sl) s = .next s)
    ∧ (¬seen → exec (.mwaitMonitorWake id sl) s = .next s ∧ exec (.mwaitPollExpiry id sl) s = .next (mwaitRead s u js t w))
    ∧ (∀ va w32 uns cond value d, w = .mwait va w32 uns cond value d →
      (b = true → mwaitRead s u js t w = s)
      ∧ (b = false → (∀ e, place s u .read .plain va = .error e → mwaitRead s u js t w = abandoned)
        ∧ ∀ pa at_, place s u .read .plain va = .ok (pa, at_) → (inRefresh s pa = true → mwaitRead s u js t w = s)
          ∧ (inRefresh s pa = false →
            (poisoned s pa (if w32 then 4 else 8) = true → mwaitRead s u js t w = abandoned)
            ∧ (poisoned s pa (if w32 then 4 else 8) = false → mwaitHolds w32 uns cond (mwaitWord s pa w32 uns) value = false →
              mwaitRead s u js t w = s)
            ∧ (poisoned s pa (if w32 then 4 else 8) = false → mwaitHolds w32 uns cond (mwaitWord s pa w32 uns) value = true →
              let read := u.mapSlices [t.idx] (mwaitPark (.mwait va w32 uns cond (mwaitWord s pa w32 uns) d) n true)
              let u₁ := { read with autoCount := u.autoCount + 1 }
              let done (x : Slice) : Bool := match x.run with | .parked (.mwait _ _ _ _ _ _) _ h => h | _ => false
              mwaitRead s u js t w = (fillTlb (dropMonitor s id t.idx) u.ctx id.core va).setUnit
                (if (u₁.pick js).all done then u₁.mapSlices js mwaitReturn else u₁)))))
    ∧ (∀ va k d, w = .chwait va k d →
      (∀ c, readChan s u u.id.core .read .plain va = .ok c → exec (.channelWake id sl) s = .next (if k < c.full then
        s.setUnit ((u.mapSlices js (giveScalar d (c.slot (c.rptr + BitVec.ofNat 32 k)))).release js) else s))
      ∧ ∀ e, readChan s u u.id.core .read .plain va = .error e → exec (.channelWake id sl) s = .next (s.setUnit (u.mapSlices js Slice.abandon)))
    ∧ (∀ va k, w = .rowbar va k →
      (∀ c, readChan s u u.id.core .read .plain va = .ok c →
        exec (.channelWake id sl) s = .next (if k.toNat ≤ c.full then s.setUnit (u.release js) else s))
      ∧ ∀ e, readChan s u u.id.core .read .plain va = .error e → exec (.channelWake id sl) s = .next (s.setUnit (u.mapSlices js Slice.abandon)))
    ∧ (∀ cls k, w = .waitc cls k → exec (.waitcReturn id sl) s = .next (if u.count cls ≤ k then s.setUnit ((u.cover cls).release js) else s))
    ∧ (∀ off pass vec d tm h, w = .handRecv off pass vec d → s.team? u.team = some tm →
      tm.hand.find? (fun h => h.off == off && h.pass == pass) = some h →
      ∃ s', exec (.handReceiveWake id sl) s = .next s' ∧ s'.unit? id = some ((u.mapSlices js (fun y => if vec then
          y.putV d 0 (h.vec.getD (4 * y.idx) 0) |>.putV d 1 (h.vec.getD (4 * y.idx + 1) 0) |>.putV d 2 (h.vec.getD (4 * y.idx + 2) 0)
            |>.putV d 3 (h.vec.getD (4 * y.idx + 3) 0)
        else y.putS d h.scalar)).release js) ∧ s'.mem = s.mem ∧ s'.log = s.log)
    ∧ (∀ target : W64, w = .tickw target →
      exec (.tickwRelease id sl) s = .next (if target.toNat ≤ s.gtick.toNat then s.setUnit (u.release js) else s))
    ∧ (∀ r st v, w = .ecall → s.ecalls.find? (fun r => r.unit == id && r.slice == sl && r.team == u.team) = some r →
      let s₁ := { s with ecalls := s.ecalls.filter (fun r => !(r.unit == id && r.slice == sl && r.team == u.team)) }
      exec (.ecallComplete id sl st v) s = .next (s₁.setUnit ((u.mapSlices js (fun t => (t.setNow 0 st).setNow 1 v)).release js)))
    ∧ (∀ j ∈ js, ∀ y y', u.slice? j = some y → (u.release js).slice? j = some y' → ∀ w n b, y.run = .parked w n b →
      y'.pc = y.pc + BitVec.ofNat 64 n ∧ y'.run = .running ∧ y'.results = y.results ∧ ∀ r l, y'.getS r = y.getS r ∧ y'.getV r l = y.getV r l))
  ∧ (∀ u, s.unit? id = some u →
    let live := u.slices.filter Slice.alive
    let come : Prop := live ≠ [] ∧ ∀ t ∈ live, ∃ n b, t.run = .parked .regang n b
    (come → exec (.regangJoin id) s = .next (s.setUnit ((u.regroup (live.map (fun t => t.idx))).release (live.map (fun t => t.idx)))))
    ∧ (¬come → exec (.regangJoin id) s = .next s)
    ∧ exec (.tlbinvComplete id) s = .next (s.setUnit (u.release ((u.slices.filter (fun t => match t.run with
        | .parked (.tlbinv ctx page) _ _ => !translated s { ctx := ctx, page := page }
        | _ => false)).map (fun t => t.idx))))
    ∧ exec (.faultRoomRecheck id) s = .next ((u.slices.flatMap (fun t => match t.run with
        | .parked (.page pages k) _ _ =>
          (pages.filter (fun p => !s.requests.any (fun r => r.ctx == u.ctx && r.page == p && r.kind.covers k))).map (fun p => (p, k))
        | _ => [])).foldl (fun s p => postRequest s u.ctx p.1 p.2 (u.id.core / 1024)) s))
  ∧ (∀ (n : Named) (u : Machine.Unit), (u ∈ s.units ∨ ∃ x ∈ s.saved, u ∈ x.units) →
    (∃ d ∈ u.direct, n.at u.ctx d.page = true) ∨ (∃ a ∈ u.atomics, n.at u.ctx a.page = true) ∨ (∃ p ∈ u.ownPages, n.at u.ctx p = true)
      ∨ (∃ x p, u.txn = some x ∧ p ∈ x.pages ∧ n.at u.ctx p = true) ∨ (n.inCtx u.ctx = true ∧ u.count 2 ≠ 0)
      ∨ (∃ q ∈ s.peerOps, q.unit = u.id ∧ n.inCtx u.ctx = true) → translated s n = true)
  ∧ (∀ (n : Named) c (page : PageSpan), n.at c page = true ↔
    (∀ k, n.ctx = some k → k = c) ∧ ∀ p, n.page = some p → page.1 ≤ p.toNat ∧ p.toNat < page.1 + page.2)
  ∧ (∀ (n : Named) (c : Core), (c ∈ s.cores ∨ ∃ x ∈ s.saved, ∃ y ∈ x.cores, y.1 = c) → ∀ k ∈ c.sluice, ∀ p ∈ k.pins,
    n.at p.ctx (p.va, p.size) = true → translated s n = true)
  ∧ (∀ n g t b, s.team? n = some t → t.group? g = some b →
    let complete : Prop := b.members ≠ [] ∧ ((∀ m ∈ b.members, m ∈ b.arrived) ∨ ∀ m ∈ b.members, memberExited s m = true)
    let b' := { b with gen := b.gen + 1, arrived := [], members := b.members.filter (fun m => !memberExited s m) }
    let s₁ := (s.setTeam (t.setGroup b')).mapUnits (fun u => b.members.contains u.id && u.team == n) (passBarw g b'.gen)
    (complete → exec (.barrierGenerationComplete n g) s = .next (b'.members.foldl (fun s m => passBara s n g m) s₁))
    ∧ (¬complete → exec (.barrierGenerationComplete n g) s = .next s))
  ∧ ∀ ctx page,
    (∀ r, s.requests.find? (fun r => r.ctx == ctx && r.page == page) = some r →
      exec (.faultRequestComplete ctx page) s = .next ({ s with requests := s.requests.erase r }.mapUnits (fun u => u.ctx == ctx) (fun u =>
        { u with slices := u.slices.map (fun (t : Slice) => match t.run with
          | .parked (.page pages k) n h =>
            let rest := if r.kind.covers k then pages.filter (fun p => p != r.page) else pages
            if rest = [] then { t with run := .running } else { t with run := .parked (.page rest k) n h }
          | _ => t) })))
    ∧ (s.requests.find? (fun r => r.ctx == ctx && r.page == page) = none → exec (.faultRequestComplete ctx page) s = .next s)

/-- Halts and code (R57, R328 to R331, R344 to R346, R348, R361, R362, R371, R372, R383, R394 to R396, R405, R411). A unit that is told to halt aborts
its transaction, stops with its slices where they stand, and as a gang writes its part of the frame and the record, in its handler too. Halted gangs
go on once no gang of the team stands at a trap, no class of the whole set is with S, and no handler runs; those that stand halted within handlers go
on first. S ends a trap that was not delegated by the frame, and a gang whose team the port holds waits on. An uncorrectable error of a slice first
lets the gang's operations complete; then the window is run again, or the gang is stopped with class 14: at once where it cannot be, with SUB 2 where
the same place has failed before. A load makes an object, or shares or revives a reference; its role map is that of the text as relocated; its text
must find a free place and its reference room. An unloading one retires, and is unmapped once nothing of the context resides in it. The model's
choices: objects are told apart by their images (log entry 12), halts in a handler's frame and a team that the port holds (log entry 17), S's part in
a load, the places that it writes and the status of a malformed one (log entry 18), and what a gang at a trap or in its handler does at an error (log
entry 29). -/
def Obligations.HaltsAndCode : Prop :=
  ∀ s : State,
  (∀ id u origin cause skid, s.unit? id = some u → u.halt = .pending origin cause skid →
    let p := if u.txn.isSome then abortTxn s u 8 0 0 else (s, u)
    let stopped := { p.2 with halt := .halted origin (waitingSlices p.2) }
    (p.2.id.kind ≠ .gang → exec (.siblingHalt id) s = .next (p.1.setUnit stopped))
    ∧ (p.2.id.kind = .gang → exec (.siblingHalt id) s = .next (writeSiblingFrame
        (p.1.setUnit { stopped with side := haltSide cause }) p.2 cause u.txn.isSome origin skid)))
  ∧ (∀ n,
    let halted (u : Machine.Unit) : Bool := match u.halt with | .halted _ _ => true | _ => false
    let inner : Bool := s.units.any (fun u => u.team == n && halted u && u.handler.isSome)
    let free : Prop := (∀ u ∈ s.units, u.team = n → u.halt = .none ∨ halted u = true)
      ∧ (∀ t, s.team? n = some t → setHeld s t.launch t.set = false) ∧ ((∀ u ∈ s.units, u.team = n → u.handler = none) ∨ inner = true)
    (free → exec (.teamRelease n) s = .next (s.mapUnits (fun u => u.team == n && (!inner || u.handler.isSome)) (fun u =>
      match u.halt with | .halted _ ws => resumeUnit s u ws | _ => u)))
    ∧ (¬free → exec (.teamRelease n) s = .next s))
  ∧ (∀ p ∈ ([(0, .next), (1, .replay), (2, .reex)] : List (BitVec 2 × TretMode)), ∀ id u, s.unit? id = some u →
    let held : Prop := ∃ t, s.team? u.team = some t ∧ t.held = true
    let ported : Prop := held ∨ ∃ x ∈ s.units, x.team = u.team ∧ ∃ ws, x.halt = .port ws
    (∀ c, u.halt = .trapped c →
      (u.exited = true → exec (.supervisorTrapResume id p.1) s = .next (s.setUnit { u with halt := .none }))
      ∧ (u.exited = false → u.id.kind = .gang →
        let back := { trapReturn s u p.2 with handler := u.handler }
        let s₁ := s.commandsToFrame u.id u.handler.isSome
        (¬ported → exec (.supervisorTrapResume id p.1) s = .next (s₁.setUnit back))
        ∧ (ported → exec (.supervisorTrapResume id p.1) s =
          .next (writePcs (s₁.setUnit { back with halt := .port [] }) { back with halt := .port [] })))
      ∧ (u.exited = false → u.id.kind ≠ .gang →
        (¬ported → exec (.supervisorTrapResume id p.1) s = .next (s.setUnit (resumeMember s u c p.2)))
        ∧ (ported → exec (.supervisorTrapResume id p.1) s = .next (s.setUnit { resumeMember s u c p.2 with halt := .port [] }))))
    ∧ ∀ ws, u.halt = .port ws → (held → exec (.supervisorTrapResume id p.1) s = .next s)
      ∧ (¬held → exec (.supervisorTrapResume id p.1) s = .next (resumePort s u.team)))
  ∧ (∀ id sl u t, s.unit? id = some u → u.slice? sl = some t → u.exited = false → t.alive = true →
    ((∀ j h, u.halt ≠ .error j h) → exec (.sliceUncorrectableError id sl) s =
      .next (if u.atomics = [] ∧ u.ops = [] then sliceError s u t else s.setUnit { u with halt := .error sl u.halt }))
    ∧ ∀ j h y, u.halt = .error j h → u.slice? j = some y →
      exec (.sliceUncorrectableError id sl) s = .next (if u.atomics = [] ∧ u.ops = [] then sliceError s { u with halt := h } y else s))
  ∧ (∀ (u : Machine.Unit) (t : Slice),
    let may : Prop := u.id.kind = .gang ∧ u.trapped = false ∧ u.handler = none ∧ retryable s u = true
    let before : Prop := ∃ p ∈ u.retried, p.core = u.id.core ∧ p.slice = t.idx ∧ p.win = u.winno ∧ p.pc = t.pc
    let check (s : State) (sub : Nat) : State := takeTrap s { u with halt := .none } (groupWith u t.idx) t.pc (wordsAt s u t.pc).1
      (wordsAt s u t.pc).2 { cls := 14, sub := sub }
    (¬may → sliceError s u t = check s 1)
    ∧ (may → before → ∃ ds, u.id.core ∈ ds ∧ (∀ d ∈ s.defective, d ∈ ds) ∧ sliceError s u t = check { s with defective := ds } 2)
    ∧ (may → ¬before → sliceError s u t = retryWindow s u t
      ∧ ∀ v, s.unit? u.id = some v → ∃ u', (retryWindow s u t).unit? u.id = some u' ∧ u'.halt = u.halt.rewound
        ∧ u'.retried = { core := u.id.core, slice := t.idx, win := u.winno, pc := t.pc, passed := false } :: u.retried))
  ∧ (∀ c q, c < 64 →
    ((∀ o ∈ s.objects, o.image ≠ q.image) → exec (.codeLoad c q) s = .next (loadNew s c q)
      ∧ (sectionsOf q.image = none → loadNew s c q = { s with loadEnd := some (c, .imageForm, 0) })
      ∧ ∀ ss, sectionsOf q.image = some ss →
        let text := relocated ss q 1
        let size := (sectionOf ss 1).length
        let o := objectOf q.image ss q (BitVec.ofNat 64 (s.nextId + 1))
        let bound := bindObject (deviceWrite { s with nextId := s.nextId + 1, objects := s.objects ++ [o] } q.textPa text) c ss q o
        let ended (st : LoadStatus) : Prop := loadNew s c q = { s with loadEnd := some (c, st, 0) }
        let free : Prop := q.textPa % 4096 = 0 ∧ q.textPa + (size + 4095) / 4096 * 4096 ≤ 2 ^ 39
          ∧ ∀ x ∈ s.objects, q.textPa + (size + 4095) / 4096 * 4096 ≤ x.textPa ∨ x.textPa + (x.size + 4095) / 4096 * 4096 ≤ q.textPa
        (imageOk q.image ss q = false → ended .imageForm)
        ∧ (imageOk q.image ss q = true →
          (roleMap text ≠ sectionOf ss 2 → ended .roleMapMismatch)
          ∧ (roleMap text = sectionOf ss 2 →
            (¬free → ended .noSpace)
            ∧ (free →
              (bound = none → ended .noSpace)
              ∧ ∀ s₁, bound = some s₁ → loadNew s c q = { s₁ with loadEnd := some (c, .ok, BitVec.ofNat 64 (s.nextId + 1)) }))))
    ∧ ∀ o, s.objects.find? (fun o => o.image == q.image) = some o →
      (∀ r, s.refs.find? (fun r => r.ctx == c && r.handle == o.handle) = some r → exec (.codeLoad c q) s = .next { s with
        refs := s.refs.map (fun x => if x.ctx = c ∧ x.handle = o.handle then { x with retiring := false } else x)
        loadEnd := some (c, if r.retiring then .revived else .shared, o.handle) })
      ∧ (s.refs.find? (fun r => r.ctx == c && r.handle == o.handle) = none → ∀ ss, sectionsOf q.image = some ss →
        (bindObject s c ss q o = none → exec (.codeLoad c q) s = .next { s with loadEnd := some (c, .noSpace, 0) })
        ∧ ∀ s₁, bindObject s c ss q o = some s₁ → exec (.codeLoad c q) s = .next { s₁ with loadEnd := some (c, .shared, o.handle) }))
  ∧ (∀ c ss q o,
    let data := relocated ss q 8
    let memside := relocated ss q 9
    let places := (([(q.globalPa, data.length), (q.memsidePa, memside.length)] : List (Nat × Nat)).filter (fun p => p.2 != 0)) ++ q.tables.map (fun f => (f, 4096))
    let room : Prop := q.room = true ∧ runFree s c q.importBase o.imports = true
      ∧ (∀ p ∈ places, p.1 % 4096 = 0 ∧ p.1 + (p.2 + 4095) / 4096 * 4096 ≤ 2 ^ 39
        ∧ ∀ x ∈ s.objects, p.1 + (p.2 + 4095) / 4096 * 4096 ≤ x.textPa ∨ x.textPa + (x.size + 4095) / 4096 * 4096 ≤ p.1)
      ∧ places.Pairwise (fun p r => p.1 + (p.2 + 4095) / 4096 * 4096 ≤ r.1 ∨ r.1 + (r.2 + 4095) / 4096 * 4096 ≤ p.1)
      ∧ q.spadVa.toNat % 4096 = 0 ∧ q.spadVa.toNat + 262144 ≤ 2 ^ 56
    (¬room → bindObject s c ss q o = none)
    ∧ ∀ s₁, bindObject s c ss q o = some s₁ → room ∧ ∃ r, s₁.refs = s.refs ++ [r] ∧ r.ctx = c ∧ r.handle = o.handle ∧ r.textVa = q.textVa
      ∧ r.retiring = false ∧ r.importBase = q.importBase ∧ r.spadVa = q.spadVa ∧ r.spad = relocated ss q 7)
  ∧ (∀ va pa attrs frame frames, (∃ k, placeOf frame = .hbm k) →
    let slot := frame + 8 * (va / 4096 % 512)
    tableEntry s.mem frame (va / 4096 % 512) % 2 = 0 →
      mapPage va (leafEntry pa attrs) [0] frame (s, frames) = some (deviceWrite s slot (leBytes (pa + attrs + 2 ^ 52) 8), frames))
  ∧ (∀ pa bs, (placeOf pa = .host → supervisorWrite s pa bs = some (publishAt s device pa bs))
    ∧ ((∃ k, placeOf pa = .hbm k) → supervisorWrite s pa bs = some (deviceWrite s pa bs)))
  ∧ (∀ c h, exec (.codeUnload c h) s = .next { s with
      refs := s.refs.map (fun r => if r.ctx = c ∧ r.handle = h then { r with retiring := true } else r) })
  ∧ ∀ c h r o, s.refs.find? (fun r => r.ctx == c && r.handle == h && r.retiring) = some r → s.objects.find? (fun o => o.handle == h) = some o →
    (resides s r o = true → exec (.unloadComplete c h) s = .next s)
    ∧ (resides s r o = false →
      let s₁ := unmapText s r o
      let s₂ := { s₁ with refs := s₁.refs.filter (fun x => !(x.ctx == c && x.handle == h)) }
      exec (.unloadComplete c h) s = .next (if s₂.refs.any (fun x => x.handle == h) then s₂
        else { s₂ with objects := s₂.objects.filter (fun x => x.handle != h) }))

/-- The control window, links, heat and latches (R6, R364, R407, R408, R413 to R419): in reset-hold no write of BAR0 is taken; else one of 64 bits reaches
the register at its offset, one of 32 bits leaves the other half of its register as it reads, and read-only and unlisted offsets ignore them, which
read as zero where they are not listed. A peer entry is taken but for UP and SYNC, which follow the trained ports and the ticks; a link retry changes
nothing; a critical die stops dispatch, its teams are saved or lost within 1,200,000 ticks, and the package is held until it has cooled and the host
releases it; at the warning mark every cluster of a die gets pool class 3, and each goes back to the class that it had once the die has been 5 °C or
more below the mark for 600,000 ticks; a latch tick takes each due context's counts. The model's choices: a temperature and the energy measured are
free values (log entry 5), the widths of a write and the halves of BUDGET and TMARKS, contexts read when CTXTAB is written, and reserved bits of QDESC
and PEER ignored (log entry 13, DEDUCED), the classes that a die's clusters had, and a cluster moved meanwhile (log entry 15), and when a comparison
or a latch falls due (log entry 6). -/
def Obligations.ControlWindow : Prop :=
  ∀ s : State,
  let write (off : Nat) (v : W64) := exec (.controlWindowWrite off (.full v)) s
  let within (off base n : Nat) : Prop := base ≤ off ∧ off < base + n
  let taken (off : Nat) : Prop := off = 0x10 ∨ off = 0x100 ∨ within off 0x10000 0x1000 ∨ within off 0x20000 0x400
    ∨ (within off 0x20800 0x40 ∧ off % 16 = 0) ∨ off = 0x30100 ∨ within off 0x50000 0x400 ∨ within off 0x60000 0x40 ∨ within off 0x80000 0x20080
  let readOnly (off : Nat) : Prop := off = 0 ∨ off = 8 ∨ within off 0x20400 0x400 ∨ within off 0x30000 0x80
  (∀ off x, s.pkgstat = .resetHold → exec (.controlWindowWrite off x) s = .next s)
  ∧ (∀ off v, off % 8 ≠ 0 ∨ ¬taken off → write off v = .next s)
  ∧ (∀ off, ¬taken off → ¬readOnly off → controlRead s off = 0)
  ∧ (s.pkgstat ≠ .resetHold →
    (∀ off w, (off % 8 = 0 → exec (.controlWindowWrite off (.half w)) s = write off ((controlRead s off).extractLsb' 32 32 ++ w))
      ∧ (off % 8 = 4 → exec (.controlWindowWrite off (.half w)) s = write (off - 4) (w ++ (controlRead s (off - 4)).extractLsb' 0 32))
      ∧ (off % 4 ≠ 0 → exec (.controlWindowWrite off (.half w)) s = .next s))
    ∧ (∀ v, write 0x100 v = .next (readContexts { s with ctxtab := v }))
    ∧ (∀ (q : Fin 64) (i : Fin 8) v, write (0x10000 + 64 * q.val + 8 * i.val) v =
        .next (s.setQueue q (queueFrom (s.queue q) (withWord (s.queue q).image i v))))
    ∧ (∀ (cl : Fin 128) v, write (0x20000 + 8 * cl.val) v = .next { s with
        pools := s.pools.set cl (v.setWidth 2), poolChange := (cl.val, s.gtick.toNat + 600) :: s.poolChange.filter (fun x => x.1 != cl.val) })
    ∧ (∀ (c : Fin 4) v, write (0x20800 + 16 * c.val) v =
        .next { s with budgets := s.budgets.set c (v.setWidth 32, (v >>> 32).setWidth 32) })
    ∧ (∀ v, write 0x30100 v = .next { s with warnMark := v.setWidth 16, critMark := (v >>> 16).setWidth 16 })
    ∧ (∀ (p : Fin 64) (i : Fin 2) v, write (0x50000 + 16 * p.val + 8 * i.val) v =
        .next (trainPeers (s.setPeer p (peerFrom (s.peer p) (withWord (s.peer p).image i v)))))
    ∧ (∀ i v, i < 8 → write (0x60000 + 8 * i) v = .next (if s.debugCmd.getLsbD 8 then s
        else { s with debugCmd := BitVec.ofNat 512 (withWord s.debugCmd.toNat i v) }))
    ∧ (∀ i v, i < 16400 → write (0x80000 + 8 * i) v = .next { s with corr := s.corr.filter (fun c => c.1 != i) })
    ∧ (∀ v, v.getLsbD 0 = true → write 0x10 v = exec .threl s) ∧ (∀ v, v.getLsbD 0 = false → write 0x10 v = .next s)
    ∧ (∀ i, exec (.corrClear i) s = .next { s with corr := s.corr.filter (fun c => c.1 != i) })
    ∧ (∀ p e, p < 64 → exec (.peerTableWrite p e) s = .next (trainPeers (s.setPeer p (peerFrom (s.peer p) e.toNat)))))
  ∧ (s.pkgstat = .resetHold → (∀ i, exec (.corrClear i) s = .next s) ∧ ∀ p e, exec (.peerTableWrite p e) s = .next s)
  ∧ (∀ p (k : BitVec 16), p < 16 → exec (.aplLinkTrain p k) s =
      .next (trainPeers { s with links := (p, k) :: s.links.filter (fun l => l.1 != p) }))
  ∧ (∀ p, exec (.aplLinkLoss p) s = .next (trainPeers { s with links := s.links.filter (fun l => l.1 != p) }))
  ∧ (∀ (p : Nat) (q : Peer), (trainPeers s).peers[p]? = some q → ∃ o, s.peers[p]? = some o ∧ q = { o with up := q.up, sync := q.sync }
    ∧ (q.up = true ↔ ∃ l ∈ s.links, o.ports.getLsbD l.1 = true ∧ l.2 = o.pkg) ∧ q.sync = (o.sync && q.up && o.en))
  ∧ (∀ p (tick : W64), p < 64 → exec (.tickFlit p tick) s = .next (s.setPeer p { s.peer p with
      sync := (s.peer p).en && (s.peer p).up && decide (s.gtick.toNat ≤ tick.toNat + 4 ∧ tick.toNat ≤ s.gtick.toNat + 4) }))
  ∧ (∀ p, exec (.flitCrcRetry p) s = .next s)
  ∧ (∀ die, die < 16 → ∃ x s₁, s.free = (x, s₁) ∧
    let s₂ := { s₁ with lastCompare := s₁.lastCompare.set die s.gtick.toNat }
    exec (.thermalCompare die) s = .next (compareDie s₂ die (x.setWidth 32).toInt)
    ∧ ∀ t : Int,
      let s' := compareDie s₂ die t
      (s'.critical.isSome = true ↔ s.critical.isSome = true ∨ ((s.critMark.toNat : Int) ≤ t ∧ s.pkgstat = .running))
      ∧ ((s.warnMark.toNat : Int) ≤ t → die ∈ s'.c3dies
        ∧ (die ∉ s.c3dies → ∀ cl, cl / 8 = die → ∀ k, s.pools[cl]? = some k → s'.pools[cl]? = some 3 ∧ (cl, k) ∈ s'.c3from))
      ∧ (t < (s.warnMark.toNat : Int) → s'.pools = s.pools ∧ s'.c3dies = s.c3dies)
      ∧ ((s.warnMark.toNat : Int) < t + 80 → cooled s' die = false)
      ∧ (t + 80 ≤ (s.warnMark.toNat : Int) → ∀ n, (die, n) ∈ s'.coolSince ↔
        (die, n) ∈ s.coolSince ∨ ((∀ c ∈ s.coolSince, c.1 ≠ die) ∧ n = s.gtick.toNat)))
  ∧ (∀ die, cooled s die = true ↔ ∃ n, (die, n) ∈ s.coolSince ∧ n + 600000 ≤ s.gtick.toNat)
  ∧ (∀ die, die ∈ s.c3dies → cooled s die = true → s.pkgstat = .running → ∃ s', exec (.c3Exit die) s = .next s' ∧ die ∉ s'.c3dies
    ∧ (∀ cl, cl / 8 ≠ die → s'.pools[cl]? = s.pools[cl]?)
    ∧ ∀ cl k, cl / 8 = die → (cl, k) ∈ s.c3from → (∀ e ∈ s.c3from, e.1 = cl → e = (cl, k)) →
      (s.pools[cl]? = some 3 → s'.pools[cl]? = some k) ∧ ∀ n, s.pools[cl]? = some n → n ≠ 3 → s'.pools[cl]? = some n)
  ∧ (∀ die, die ∉ s.c3dies ∨ cooled s die = false → exec (.c3Exit die) s = .next s)
  ∧ (exec .thermalSavesDone s = .next (if s.pkgstat = .running ∧ s.critical.isSome = true ∧ ∀ t ∈ s.teams, t.resident = false then
      { s with pkgstat := .thermalOff } else s))
  ∧ (∀ t, s.critical = some t → s.pkgstat = .running →
    let lost := (List.range 64).filter (fun c => s.teams.any (fun x => x.ctx == c && x.resident))
    exec .thermalSaveBudgetExpiry s = .next (if t + 1200000 ≤ s.gtick.toNat then
      { lost.foldl (fun s c => dropContext (dropCommands s c) c 5) s with pkgstat := .thermalOff } else s))
  ∧ (exec .thermalCooled s = .next (if s.pkgstat = .thermalOff ∧ (List.range 16).all (cooled s) = true then { s with pkgstat := .thermalHold } else s))
  ∧ (s.pkgstat = .thermalHold → ∃ s', exec .threl s = .next s' ∧ s'.pkgstat = .running ∧ s'.critical = none ∧ s'.pools = List.replicate 128 3)
  ∧ (s.pkgstat ≠ .thermalHold → exec .threl s = .next s)
  ∧ exec .latchTick s = .next { ((List.range 64).filter (latchDue s)).foldl latchContext (measureEnergy s) with lastLatch := s.gtick }
  ∧ (measureEnergy s).mem = s.mem ∧ (measureEnergy s).counts.length = s.counts.length ∧ ∀ (i : Nat) (e : Nat × ClusterCounts), s.counts[i]? = some e →
    ∃ n, n < 2 ^ 32 ∧ (measureEnergy s).counts[i]? = some (e.1, { e.2 with energy := e.2.energy + n })

/-- The debug port and reverse steps (R334, R356 to R358, R370, R372, R378, R382, R411, R412): a command whose operands break their fields ends with
status 4, one of no context with 3, one that DBGCTL does not permit with 1; else SETBRK sets or clears a breakpoint's bit, SETRGN a region stop, HALT
stops a gang and its team and keeps them for the port, RESUME lets them go on, UNDO steps the team back, READ returns a register of a gang that
stands, WRITE changes it. A step back of a gang takes its entries after the target off the log, gives the words that they had written the OLD of the
first of them, and puts every slice back as the target's checkpoint has it, registers outside the live masks 0; that of a team gives each word the OLD
of its co-earliest entry; an address is translated anew for it, and one that does not translate keeps what it holds. The model's choices: status 4
for a slice that is not there, status 3 for an UNDO that names another context, a team held until its RESUME, and what a halt of the port changes in a
handler's frame (log entry 17, DEDUCED), the order of performing of withdrawn entries (log entry 21), and an address that does not translate, and what
an altered slice-state block restores (log entry 29). -/
def Obligations.DebugPort : Prop :=
  ∀ (s : State) (byS : Bool),
  let c := dbgCtx s
  let k := s.ctx c
  let op (n : Nat) : Prop := s.debugCmd.getLsbD 8 = true ∧ dbgOk s = true ∧ dbgOp s = n
  let commands : List (Nat × Instr) := [(1, .setbrk byS), (2, .setrgn byS), (3, .debugHalt byS), (4, .debugResume byS), (5, .debugUndo byS),
    (6, .debugRead byS), (7, .debugWrite byS)]
  let may : Prop := k.live = true ∧ (byS = true ∨ k.dbgctl.getLsbD 2 = true)
  (
    (s.debugCmd.getLsbD 8 = true → dbgOk s = false → exec .debugBadCommand s = .next (endPlain s 4))
    ∧ (∀ p ∈ commands, op p.1 → (k.live = false → exec p.2 s = .next (endPlain s 3))
      ∧ (k.live = true → byS = false → k.dbgctl.getLsbD 2 = false → exec p.2 s = .next (endPlain s 1)))
    ∧ (op 1 → may → exec (.setbrk byS) s = .next (endPlain (s.setCtx c { k with
        brk := if dbgArg1 s = 1 then k.brk ||| 1#256 <<< dbgArg0 s else k.brk &&& ~~~(1#256 <<< dbgArg0 s) }) 0))
    ∧ (op 2 → may → k.dbgctl.getLsbD 0 = true → exec (.setrgn byS) s = .next (endPlain (s.setCtx c { k with
        regions := k.regions.set (dbgArg0 s % 16) (some (BitVec.ofNat 16 (dbgArg1 s))) (Nat.mod_lt _ (by decide)) }) 0))
    ∧ (op 2 → may → k.dbgctl.getLsbD 0 = false → exec (.setrgn byS) s = .next (endPlain s 1))
    ∧ (∀ p ∈ commands, 3 ≤ p.1 → p.1 ≠ 5 → op p.1 → may → dbgGang s = none → exec p.2 s = .next (endPlain s 3))
    ∧ (∀ u, dbgGang s = some u → may →
      let stopped : Prop := ∀ x ∈ s.units, x.team = u.team → x.exited = true ∨ (∃ o ws, x.halt = .halted o ws) ∨ (∃ n, x.halt = .trapped n) ∨ ∃ ws, x.halt = .port ws
      let heldNow : Prop := (∃ t, s.team? u.team = some t ∧ t.held = true) ∨ ∃ x ∈ s.units, x.team = u.team ∧ ∃ ws, x.halt = .port ws
      (op 3 → (stopped → ∃ s', exec (.debugHalt byS) s = .next (endPlain s' 0) ∧ s'.mem = s.mem ∧ s'.log = s.log
          ∧ s'.teams = s.teams.map (fun t => if t.id = u.team then { t with held := true } else t)
          ∧ s'.units = s.units.map (fun x => match x.halt with
            | .halted _ ws => if x.team = u.team then { x with halt := .port ws } else x
            | _ => x))
        ∧ (¬stopped → exec (.debugHalt byS) s = .next
          (broadcastHalt { (if u.halt = .none then stopAtPort s u else s) with debugS := byS } u .team (9 + 2 * 2 ^ 8))))
      ∧ (op 4 → (stopped ∧ heldNow → exec (.debugResume byS) s = .next (endPlain (resumePort s u.team) 0))
        ∧ (¬(stopped ∧ heldNow) → exec (.debugResume byS) s = .next (endPlain s 2)))
      ∧ (u.halt.standing = false → (op 6 → exec (.debugRead byS) s = .next (endPlain s 2)) ∧ (op 7 → exec (.debugWrite byS) s = .next (endPlain s 2)))
      ∧ (u.halt.standing = true → u.slice? (dbgSlice s) = none → (op 6 → exec (.debugRead byS) s = .next (endPlain s 4))
        ∧ (op 7 → exec (.debugWrite byS) s = .next (endPlain s 4)))
      ∧ ∀ t, u.halt.standing = true → u.slice? (dbgSlice s) = some t →
        (op 6 → exec (.debugRead byS) s = .next (endDebug s 0 0 (readDebug s t)))
        ∧ (op 7 → exec (.debugWrite byS) s = .next (endPlain (s.setUnit (u.mapSlices [t.idx] (writeDebug s))) 0)))
    ∧ (op 5 → may →
      (dbgArg0 s % 64 ≠ c → exec (.debugUndo byS) s = .next (endPlain s 3))
      ∧ (dbgArg0 s % 64 = c → exec (.debugUndo byS) s = .next
        (match reverseStep s c (dbgArg0 s / 64) (BitVec.ofNat 32 (dbgArg1 s)) (dbgArg1 s / 2 ^ 32) (dbgArg2 s == 1) true with
          | .status n s => endDebug s 0 n (dbg s 320 128)
          | .waits s => { s with debugS := byS })))
  ) ∧ (
    ∀ (x gang : Nat) (w : W32) (e : Nat) (team form : Bool),
    let k := s.ctx x
    let named : Option Machine.Unit := s.units.find? (fun u => u.ctx == x && u.gangId.toNat == gang && u.id.kind == .gang && !u.exited)
    (named = none → reverseStep s x gang w e team form = .status (if k.live = true ∧ k.dbgctl.getLsbD 1 = false then 1 else 6) s)
    ∧ ∀ u, named = some u → (k.live = false → reverseStep s x gang w e team form = .status 6 s)
      ∧ (k.live = true →
        (teamStopped s u.team = false → reverseStep s x gang w e team form = .waits (s.mapUnits (fun y => y.team == u.team && y.halt == .none && !y.exited)
          (fun y => { y with halt := .pending u.gangId.toNat 0 0 })))
        ∧ (teamStopped s u.team = true → (∃ y ∈ s.units, y.team = u.team ∧ (y.atomics ≠ [] ∨ y.ops ≠ [])) →
          reverseStep s x gang w e team form = .waits s)
        ∧ (teamStopped s u.team = true → (∀ y ∈ s.units, y.team = u.team → y.atomics = [] ∧ y.ops = []) →
          let h := holdStopped s u.team
          let own := if team then teamStatus h u.team w e else undoStatus h u w e false
          let n := if own = 0 then (if form then 0 else 6) else if form then own else min own 6
          (n ≠ 0 → reverseStep s x gang w e team form = .status n h)
          ∧ (n = 0 → team = false → reverseStep s x gang w e team form =
            .status 0 (((undoGang h u.id w e).unit? u.id).toList.foldl writePcs (undoGang h u.id w e)))
          ∧ (n = 0 → team = true → reverseStep s x gang w e team form =
            .status 0 ((steppers (undoTeamTo h u.team w e) u.team).foldl writePcs (undoTeamTo h u.team w e)))))
  ) ∧ (
    s.mem.wf = true → (∀ x ∈ s.log, x.spilled = none) →
    let asks (x : LogEntry) : Requester :=
      { ctx := x.ctx, core := if x.direct then (scratchCore x.pa).getD x.core else x.core, levelS := decide (16384 ≤ x.core), access := .write
        op := .device, weight := true }
    let placeNow (x : LogEntry) : Option Nat := match translate s (asks x) x.va with | .ok (pa, _) => some pa | .error _ => none
    let atOnce (x : LogEntry) : Prop := ∀ pa a, translate s (asks x) x.va = .ok (pa, a) → isDirect a = false
    let covers (x : LogEntry) (b : Nat) : Bool := match placeNow x with | some pa => pa ≤ b && b < pa + 2 ^ x.lsz.toNat | none => false
    let old (x : LogEntry) (b : Nat) : Byte := (leBytes x.old.toNat (2 ^ x.lsz.toNat)).getD (b - (placeNow x).getD 0) 0
    (∀ id u w e chk gone, s.unit? id = some u → u.direct = [] → u.checkpoints.find? (fun y => y.win == w && y.edge == e) = some chk →
      (∀ o ∈ chk.slices, o.results = []) → afterTarget u w e (s.log.filter (fun x => x.of u)) = some gone →
      let s' := undoGang s id w e
      s'.log = s.log.filter (fun x => !gone.any (fun y => y.id == x.id))
      ∧ ((∀ x ∈ gone, x.written = true → atOnce x) → ∀ b, s'.mem.read b =
        match gone.find? (fun x => x.written && covers x b) with | some x => old x b | none => s.mem.read b)
      ∧ ∃ u', s'.unit? id = some u' ∧ u'.winno = w ∧ u'.edges = e ∧ u'.ops = [] ∧ u'.earliest = u.earliest ∧ u'.side = u.side
        ∧ u'.halt = .port [] ∧ u'.handler = none ∧ u'.snapshot = s'.mem
        ∧ ∀ j t o, u.slice? j = some t → chk.slices.find? (fun o => o.idx == j) = some o → ∃ y, u'.slice? j = some y ∧ y.pc = o.pc ∧ y.mask = o.mask
          ∧ y.k = o.k ∧ y.fpctl = o.fpctl ∧ y.fpstat = o.fpstat ∧ y.srcount = o.srcount ∧ y.regions = o.regions ∧ y.retStack = o.retStack
          ∧ ∀ r, y.getS r = (if chk.liveS.getLsbD r.toNat then o.getS r else 0) ∧ ∀ l, y.getV r l = if chk.liveV.getLsbD r.toNat then o.getV r l else 0)
    ∧ ∀ team w e, (s.units.map (fun u => u.id)).Nodup → (∀ u ∈ s.units, u.team = team → u.direct = []) →
      let gone (x : LogEntry) : Bool := x.written && named ((steppers s team).flatMap (fun u => (afterTarget u w e s.log).getD []) ++ memberEntries s team w e) x
      (∀ x ∈ s.log, gone x = true → atOnce x) →
      ∀ b, ((∀ x ∈ s.log, gone x = true → covers x b = false) → (undoTeamTo s team w e).mem.read b = s.mem.read b)
        ∧ ∀ x ∈ s.log, gone x = true → covers x b = true →
          (∀ y ∈ s.log, gone y = true → covers y b = true → y ≠ x → x.order.getD 0 < y.order.getD 0) → (undoTeamTo s team w e).mem.read b = old x b)
end

