-- ==== Sys2Proof/Laws/Dispatch.lean ====
section
/-! SUPPORT. exec, constructor by constructor. -/

namespace Sys2Proof.Machine

@[simp] theorem exec_sadd (o : WArgs) (s : State) : exec (.sadd o) s = execSadd o s := rfl
@[simp] theorem exec_ssub (o : WArgs) (s : State) : exec (.ssub o) s = execSsub o s := rfl
@[simp] theorem exec_smul (o : WArgs) (s : State) : exec (.smul o) s = execSmul o s := rfl
@[simp] theorem exec_smulh (o : WArgs) (s : State) : exec (.smulh o) s = execSmulh o s := rfl
@[simp] theorem exec_sdiv (o : WArgs) (s : State) : exec (.sdiv o) s = execSdiv o s := rfl
@[simp] theorem exec_srem (o : WArgs) (s : State) : exec (.srem o) s = execSrem o s := rfl
@[simp] theorem exec_sand (o : WArgs) (s : State) : exec (.sand o) s = execSand o s := rfl
@[simp] theorem exec_sor (o : WArgs) (s : State) : exec (.sor o) s = execSor o s := rfl
@[simp] theorem exec_sxor (o : WArgs) (s : State) : exec (.sxor o) s = execSxor o s := rfl
@[simp] theorem exec_sshl (o : WArgs) (s : State) : exec (.sshl o) s = execSshl o s := rfl
@[simp] theorem exec_sshr (o : WArgs) (s : State) : exec (.sshr o) s = execSshr o s := rfl
@[simp] theorem exec_ssra (o : WArgs) (s : State) : exec (.ssra o) s = execSsra o s := rfl
@[simp] theorem exec_smin (o : WArgs) (s : State) : exec (.smin o) s = execSmin o s := rfl
@[simp] theorem exec_smax (o : WArgs) (s : State) : exec (.smax o) s = execSmax o s := rfl
@[simp] theorem exec_sset (o : WArgs) (s : State) : exec (.sset o) s = execSset o s := rfl
@[simp] theorem exec_sli (o : IArgs) (s : State) : exec (.sli o) s = execSli o s := rfl
@[simp] theorem exec_sliIns (o : IArgs) (s : State) : exec (.sliIns o) s = execSliIns o s := rfl
@[simp] theorem exec_vadd (o : PArgs) (s : State) : exec (.vadd o) s = execVadd o s := rfl
@[simp] theorem exec_vsub (o : PArgs) (s : State) : exec (.vsub o) s = execVsub o s := rfl
@[simp] theorem exec_vmul (o : PArgs) (s : State) : exec (.vmul o) s = execVmul o s := rfl
@[simp] theorem exec_vmulh (o : PArgs) (s : State) : exec (.vmulh o) s = execVmulh o s := rfl
@[simp] theorem exec_vmad (o : PArgs) (s : State) : exec (.vmad o) s = execVmad o s := rfl
@[simp] theorem exec_vand (o : PArgs) (s : State) : exec (.vand o) s = execVand o s := rfl
@[simp] theorem exec_vor (o : PArgs) (s : State) : exec (.vor o) s = execVor o s := rfl
@[simp] theorem exec_vxor (o : PArgs) (s : State) : exec (.vxor o) s = execVxor o s := rfl
@[simp] theorem exec_vshl (o : PArgs) (s : State) : exec (.vshl o) s = execVshl o s := rfl
@[simp] theorem exec_vshr (o : PArgs) (s : State) : exec (.vshr o) s = execVshr o s := rfl
@[simp] theorem exec_vsra (o : PArgs) (s : State) : exec (.vsra o) s = execVsra o s := rfl
@[simp] theorem exec_vmin (o : PArgs) (s : State) : exec (.vmin o) s = execVmin o s := rfl
@[simp] theorem exec_vmax (o : PArgs) (s : State) : exec (.vmax o) s = execVmax o s := rfl
@[simp] theorem exec_vabs (o : PArgs) (s : State) : exec (.vabs o) s = execVabs o s := rfl
@[simp] theorem exec_vclz (o : PArgs) (s : State) : exec (.vclz o) s = execVclz o s := rfl
@[simp] theorem exec_vpopc (o : PArgs) (s : State) : exec (.vpopc o) s = execVpopc o s := rfl
@[simp] theorem exec_vcmp (o : PArgs) (s : State) : exec (.vcmp o) s = execVcmp o s := rfl
@[simp] theorem exec_vsel (o : PArgs) (s : State) : exec (.vsel o) s = execVsel o s := rfl
@[simp] theorem exec_fadd (o : PArgs) (s : State) : exec (.fadd o) s = execFadd o s := rfl
@[simp] theorem exec_fsub (o : PArgs) (s : State) : exec (.fsub o) s = execFsub o s := rfl
@[simp] theorem exec_fmul (o : PArgs) (s : State) : exec (.fmul o) s = execFmul o s := rfl
@[simp] theorem exec_ffma (o : PArgs) (s : State) : exec (.ffma o) s = execFfma o s := rfl
@[simp] theorem exec_fmin (o : PArgs) (s : State) : exec (.fmin o) s = execFmin o s := rfl
@[simp] theorem exec_fmax (o : PArgs) (s : State) : exec (.fmax o) s = execFmax o s := rfl
@[simp] theorem exec_fsgn (o : PArgs) (s : State) : exec (.fsgn o) s = execFsgn o s := rfl
@[simp] theorem exec_fcmp (o : PArgs) (s : State) : exec (.fcmp o) s = execFcmp o s := rfl
@[simp] theorem exec_fclass (o : PArgs) (s : State) : exec (.fclass o) s = execFclass o s := rfl
@[simp] theorem exec_fscale (o : PArgs) (s : State) : exec (.fscale o) s = execFscale o s := rfl
@[simp] theorem exec_frint (o : PArgs) (s : State) : exec (.frint o) s = execFrint o s := rfl
@[simp] theorem exec_fcvt (o : PArgs) (s : State) : exec (.fcvt o) s = execFcvt o s := rfl
@[simp] theorem exec_fcvti (o : PArgs) (s : State) : exec (.fcvti o) s = execFcvti o s := rfl
@[simp] theorem exec_icvtf (o : PArgs) (s : State) : exec (.icvtf o) s = execIcvtf o s := rfl
@[simp] theorem exec_bfpack (o : PArgs) (s : State) : exec (.bfpack o) s = execBfpack o s := rfl
@[simp] theorem exec_frcp (o : PArgs) (s : State) : exec (.frcp o) s = execFrcp o s := rfl
@[simp] theorem exec_frsq (o : PArgs) (s : State) : exec (.frsq o) s = execFrsq o s := rfl
@[simp] theorem exec_fsqrt (o : PArgs) (s : State) : exec (.fsqrt o) s = execFsqrt o s := rfl
@[simp] theorem exec_fexp2 (o : PArgs) (s : State) : exec (.fexp2 o) s = execFexp2 o s := rfl
@[simp] theorem exec_flog2 (o : PArgs) (s : State) : exec (.flog2 o) s = execFlog2 o s := rfl
@[simp] theorem exec_fsin (o : PArgs) (s : State) : exec (.fsin o) s = execFsin o s := rfl
@[simp] theorem exec_fcos (o : PArgs) (s : State) : exec (.fcos o) s = execFcos o s := rfl
@[simp] theorem exec_ftanh (o : PArgs) (s : State) : exec (.ftanh o) s = execFtanh o s := rfl
@[simp] theorem exec_fsigm (o : PArgs) (s : State) : exec (.fsigm o) s = execFsigm o s := rfl
@[simp] theorem exec_ferf (o : PArgs) (s : State) : exec (.ferf o) s = execFerf o s := rfl
@[simp] theorem exec_vshuf (o : PArgs) (s : State) : exec (.vshuf o) s = execVshuf o s := rfl
@[simp] theorem exec_vbcast (o : PArgs) (s : State) : exec (.vbcast o) s = execVbcast o s := rfl
@[simp] theorem exec_vred (o : PArgs) (s : State) : exec (.vred o) s = execVred o s := rfl
@[simp] theorem exec_vscan (o : PArgs) (s : State) : exec (.vscan o) s = execVscan o s := rfl
@[simp] theorem exec_vconf (o : PArgs) (s : State) : exec (.vconf o) s = execVconf o s := rfl
@[simp] theorem exec_vcomb (o : PArgs) (s : State) : exec (.vcomb o) s = execVcomb o s := rfl
@[simp] theorem exec_vcmprs (o : PArgs) (s : State) : exec (.vcmprs o) s = execVcmprs o s := rfl
@[simp] theorem exec_vexpnd (o : PArgs) (s : State) : exec (.vexpnd o) s = execVexpnd o s := rfl
@[simp] theorem exec_vmov (o : WArgs) (s : State) : exec (.vmov o) s = execVmov o s := rfl
@[simp] theorem exec_vmovStream (o : WArgs) (s : State) : exec (.vmovStream o) s = execVmovStream o s := rfl
@[simp] theorem exec_vsplat (o : WArgs) (s : State) : exec (.vsplat o) s = execVsplat o s := rfl
@[simp] theorem exec_vextr (o : WArgs) (s : State) : exec (.vextr o) s = execVextr o s := rfl
@[simp] theorem exec_vlane (o : WArgs) (s : State) : exec (.vlane o) s = execVlane o s := rfl
@[simp] theorem exec_xv (o : PArgs) (s : State) : exec (.xv o) s = execXv o s := rfl
@[simp] theorem exec_xpush (o : WArgs) (s : State) : exec (.xpush o) s = execXpush o s := rfl
@[simp] theorem exec_xpop (o : WArgs) (s : State) : exec (.xpop o) s = execXpop o s := rfl
@[simp] theorem exec_xpeek (o : WArgs) (s : State) : exec (.xpeek o) s = execXpeek o s := rfl
@[simp] theorem exec_xdepth (o : WArgs) (s : State) : exec (.xdepth o) s = execXdepth o s := rfl
@[simp] theorem exec_xclr (o : WArgs) (s : State) : exec (.xclr o) s = execXclr o s := rfl
@[simp] theorem exec_tcfg (o : WArgs) (s : State) : exec (.tcfg o) s = execTcfg o s := rfl
@[simp] theorem exec_tld (o : WArgs) (s : State) : exec (.tld o) s = execTld o s := rfl
@[simp] theorem exec_tst (o : WArgs) (s : State) : exec (.tst o) s = execTst o s := rfl
@[simp] theorem exec_tzero (o : WArgs) (s : State) : exec (.tzero o) s = execTzero o s := rfl
@[simp] theorem exec_mma (o : WArgs) (s : State) : exec (.mma o) s = execMma o s := rfl
@[simp] theorem exec_mloop (o : WArgs) (s : State) : exec (.mloop o) s = execMloop o s := rfl
@[simp] theorem exec_mspan (o : WArgs) (s : State) : exec (.mspan o) s = execMspan o s := rfl
@[simp] theorem exec_mspanSelf (o : WArgs) (s : State) : exec (.mspanSelf o) s = execMspanSelf o s := rfl
@[simp] theorem exec_tbitsNone (o : WArgs) (s : State) : exec (.tbitsNone o) s = execTbitsNone o s := rfl
@[simp] theorem exec_tbitsSeed (o : WArgs) (s : State) : exec (.tbitsSeed o) s = execTbitsSeed o s := rfl
@[simp] theorem exec_tbitsTile (o : WArgs) (s : State) : exec (.tbitsTile o) s = execTbitsTile o s := rfl
@[simp] theorem exec_tout (o : WArgs) (s : State) : exec (.tout o) s = execTout o s := rfl
@[simp] theorem exec_sld (o : IArgs) (s : State) : exec (.sld o) s = execSld o s := rfl
@[simp] theorem exec_sst (o : IArgs) (s : State) : exec (.sst o) s = execSst o s := rfl
@[simp] theorem exec_vld (o : IArgs) (s : State) : exec (.vld o) s = execVld o s := rfl
@[simp] theorem exec_vst (o : IArgs) (s : State) : exec (.vst o) s = execVst o s := rfl
@[simp] theorem exec_vldg (o : WArgs) (s : State) : exec (.vldg o) s = execVldg o s := rfl
@[simp] theorem exec_vstg (o : WArgs) (s : State) : exec (.vstg o) s = execVstg o s := rfl
@[simp] theorem exec_vatom (o : WArgs) (s : State) : exec (.vatom o) s = execVatom o s := rfl
@[simp] theorem exec_satom (o : WArgs) (s : State) : exec (.satom o) s = execSatom o s := rfl
@[simp] theorem exec_gatom (o : WArgs) (s : State) : exec (.gatom o) s = execGatom o s := rfl
@[simp] theorem exec_phase (o : WArgs) (s : State) : exec (.phase o) s = execPhase o s := rfl
@[simp] theorem exec_fence (o : WArgs) (s : State) : exec (.fence o) s = execFence o s := rfl
@[simp] theorem exec_waitc (o : IArgs) (s : State) : exec (.waitc o) s = execWaitc o s := rfl
@[simp] theorem exec_mwait (o : WArgs) (s : State) : exec (.mwait o) s = execMwait o s := rfl
@[simp] theorem exec_pst (o : WArgs) (s : State) : exec (.pst o) s = execPst o s := rfl
@[simp] theorem exec_patom (o : WArgs) (s : State) : exec (.patom o) s = execPatom o s := rfl
@[simp] theorem exec_pref (o : IArgs) (s : State) : exec (.pref o) s = execPref o s := rfl
@[simp] theorem exec_cpLd (o : WArgs) (s : State) : exec (.cpLd o) s = execCpLd o s := rfl
@[simp] theorem exec_cpSt (o : WArgs) (s : State) : exec (.cpSt o) s = execCpSt o s := rfl
@[simp] theorem exec_cpx (o : WArgs) (s : State) : exec (.cpx o) s = execCpx o s := rfl
@[simp] theorem exec_cps (o : WArgs) (s : State) : exec (.cps o) s = execCps o s := rfl
@[simp] theorem exec_cpred (o : WArgs) (s : State) : exec (.cpred o) s = execCpred o s := rfl
@[simp] theorem exec_cpconv (o : WArgs) (s : State) : exec (.cpconv o) s = execCpconv o s := rfl
@[simp] theorem exec_cpstage (o : WArgs) (s : State) : exec (.cpstage o) s = execCpstage o s := rfl
@[simp] theorem exec_chwait (o : WArgs) (s : State) : exec (.chwait o) s = execChwait o s := rfl
@[simp] theorem exec_chrel (o : WArgs) (s : State) : exec (.chrel o) s = execChrel o s := rfl
@[simp] theorem exec_rowbar (o : WArgs) (s : State) : exec (.rowbar o) s = execRowbar o s := rfl
@[simp] theorem exec_moedisp (o : WArgs) (s : State) : exec (.moedisp o) s = execMoedisp o s := rfl
@[simp] theorem exec_kst (o : WArgs) (s : State) : exec (.kst o) s = execKst o s := rfl
@[simp] theorem exec_qsig (o : WArgs) (s : State) : exec (.qsig o) s = execQsig o s := rfl
@[simp] theorem exec_bgather (o : WArgs) (s : State) : exec (.bgather o) s = execBgather o s := rfl
@[simp] theorem exec_br (o : JArgs) (s : State) : exec (.br o) s = execBr o s := rfl
@[simp] theorem exec_brc (o : IArgs) (s : State) : exec (.brc o) s = execBrc o s := rfl
@[simp] theorem exec_brv (o : IArgs) (s : State) : exec (.brv o) s = execBrv o s := rfl
@[simp] theorem exec_join (o : WArgs) (s : State) : exec (.join o) s = execJoin o s := rfl
@[simp] theorem exec_loopb (o : IArgs) (s : State) : exec (.loopb o) s = execLoopb o s := rfl
@[simp] theorem exec_brk (o : IArgs) (s : State) : exec (.brk o) s = execBrk o s := rfl
@[simp] theorem exec_loope (o : JArgs) (s : State) : exec (.loope o) s = execLoope o s := rfl
@[simp] theorem exec_call (o : JArgs) (s : State) : exec (.call o) s = execCall o s := rfl
@[simp] theorem exec_calli (o : WArgs) (s : State) : exec (.calli o) s = execCalli o s := rfl
@[simp] theorem exec_ret (o : WArgs) (s : State) : exec (.ret o) s = execRet o s := rfl
@[simp] theorem exec_exit (o : WArgs) (s : State) : exec (.exit o) s = execExit o s := rfl
@[simp] theorem exec_nop (o : WArgs) (s : State) : exec (.nop o) s = execNop o s := rfl
@[simp] theorem exec_brw (o : WArgs) (s : State) : exec (.brw o) s = execBrw o s := rfl
@[simp] theorem exec_wbind (o : WArgs) (s : State) : exec (.wbind o) s = execWbind o s := rfl
@[simp] theorem exec_regang (o : WArgs) (s : State) : exec (.regang o) s = execRegang o s := rfl
@[simp] theorem exec_hand (o : WArgs) (s : State) : exec (.hand o) s = execHand o s := rfl
@[simp] theorem exec_bara (o : WArgs) (s : State) : exec (.bara o) s = execBara o s := rfl
@[simp] theorem exec_barw (o : WArgs) (s : State) : exec (.barw o) s = execBarw o s := rfl
@[simp] theorem exec_wbar (o : WArgs) (s : State) : exec (.wbar o) s = execWbar o s := rfl
@[simp] theorem exec_tickw (o : WArgs) (s : State) : exec (.tickw o) s = execTickw o s := rfl
@[simp] theorem exec_setpl (o : WArgs) (s : State) : exec (.setpl o) s = execSetpl o s := rfl
@[simp] theorem exec_launch (o : WArgs) (s : State) : exec (.launch o) s = execLaunch o s := rfl
@[simp] theorem exec_kand (o : WArgs) (s : State) : exec (.kand o) s = execKand o s := rfl
@[simp] theorem exec_kor (o : WArgs) (s : State) : exec (.kor o) s = execKor o s := rfl
@[simp] theorem exec_kxor (o : WArgs) (s : State) : exec (.kxor o) s = execKxor o s := rfl
@[simp] theorem exec_knot (o : WArgs) (s : State) : exec (.knot o) s = execKnot o s := rfl
@[simp] theorem exec_kmov (o : WArgs) (s : State) : exec (.kmov o) s = execKmov o s := rfl
@[simp] theorem exec_kpop (o : WArgs) (s : State) : exec (.kpop o) s = execKpop o s := rfl
@[simp] theorem exec_fdiv (o : PArgs) (s : State) : exec (.fdiv o) s = execFdiv o s := rfl
@[simp] theorem exec_vdiv (o : PArgs) (s : State) : exec (.vdiv o) s = execVdiv o s := rfl
@[simp] theorem exec_sysr (o : WArgs) (s : State) : exec (.sysr o) s = execSysr o s := rfl
@[simp] theorem exec_sysrCtx (o : WArgs) (s : State) : exec (.sysrCtx o) s = execSysrCtx o s := rfl
@[simp] theorem exec_sysw (o : WArgs) (s : State) : exec (.sysw o) s = execSysw o s := rfl
@[simp] theorem exec_syswCtx (o : WArgs) (s : State) : exec (.syswCtx o) s = execSyswCtx o s := rfl
@[simp] theorem exec_tlbinvPage (o : WArgs) (s : State) : exec (.tlbinvPage o) s = execTlbinvPage o s := rfl
@[simp] theorem exec_tlbinvCtx (o : WArgs) (s : State) : exec (.tlbinvCtx o) s = execTlbinvCtx o s := rfl
@[simp] theorem exec_tlbinvAll (o : WArgs) (s : State) : exec (.tlbinvAll o) s = execTlbinvAll o s := rfl
@[simp] theorem exec_ecall (o : WArgs) (s : State) : exec (.ecall o) s = execEcall o s := rfl
@[simp] theorem exec_flushw (o : WArgs) (s : State) : exec (.flushw o) s = execFlushw o s := rfl
@[simp] theorem exec_trap (o : WArgs) (s : State) : exec (.trap o) s = execTrap o s := rfl
@[simp] theorem exec_tretNext (o : WArgs) (s : State) : exec (.tretNext o) s = execTretNext o s := rfl
@[simp] theorem exec_tretReplay (o : WArgs) (s : State) : exec (.tretReplay o) s = execTretReplay o s := rfl
@[simp] theorem exec_tretReex (o : WArgs) (s : State) : exec (.tretReex o) s = execTretReex o s := rfl
@[simp] theorem exec_laneinfo (o : WArgs) (s : State) : exec (.laneinfo o) s = execLaneinfo o s := rfl
@[simp] theorem exec_laneinfoV (o : WArgs) (s : State) : exec (.laneinfoV o) s = execLaneinfoV o s := rfl
@[simp] theorem exec_laneinfoClr (o : WArgs) (s : State) : exec (.laneinfoClr o) s = execLaneinfoClr o s := rfl
@[simp] theorem exec_vrdn (o : WArgs) (s : State) : exec (.vrdn o) s = execVrdn o s := rfl
@[simp] theorem exec_vwrn (o : WArgs) (s : State) : exec (.vwrn o) s = execVwrn o s := rfl
@[simp] theorem exec_wmark (o : WArgs) (s : State) : exec (.wmark o) s = execWmark o s := rfl
@[simp] theorem exec_wmarkDrop (o : WArgs) (s : State) : exec (.wmarkDrop o) s = execWmarkDrop o s := rfl
@[simp] theorem exec_undo (o : WArgs) (s : State) : exec (.undo o) s = execUndo o s := rfl
@[simp] theorem exec_undoTeam (o : WArgs) (s : State) : exec (.undoTeam o) s = execUndoTeam o s := rfl
@[simp] theorem exec_tbegin (o : WArgs) (s : State) : exec (.tbegin o) s = execTbegin o s := rfl
@[simp] theorem exec_tcommit (o : WArgs) (s : State) : exec (.tcommit o) s = execTcommit o s := rfl
@[simp] theorem exec_tabort (o : WArgs) (s : State) : exec (.tabort o) s = execTabort o s := rfl
@[simp] theorem exec_brkpt (o : WArgs) (s : State) : exec (.brkpt o) s = execBrkpt o s := rfl
@[simp] theorem exec_rgne (o : WArgs) (s : State) : exec (.rgne o) s = execRgne o s := rfl
@[simp] theorem exec_rgnl (o : WArgs) (s : State) : exec (.rgnl o) s = execRgnl o s := rfl
@[simp] theorem exec_launchAccept (queue : Nat) (s : State) : exec (.launchAccept queue) s = execLaunchAccept queue s := rfl
@[simp] theorem exec_gateSatisfied (launch : Nat) (s : State) : exec (.gateSatisfied launch) s = execGateSatisfied launch s := rfl
@[simp] theorem exec_headWaitExpiry (queue : Nat) (s : State) : exec (.headWaitExpiry queue) s = execHeadWaitExpiry queue s := rfl
@[simp] theorem exec_teamStart (team : Nat) (s : State) : exec (.teamStart team) s = execTeamStart team s := rfl
@[simp] theorem exec_teamSwapOut (team : Nat) (s : State) : exec (.teamSwapOut team) s = execTeamSwapOut team s := rfl
@[simp] theorem exec_teamRestore (team : Nat) (cores : List Nat) (s : State) : exec (.teamRestore team cores) s = execTeamRestore team cores s := rfl
@[simp] theorem exec_issueArbitration (core : Nat) (s : State) : exec (.issueArbitration core) s = execIssueArbitration core s := rfl
@[simp] theorem exec_withholdExpiry (unit : UnitId) (slice : Nat) (s : State) : exec (.withholdExpiry unit slice) s = execWithholdExpiry unit slice s := rfl
@[simp] theorem exec_gatingWindowExpiry (core : Nat) (s : State) : exec (.gatingWindowExpiry core) s = execGatingWindowExpiry core s := rfl
@[simp] theorem exec_powerUpComplete (core : Nat) (s : State) : exec (.powerUpComplete core) s = execPowerUpComplete core s := rfl
@[simp] theorem exec_driftStallRelease (unit : UnitId) (s : State) : exec (.driftStallRelease unit) s = execDriftStallRelease unit s := rfl
@[simp] theorem exec_poolChangeComplete (cluster : Nat) (s : State) : exec (.poolChangeComplete cluster) s = execPoolChangeComplete cluster s := rfl
@[simp] theorem exec_refreshWindowStart (die : Nat) (s : State) : exec (.refreshWindowStart die) s = execRefreshWindowStart die s := rfl
@[simp] theorem exec_refreshWindowEnd (die : Nat) (s : State) : exec (.refreshWindowEnd die) s = execRefreshWindowEnd die s := rfl
@[simp] theorem exec_harrowKstep (core : Nat) (s : State) : exec (.harrowKstep core) s = execHarrowKstep core s := rfl
@[simp] theorem exec_harrowCommandComplete (core : Nat) (s : State) : exec (.harrowCommandComplete core) s = execHarrowCommandComplete core s := rfl
@[simp] theorem exec_sluiceCommandStart (core : Nat) (s : State) : exec (.sluiceCommandStart core) s = execSluiceCommandStart core s := rfl
@[simp] theorem exec_sluiceRowComplete (core : Nat) (s : State) : exec (.sluiceRowComplete core) s = execSluiceRowComplete core s := rfl
@[simp] theorem exec_sluiceCommandComplete (core : Nat) (s : State) : exec (.sluiceCommandComplete core) s = execSluiceCommandComplete core s := rfl
@[simp] theorem exec_sluiceEngineError (unit : UnitId) (s : State) : exec (.sluiceEngineError unit) s = execSluiceEngineError unit s := rfl
@[simp] theorem exec_sluiceFaultResume (core : Nat) (s : State) : exec (.sluiceFaultResume core) s = execSluiceFaultResume core s := rfl
@[simp] theorem exec_kstLink (core : Nat) (s : State) : exec (.kstLink core) s = execKstLink core s := rfl
@[simp] theorem exec_bgatherProbe (core : Nat) (s : State) : exec (.bgatherProbe core) s = execBgatherProbe core s := rfl
@[simp] theorem exec_loadDataReturn (unit : UnitId) (slice : Nat) (s : State) : exec (.loadDataReturn unit slice) s = execLoadDataReturn unit slice s := rfl
@[simp] theorem exec_storePerform (unit : UnitId) (dest : Nat) (s : State) : exec (.storePerform unit dest) s = execStorePerform unit dest s := rfl
@[simp] theorem exec_storeRetire (unit : UnitId) (s : State) : exec (.storeRetire unit) s = execStoreRetire unit s := rfl
@[simp] theorem exec_atomicPerform (unit : UnitId) (s : State) : exec (.atomicPerform unit) s = execAtomicPerform unit s := rfl
@[simp] theorem exec_phaseComplete (unit : UnitId) (s : State) : exec (.phaseComplete unit) s = execPhaseComplete unit s := rfl
@[simp] theorem exec_peerTimeout (op : Nat) (s : State) : exec (.peerTimeout op) s = execPeerTimeout op s := rfl
@[simp] theorem exec_mwaitMonitorWake (unit : UnitId) (slice : Nat) (s : State) : exec (.mwaitMonitorWake unit slice) s = execMwaitMonitorWake unit slice s := rfl
@[simp] theorem exec_mwaitPollExpiry (unit : UnitId) (slice : Nat) (s : State) : exec (.mwaitPollExpiry unit slice) s = execMwaitPollExpiry unit slice s := rfl
@[simp] theorem exec_channelWake (unit : UnitId) (slice : Nat) (s : State) : exec (.channelWake unit slice) s = execChannelWake unit slice s := rfl
@[simp] theorem exec_waitcReturn (unit : UnitId) (slice : Nat) (s : State) : exec (.waitcReturn unit slice) s = execWaitcReturn unit slice s := rfl
@[simp] theorem exec_handReceiveWake (unit : UnitId) (slice : Nat) (s : State) : exec (.handReceiveWake unit slice) s = execHandReceiveWake unit slice s := rfl
@[simp] theorem exec_barrierGenerationComplete (team : Nat) (group : Nat) (s : State) : exec (.barrierGenerationComplete team group) s = execBarrierGenerationComplete team group s := rfl
@[simp] theorem exec_roundRelease (launch : Nat) (s : State) : exec (.roundRelease launch) s = execRoundRelease launch s := rfl
@[simp] theorem exec_tickwRelease (unit : UnitId) (slice : Nat) (s : State) : exec (.tickwRelease unit slice) s = execTickwRelease unit slice s := rfl
@[simp] theorem exec_regangJoin (unit : UnitId) (s : State) : exec (.regangJoin unit) s = execRegangJoin unit s := rfl
@[simp] theorem exec_tlbinvComplete (unit : UnitId) (s : State) : exec (.tlbinvComplete unit) s = execTlbinvComplete unit s := rfl
@[simp] theorem exec_footprintRelease (team : Nat) (s : State) : exec (.footprintRelease team) s = execFootprintRelease team s := rfl
@[simp] theorem exec_launchComplete (launch : Nat) (s : State) : exec (.launchComplete launch) s = execLaunchComplete launch s := rfl
@[simp] theorem exec_doorbell (queue : Nat) (n : W32) (s : State) : exec (.doorbell queue n) s = execDoorbell queue n s := rfl
@[simp] theorem exec_hostWrite (addr : Nat) (bytes : List Byte) (s : State) : exec (.hostWrite addr bytes) s = execHostWrite addr bytes s := rfl
@[simp] theorem exec_controlWindowWrite (offset : Nat) (value : ControlWrite) (s : State) : exec (.controlWindowWrite offset value) s = execControlWindowWrite offset value s := rfl
@[simp] theorem exec_setbrk (byS : Bool) (s : State) : exec (.setbrk byS) s = execSetbrk byS s := rfl
@[simp] theorem exec_setrgn (byS : Bool) (s : State) : exec (.setrgn byS) s = execSetrgn byS s := rfl
@[simp] theorem exec_debugHalt (byS : Bool) (s : State) : exec (.debugHalt byS) s = execDebugHalt byS s := rfl
@[simp] theorem exec_debugResume (byS : Bool) (s : State) : exec (.debugResume byS) s = execDebugResume byS s := rfl
@[simp] theorem exec_debugUndo (byS : Bool) (s : State) : exec (.debugUndo byS) s = execDebugUndo byS s := rfl
@[simp] theorem exec_debugRead (byS : Bool) (s : State) : exec (.debugRead byS) s = execDebugRead byS s := rfl
@[simp] theorem exec_debugWrite (byS : Bool) (s : State) : exec (.debugWrite byS) s = execDebugWrite byS s := rfl
@[simp] theorem exec_thermalCompare (die : Nat) (s : State) : exec (.thermalCompare die) s = execThermalCompare die s := rfl
@[simp] theorem exec_c3Exit (die : Nat) (s : State) : exec (.c3Exit die) s = execC3Exit die s := rfl
@[simp] theorem exec_logSpill (core : Nat) (count : Nat) (s : State) : exec (.logSpill core count) s = execLogSpill core count s := rfl
@[simp] theorem exec_siblingHalt (unit : UnitId) (s : State) : exec (.siblingHalt unit) s = execSiblingHalt unit s := rfl
@[simp] theorem exec_teamRelease (team : Nat) (s : State) : exec (.teamRelease team) s = execTeamRelease team s := rfl
@[simp] theorem exec_faultRequestComplete (ctx page : Nat) (s : State) : exec (.faultRequestComplete ctx page) s = execFaultRequestComplete ctx page s := rfl
@[simp] theorem exec_faultRoomRecheck (unit : UnitId) (s : State) : exec (.faultRoomRecheck unit) s = execFaultRoomRecheck unit s := rfl
@[simp] theorem exec_hardPreempt (team : Nat) (s : State) : exec (.hardPreempt team) s = execHardPreempt team s := rfl
@[simp] theorem exec_softPreempt (team : Nat) (budget : Nat) (s : State) : exec (.softPreempt team budget) s = execSoftPreempt team budget s := rfl
@[simp] theorem exec_softPreemptBudgetExpiry (team : Nat) (s : State) : exec (.softPreemptBudgetExpiry team) s = execSoftPreemptBudgetExpiry team s := rfl
@[simp] theorem exec_sliceUncorrectableError (unit : UnitId) (slice : Nat) (s : State) : exec (.sliceUncorrectableError unit slice) s = execSliceUncorrectableError unit slice s := rfl
@[simp] theorem exec_coreClear (core ctx : Nat) (s : State) : exec (.coreClear core ctx) s = execCoreClear core ctx s := rfl
@[simp] theorem exec_codeLoad (ctx : Nat) (load : LoadRequest) (s : State) : exec (.codeLoad ctx load) s = execCodeLoad ctx load s := rfl
@[simp] theorem exec_unloadComplete (ctx : Nat) (handle : W64) (s : State) : exec (.unloadComplete ctx handle) s = execUnloadComplete ctx handle s := rfl
@[simp] theorem exec_hostWindowWrite (addr : Nat) (bytes : WindowOp) (s : State) : exec (.hostWindowWrite addr bytes) s = execHostWindowWrite addr bytes s := rfl
@[simp] theorem exec_resetRelease (s : State) : exec (.resetRelease) s = execResetRelease s := rfl
@[simp] theorem exec_placementStep (s : State) : exec (.placementStep) s = execPlacementStep s := rfl
@[simp] theorem exec_thermalSaveBudgetExpiry (s : State) : exec (.thermalSaveBudgetExpiry) s = execThermalSaveBudgetExpiry s := rfl
@[simp] theorem exec_thermalCooled (s : State) : exec (.thermalCooled) s = execThermalCooled s := rfl
@[simp] theorem exec_latchTick (s : State) : exec (.latchTick) s = execLatchTick s := rfl
@[simp] theorem exec_thermalSavesDone (s : State) : exec (.thermalSavesDone) s = execThermalSavesDone s := rfl
@[simp] theorem exec_debugBadCommand (s : State) : exec (.debugBadCommand) s = execDebugBadCommand s := rfl
@[simp] theorem exec_threl (s : State) : exec (.threl) s = execThrel s := rfl
@[simp] theorem exec_flitCrcRetry (port : Nat) (s : State) : exec (.flitCrcRetry port) s = execFlitCrcRetry port s := rfl
@[simp] theorem exec_tickFlit (peer : Nat) (tick : W64) (s : State) : exec (.tickFlit peer tick) s = execTickFlit peer tick s := rfl
@[simp] theorem exec_aplLinkTrain (port : Nat) (pkg : BitVec 16) (s : State) : exec (.aplLinkTrain port pkg) s = execAplLinkTrain port pkg s := rfl
@[simp] theorem exec_aplLinkLoss (port : Nat) (s : State) : exec (.aplLinkLoss port) s = execAplLinkLoss port s := rfl
@[simp] theorem exec_gatingRequest (core : Nat) (s : State) : exec (.gatingRequest core) s = execGatingRequest core s := rfl
@[simp] theorem exec_corrClear (index : Nat) (s : State) : exec (.corrClear index) s = execCorrClear index s := rfl
@[simp] theorem exec_peerTableWrite (peer : Nat) (entry : BitVec 128) (s : State) : exec (.peerTableWrite peer entry) s = execPeerTableWrite peer entry s := rfl
@[simp] theorem exec_poolReassign (cluster : Nat) (cls : BitVec 2) (s : State) : exec (.poolReassign cluster cls) s = execPoolReassign cluster cls s := rfl
@[simp] theorem exec_hostImageWrite (slot : Nat) (image : ImageBody) (s : State) : exec (.hostImageWrite slot image) s = execHostImageWrite slot image s := rfl
@[simp] theorem exec_contextTeardown (ctx : Nat) (s : State) : exec (.contextTeardown ctx) s = execContextTeardown ctx s := rfl
@[simp] theorem exec_dataPoison (place : PoisonPlace) (s : State) : exec (.dataPoison place) s = execDataPoison place s := rfl
@[simp] theorem exec_correctedError (index : Nat) (s : State) : exec (.correctedError index) s = execCorrectedError index s := rfl
@[simp] theorem exec_supervisorTrapResume (unit : UnitId) (mode : BitVec 2) (s : State) : exec (.supervisorTrapResume unit mode) s = execSupervisorTrapResume unit mode s := rfl
@[simp] theorem exec_peerOpArrival (peer : Nat) (op : PeerRequest) (s : State) : exec (.peerOpArrival peer op) s = execPeerOpArrival peer op s := rfl
@[simp] theorem exec_peerAck (op : Nat) (ok : Bool) (s : State) : exec (.peerAck op ok) s = execPeerAck op ok s := rfl
@[simp] theorem exec_codeUnload (ctx : Nat) (handle : W64) (s : State) : exec (.codeUnload ctx handle) s = execCodeUnload ctx handle s := rfl
@[simp] theorem exec_ecallComplete (unit : UnitId) (slice : Nat) (status value : W64) (s : State) : exec (.ecallComplete unit slice status value) s = execEcallComplete unit slice status value s := rfl

end Sys2Proof.Machine
end

