-- ==== Sys2Proof/Laws/Issue.lean ====
section
/-! SUPPORT. What an issue comes to, and slices and units under updates (Machine/Ops.lean). -/

namespace Sys2Proof.Machine

/-- A free issue is its body. -/
theorem issue_free {i : Instr} {s : State} {x : Issue} (h : Issues i s x) (body : Issue → Done) :
    issue i s body = .next (finish i s x (body x)) := by
  simp only [issue, h.issuer, h.stays, h.free, Bool.false_eq_true, if_false]

/-- At level S a privileged issue is an issue. -/
theorem issueS_free {i : Instr} {s : State} {x : Issue} (h : Issues i s x) (hs : x.unit.isS = true) (body : Issue → Done) :
    issueS i s body = .next (finish i s x (body x)) := by
  simp only [issueS, h.issuer, hs, if_true, issue_free h]

/-- At level U a privileged issue is class 2. -/
theorem issueS_user {i : Instr} {s : State} {x : Issue} (h : s.issuer = some x) (hs : x.unit.isS = false) (body : Issue → Done) :
    issueS i s body = .next (finish i s x (.trap { cls := 2, sub := 0 })) := by
  simp only [issueS, h, hs, Bool.false_eq_true, if_false]

/-- An empty source under policy 1 is class 6. -/
theorem issue_class6 {i : Instr} {s : State} {x : Issue} {b : Bool} (h : s.issuer = some x)
    (hs : (x.unit.txn.isSome && abortsTxn i) = false) (hh : holdBack (s.coreAt x.unit.id.core) x.slices i = .trap b)
    (body : Issue → Done) : issue i s body = .next (finish i s x (.trap { cls := 6, sub := bit01 b })) := by
  simp only [issue, h, hs, hh, Bool.false_eq_true, if_false]

/-- An empty register otherwise holds the issue back: nothing changes. -/
theorem issue_wait {i : Instr} {s : State} {x : Issue} (h : s.issuer = some x)
    (hs : (x.unit.txn.isSome && abortsTxn i) = false) (hh : holdBack (s.coreAt x.unit.id.core) x.slices i = .wait)
    (body : Issue → Done) : issue i s body = .next s := by
  simp only [issue, h, hs, hh, Bool.false_eq_true, if_false]

/-- A listed instruction in a transaction is its abort, with cause 5. -/
theorem issue_abort {i : Instr} {s : State} {x : Issue} (h : s.issuer = some x)
    (hs : (x.unit.txn.isSome && abortsTxn i) = true) (body : Issue → Done) :
    issue i s body = .next (finish i s x (.abort 5 0 0)) := by
  simp only [issue, h, hs, if_true]

@[simp] theorem finish_seq (i : Instr) (s : State) (x : Issue) (s' : State) (u : Unit) :
    finish i s x (.seq s' u) = s'.setUnit (u.advance x.js x.size) := rfl
@[simp] theorem finish_jump (i : Instr) (s : State) (x : Issue) (s' : State) (u : Unit) :
    finish i s x (.jump s' u) = s'.setUnit (u.regroup x.js) := rfl
@[simp] theorem finish_stay (i : Instr) (s : State) (x : Issue) (s' : State) (u : Unit) :
    finish i s x (.stay s' u) = s'.setUnit u := rfl
@[simp] theorem finish_stall (i : Instr) (s : State) (x : Issue) : finish i s x .stall = s := rfl
@[simp] theorem finish_raw (i : Instr) (s : State) (x : Issue) (s' : State) : finish i s x (.raw s') = s' := rfl
@[simp] theorem finish_trap (i : Instr) (s : State) (x : Issue) (t : Trap) :
    finish i s x (.trap t) = takeTrap s x.unit x.js x.pc x.word0 x.word1 (t.at i x) := rfl

/-- The plain shape: executing slices changed by `F`, then on. -/
theorem finish_slices (i : Instr) (s : State) (x : Issue) (F : Slice → Slice) :
    finish i s x (.seq s (x.unit.mapSlices x.js F)) = after s x F := rfl

/-- A register that is full stays so. -/
theorem Slice.fillV_full {t : Slice} {r : Reg} {p : Bool} (d : Reg) (q : Bool) (h : t.fullV r p = true) :
    (t.fillV d q).fullV r p = true := by
  simp only [Slice.fullV, Slice.fillV, beq_iff_eq] at *
  exact BitVec.eq_of_getLsbD_eq (fun i _ => by
    have := congrArg (fun x => x.getLsbD i) h
    simp at this ⊢
    exact fun hp => .inl (this hp))

@[simp] theorem Slice.countFull_fullS (m : BitVec 4) (t : Slice) (x : Result) (r : Reg) : (t.countFull m x).fullS r = t.fullS r := by
  cases x <;> simp only [Slice.countFull] <;> split <;> rfl

theorem Slice.countFull_fullV {m : BitVec 4} {t : Slice} {x : Result} {r : Reg} {p : Bool} (h : t.fullV r p = true) :
    (t.countFull m x).fullV r p = true := by
  cases x <;> simp only [Slice.countFull] <;> first | exact h | (split <;> first | exact Slice.fillV_full _ _ h | exact h)

/-- A slice about to replay has the scalars that it had, full as they were. -/
@[simp] theorem Slice.replayable_fullS (t : Slice) (r : Reg) : t.replayable.fullS r = t.fullS r := by
  have go (m : BitVec 4) (rs : List Result) : ∀ y : Slice, (rs.foldl (Slice.countFull m) y).fullS r = y.fullS r := by
    induction rs <;> simp_all
  unfold Slice.replayable
  split
  · rfl
  · exact go _ _ _

theorem Slice.replayable_fullV {t : Slice} {r : Reg} {p : Bool} (h : t.fullV r p = true) : t.replayable.fullV r p = true := by
  have go (m : BitVec 4) (rs : List Result) : ∀ y : Slice, y.fullV r p = true → (rs.foldl (Slice.countFull m) y).fullV r p = true := by
    induction rs with
    | nil => exact fun _ h => h
    | cons x rs ih => exact fun y hy => ih _ (Slice.countFull_fullV hy)
  unfold Slice.replayable
  split
  · exact h
  · exact go _ _ _ h

/-- What is full for a group is full for its replay. -/
theorem isFull_replayable {c : Core} {ts : List Slice} {r : RegRef} (h : isFull c ts r = true) :
    isFull c (ts.map Slice.replayable) r = true := by
  cases r with
  | s r low => cases low <;> simp_all [isFull, List.head?_map]; cases ts <;> simp_all
  | v r pair => simp only [isFull, List.all_map, List.all_eq_true] at *; exact fun t ht => Slice.replayable_fullV (h t ht)
  | t n => exact h

/-- A group whose registers are all full is not held back. -/
theorem holdBack_full {c : Core} {ts : List Slice} {i : Instr} (hs : ∀ r ∈ sources i, isFull c ts r.ref = true)
    (hd : ∀ r ∈ dests i, isFull c ts r = true) : holdBack c ts i = .free := by
  have hs' := fun r hr => isFull_replayable (hs r hr)
  have hd' := fun r hr => isFull_replayable (hd r hr)
  have h : (sources i).find? (fun r => r.policy && !isFull c (ts.map Slice.replayable) r.ref) = none := by
    rw [List.find?_eq_none]; intro r hr; simp [hs' r hr]
  simp only [holdBack, h, List.all_eq_true.2 hs', List.all_eq_true.2 hd', Bool.and_self, if_true]

theorem Issues.of_full {i : Instr} {s : State} {x : Issue} (h : s.issuer = some x)
    (hs : (x.unit.txn.isSome && abortsTxn i) = false) (hf : AllFull i s x) : Issues i s x :=
  ⟨h, hs, holdBack_full hf.1 hf.2⟩

end Sys2Proof.Machine
end

