-- ==== Sys2Proof/Laws/Mem.lean ====
section
/-! SUPPORT. Memory: reads after writes, and that every operation keeps the canonical form. -/

namespace Sys2Proof.Machine

namespace Mem

/-- The canonical form of a list whose addresses are all at or above `lo`. -/
def ok (lo : Nat) (m : Mem) : Bool := risingFrom lo m && m.all (fun c => c.2 != blank)

theorem wf_iff (m : Mem) : wf m = ok 0 m := rfl

@[simp] theorem ok_nil (lo : Nat) : ok lo [] = true := rfl

theorem ok_cons (lo a : Nat) (b : Byte) (m : Mem) :
    ok lo ((a, b) :: m) = true ↔ lo ≤ a ∧ b ≠ blank ∧ ok (a + 1) m = true := by
  simp only [ok, risingFrom, List.all_cons, Bool.and_eq_true, decide_eq_true_eq, bne_iff_ne]
  constructor
  · rintro ⟨⟨h1, h2⟩, h3, h4⟩; exact ⟨h1, h3, h2, h4⟩
  · rintro ⟨h1, h3, h2, h4⟩; exact ⟨⟨h1, h2⟩, h3, h4⟩

theorem ok_mono {lo lo' : Nat} (h : lo' ≤ lo) : ∀ {m : Mem}, ok lo m = true → ok lo' m = true
  | [], _ => rfl
  | (a, b) :: m, hm => by
    rw [ok_cons] at hm ⊢
    exact ⟨Nat.le_trans h hm.1, hm.2⟩

theorem write_ok : ∀ {lo : Nat} {m : Mem}, ok lo m = true → ∀ (x : Nat) (v : Byte), lo ≤ x → ok lo (m.write x v) = true
  | lo, [], _, x, v, hx => by
    unfold write
    split
    · rfl
    · rename_i h
      exact (ok_cons ..).2 ⟨hx, h, rfl⟩
  | lo, (a, b) :: m, hm, x, v, hx => by
    obtain ⟨h1, h2, h3⟩ := (ok_cons ..).1 hm
    unfold write
    split
    · rename_i hlt
      split
      · exact hm
      · rename_i hv
        exact (ok_cons ..).2 ⟨hx, hv, (ok_cons ..).2 ⟨hlt, h2, h3⟩⟩
    · rename_i hge
      split
      · rename_i hxa
        subst hxa
        split
        · exact ok_mono (by omega) h3
        · rename_i hv
          exact (ok_cons ..).2 ⟨h1, hv, h3⟩
      · exact (ok_cons ..).2 ⟨h1, h2, write_ok h3 x v (by omega)⟩

/-- A byte stored keeps the canonical form. -/
theorem write_wf {m : Mem} (h : m.wf = true) (x : Nat) (v : Byte) : (m.write x v).wf = true := write_ok h x v (Nat.zero_le x)

/-- Bytes stored keep the canonical form. -/
theorem writeBytes_wf : ∀ (bs : List Byte) {m : Mem}, m.wf = true → ∀ x : Nat, (m.writeBytes x bs).wf = true
  | [], _, h, _ => h
  | b :: bs, _, h, x => writeBytes_wf bs (write_wf h x b) (x + 1)

theorem filter_ok (p : Host.Cell → Bool) : ∀ {lo : Nat} {m : Mem}, ok lo m = true → ok lo (m.filter p) = true
  | _, [], _ => rfl
  | lo, (a, b) :: m, hm => by
    obtain ⟨h1, h2, h3⟩ := (ok_cons ..).1 hm
    rw [List.filter_cons]
    split
    · exact (ok_cons ..).2 ⟨h1, h2, filter_ok p h3⟩
    · exact ok_mono (by omega) (filter_ok p h3)

/-- A range cleared keeps the canonical form. -/
theorem clear_wf {m : Mem} (h : m.wf = true) (lo hi : Nat) : (m.clear lo hi).wf = true := filter_ok _ h

theorem read_below : ∀ {lo : Nat} {m : Mem}, ok lo m = true → ∀ x, x < lo → m.read x = blank
  | _, [], _, _, _ => rfl
  | lo, (a, b) :: m, hm, x, hx => by
    obtain ⟨h1, -, -⟩ := (ok_cons ..).1 hm
    unfold read
    rw [if_neg (by omega), if_pos (by omega)]

/-- A read after a write of one byte. -/
theorem read_write : ∀ {lo : Nat} {m : Mem}, ok lo m = true → ∀ (x : Nat) (v : Byte) (y : Nat),
    (m.write x v).read y = if y = x then v else m.read y
  | _, [], _, x, v, y => by
    unfold write
    split
    · rename_i h
      simp [read, h]
    · simp only [read]
      by_cases hy : y = x
      · subst hy; simp
      · have h2 : ¬x = y := fun h => hy h.symm
        simp [hy, h2]
  | lo, (a, b) :: m, hm, x, v, y => by
    obtain ⟨h1, h2, h3⟩ := (ok_cons ..).1 hm
    unfold write
    split
    · rename_i hlt
      split
      · rename_i hv
        by_cases hy : y = x
        · subst hy
          simp only [read, if_pos, hv]
          rw [if_neg (by omega), if_pos hlt]
        · simp [hy]
      · simp only [read]
        by_cases hy : y = x
        · simp [hy]
        · rw [if_neg (by omega), if_neg hy]
          split
          · rw [if_neg (by omega), if_pos (by omega)]
          · rfl
    · split
      · rename_i hxa
        subst hxa
        split
        · rename_i hv
          by_cases hy : y = x
          · subst hy
            rw [if_pos rfl, hv, read_below h3 y (by omega)]
          · rw [if_neg hy]
            simp only [read]
            rw [if_neg (by omega)]
            split
            · rw [read_below h3 y (by omega)]
            · rfl
        · simp only [read]
          by_cases hy : y = x
          · simp [hy]
          · have h4 : ¬x = y := fun h => hy h.symm
            by_cases h5 : y < x <;> simp [hy, h4, h5]
      · simp only [read, read_write h3 x v y]
        by_cases hy : y = x
        · subst hy
          rw [if_neg (by omega), if_neg (by omega), if_pos rfl]
          simp
        · simp [hy]

/-- The byte stored is read. -/
theorem read_write_same {m : Mem} (h : m.wf = true) (x : Nat) (v : Byte) : (m.write x v).read x = v := by
  rw [read_write (lo := 0) h, if_pos rfl]

/-- Every other byte is read as before. -/
theorem read_write_other {m : Mem} (h : m.wf = true) {x y : Nat} (v : Byte) (hy : y ≠ x) : (m.write x v).read y = m.read y := by
  rw [read_write (lo := 0) h, if_neg hy]

/-- Bytes outside a range stored are read as before. -/
theorem read_writeBytes_other : ∀ (bs : List Byte) {m : Mem}, m.wf = true → ∀ (x y : Nat), (y < x ∨ x + bs.length ≤ y) →
    (m.writeBytes x bs).read y = m.read y
  | [], _, _, _, _, _ => rfl
  | b :: bs, m, h, x, y, hy => by
    simp only [List.length_cons] at hy
    rw [writeBytes, read_writeBytes_other bs (write_wf h x b) (x + 1) y (by omega), read_write_other h b (by omega)]

theorem readBytes_congr {m m' : Mem} : ∀ (n x : Nat), (∀ y, x ≤ y → y < x + n → m'.read y = m.read y) → m'.readBytes x n = m.readBytes x n
  | 0, _, _ => rfl
  | n + 1, x, h => by
    rw [readBytes, readBytes, h x (Nat.le_refl x) (by omega), readBytes_congr n (x + 1) (fun y h1 h2 => h y (by omega) (by omega))]

/-- Bytes stored are read back. -/
theorem readBytes_writeBytes : ∀ (bs : List Byte) {m : Mem}, m.wf = true → ∀ x : Nat, (m.writeBytes x bs).readBytes x bs.length = bs
  | [], _, _, _ => rfl
  | b :: bs, m, h, x => by
    rw [List.length_cons, readBytes, writeBytes, readBytes_writeBytes bs (write_wf h x b) (x + 1),
      read_writeBytes_other bs (write_wf h x b) (x + 1) x (by omega), read_write_same h]

end Mem

namespace Overlay

/-- Publishing keeps the canonical form. -/
theorem publish_wf (o : Overlay) {m : Mem} (h : m.wf = true) : (Overlay.publish o m).wf = true := by
  unfold publish
  induction o generalizing m with
  | nil => exact h
  | cons c o ih => exact ih (Mem.write_wf h c.1 c.2)

end Overlay

end Sys2Proof.Machine
end

