-- ==== Sys2Proof/Laws/PerInstr.lean ====
section
/-! SUPPORT. Per constructor: the row that MAJOR, or on the escape page SEC, names builds the instruction from its own fields
(04_encoding R48-R50). -/

namespace Sys2Proof.Laws.Words

open WellFormed

/-- A row of the maps applied to fields of its format. -/
def build : Decode.Shape → Decode.Args → Option Instr
  | .w f, .w o => some (f o)
  | .p f, .p o => some (f o)
  | .i f, .i o => some (f o)
  | .j f, .j o => some (f o)
  | _, _ => none

/-- SEC of fields. -/
def secOf : Decode.Args → BitVec 8
  | .w o => o.sec
  | .p o => o.sec
  | .i o => o.sec
  | .j _ => 0

/-- The instruction that MAJOR and fields name. -/
def rowOf (major : BitVec 7) (a : Decode.Args) : Option Instr :=
  match (if major = 0x7F then Decode.secondaries[(secOf a).toNat]? else Decode.majors[major.toNat]?) with
  | some sh => build sh a
  | none => none

/-- A program instruction whose fields its entry accepts is what its MAJOR and fields name; a step of the device has no words. -/
def Statement (i : Instr) : Prop :=
  match Decode.parts i with
  | none => True
  | some (m, a) => WellFormed.fieldsOk i = true → rowOf m a = some i

theorem low_sec : ∀ x : BitVec 8, x.toNat < 4 → x.getLsbD 2 = false := by decide
theorem high_sec : ∀ x : BitVec 8, 4 ≤ x.toNat → x.toNat < 8 → x.getLsbD 2 = true := by decide
theorem even_sec : ∀ x : BitVec 8, x = 0 ∨ x = 2 → x.getLsbD 0 = false := by decide
theorem no_bits : ∀ x : BitVec 8, x.toNat < 2 → (x >>> 1 == 0) = true := by decide
theorem small_imm (x : BitVec 16) (h : x.toNat ≤ 6) : (x >>> 4 == 0) = true := by
  have : x >>> 4 = 0 := by bv_omega
  simp [this]

theorem row0x0F : Decode.majors[15]? = some (.i (fun o => if o.sec.getLsbD 2 then .sliIns o else .sli o)) := rfl
theorem row0x43 : Decode.majors[67]? = some (.w (fun o => if o.sec.getLsbD 0 then .vmovStream o else .vmov o)) := rfl
theorem row0x53 : Decode.majors[83]? = some (.w (fun o => if o.xf.getLsbD 0 then .mspanSelf o else .mspan o)) := rfl
theorem row0x54 : Decode.majors[84]? = some (.w (fun o => if (o.sec >>> 1) == 0 then .tbitsNone o else if (o.sec >>> 1) == 1 then .tbitsSeed o else .tbitsTile o)) := rfl
theorem row0x66 : Decode.majors[102]? = some (.w (fun o => if o.sec.getLsbD 0 then .cpSt o else .cpLd o)) := rfl
theorem sec18 : Decode.secondaries[18]? = some (.w (fun o => if o.xf.getLsbD 0 then .sysrCtx o else .sysr o)) := rfl
theorem sec19 : Decode.secondaries[19]? = some (.w (fun o => if o.xf.getLsbD 0 then .syswCtx o else .sysw o)) := rfl
theorem sec20 : Decode.secondaries[20]? = some (.w (fun o => if o.imm == 0 then .tlbinvPage o else if o.imm == 1 then .tlbinvCtx o else .tlbinvAll o)) := rfl
theorem sec24 : Decode.secondaries[24]? = some (.w (fun o => if o.imm == 0 then .tretNext o else if o.imm == 1 then .tretReplay o else .tretReex o)) := rfl
theorem sec25 : Decode.secondaries[25]? = some (.w (fun o => if (o.imm >>> 4) == 0 then .laneinfo o else if (o.imm >>> 4) == 1 then .laneinfoV o else .laneinfoClr o)) := rfl
theorem sec28 : Decode.secondaries[28]? = some (.w (fun o => if o.imm.getLsbD 0 then .wmarkDrop o else .wmark o)) := rfl
theorem sec29 : Decode.secondaries[29]? = some (.w (fun o => if o.imm.getLsbD 0 then .undoTeam o else .undo o)) := rfl

theorem sadd (o : WArgs) : Statement (.sadd o) := fun _ => rfl
theorem ssub (o : WArgs) : Statement (.ssub o) := fun _ => rfl
theorem smul (o : WArgs) : Statement (.smul o) := fun _ => rfl
theorem smulh (o : WArgs) : Statement (.smulh o) := fun _ => rfl
theorem sdiv (o : WArgs) : Statement (.sdiv o) := fun _ => rfl
theorem srem (o : WArgs) : Statement (.srem o) := fun _ => rfl
theorem sand (o : WArgs) : Statement (.sand o) := fun _ => rfl
theorem sor (o : WArgs) : Statement (.sor o) := fun _ => rfl
theorem sxor (o : WArgs) : Statement (.sxor o) := fun _ => rfl
theorem sshl (o : WArgs) : Statement (.sshl o) := fun _ => rfl
theorem sshr (o : WArgs) : Statement (.sshr o) := fun _ => rfl
theorem ssra (o : WArgs) : Statement (.ssra o) := fun _ => rfl
theorem smin (o : WArgs) : Statement (.smin o) := fun _ => rfl
theorem smax (o : WArgs) : Statement (.smax o) := fun _ => rfl
theorem sset (o : WArgs) : Statement (.sset o) := fun _ => rfl
theorem sli (o : IArgs) : Statement (.sli o) := by
  intro h0
  have h : (o.a == 0 && o.sec.toNat < 4 && o.xf == 0) = true := h0
  clear h0
  simp at h
  have e : o.sec.getLsbD 2 = false := low_sec o.sec (by simp_all)
  simp at e
  simp [rowOf, row0x0F, build, e]
theorem sliIns (o : IArgs) : Statement (.sliIns o) := by
  intro h0
  have h : (4 ≤ o.sec.toNat && o.sec.toNat < 8 && o.xf == 0) = true := h0
  clear h0
  simp at h
  have e : o.sec.getLsbD 2 = true := high_sec o.sec (by simp_all) (by simp_all)
  simp at e
  simp [rowOf, row0x0F, build, e]
theorem vadd (o : PArgs) : Statement (.vadd o) := fun _ => rfl
theorem vsub (o : PArgs) : Statement (.vsub o) := fun _ => rfl
theorem vmul (o : PArgs) : Statement (.vmul o) := fun _ => rfl
theorem vmulh (o : PArgs) : Statement (.vmulh o) := fun _ => rfl
theorem vmad (o : PArgs) : Statement (.vmad o) := fun _ => rfl
theorem vand (o : PArgs) : Statement (.vand o) := fun _ => rfl
theorem vor (o : PArgs) : Statement (.vor o) := fun _ => rfl
theorem vxor (o : PArgs) : Statement (.vxor o) := fun _ => rfl
theorem vshl (o : PArgs) : Statement (.vshl o) := fun _ => rfl
theorem vshr (o : PArgs) : Statement (.vshr o) := fun _ => rfl
theorem vsra (o : PArgs) : Statement (.vsra o) := fun _ => rfl
theorem vmin (o : PArgs) : Statement (.vmin o) := fun _ => rfl
theorem vmax (o : PArgs) : Statement (.vmax o) := fun _ => rfl
theorem vabs (o : PArgs) : Statement (.vabs o) := fun _ => rfl
theorem vclz (o : PArgs) : Statement (.vclz o) := fun _ => rfl
theorem vpopc (o : PArgs) : Statement (.vpopc o) := fun _ => rfl
theorem vcmp (o : PArgs) : Statement (.vcmp o) := fun _ => rfl
theorem vsel (o : PArgs) : Statement (.vsel o) := fun _ => rfl
theorem fadd (o : PArgs) : Statement (.fadd o) := fun _ => rfl
theorem fsub (o : PArgs) : Statement (.fsub o) := fun _ => rfl
theorem fmul (o : PArgs) : Statement (.fmul o) := fun _ => rfl
theorem ffma (o : PArgs) : Statement (.ffma o) := fun _ => rfl
theorem fmin (o : PArgs) : Statement (.fmin o) := fun _ => rfl
theorem fmax (o : PArgs) : Statement (.fmax o) := fun _ => rfl
theorem fsgn (o : PArgs) : Statement (.fsgn o) := fun _ => rfl
theorem fcmp (o : PArgs) : Statement (.fcmp o) := fun _ => rfl
theorem fclass (o : PArgs) : Statement (.fclass o) := fun _ => rfl
theorem fscale (o : PArgs) : Statement (.fscale o) := fun _ => rfl
theorem frint (o : PArgs) : Statement (.frint o) := fun _ => rfl
theorem fcvt (o : PArgs) : Statement (.fcvt o) := fun _ => rfl
theorem fcvti (o : PArgs) : Statement (.fcvti o) := fun _ => rfl
theorem icvtf (o : PArgs) : Statement (.icvtf o) := fun _ => rfl
theorem bfpack (o : PArgs) : Statement (.bfpack o) := fun _ => rfl
theorem frcp (o : PArgs) : Statement (.frcp o) := fun _ => rfl
theorem frsq (o : PArgs) : Statement (.frsq o) := fun _ => rfl
theorem fsqrt (o : PArgs) : Statement (.fsqrt o) := fun _ => rfl
theorem fexp2 (o : PArgs) : Statement (.fexp2 o) := fun _ => rfl
theorem flog2 (o : PArgs) : Statement (.flog2 o) := fun _ => rfl
theorem fsin (o : PArgs) : Statement (.fsin o) := fun _ => rfl
theorem fcos (o : PArgs) : Statement (.fcos o) := fun _ => rfl
theorem ftanh (o : PArgs) : Statement (.ftanh o) := fun _ => rfl
theorem fsigm (o : PArgs) : Statement (.fsigm o) := fun _ => rfl
theorem ferf (o : PArgs) : Statement (.ferf o) := fun _ => rfl
theorem vshuf (o : PArgs) : Statement (.vshuf o) := fun _ => rfl
theorem vbcast (o : PArgs) : Statement (.vbcast o) := fun _ => rfl
theorem vred (o : PArgs) : Statement (.vred o) := fun _ => rfl
theorem vscan (o : PArgs) : Statement (.vscan o) := fun _ => rfl
theorem vconf (o : PArgs) : Statement (.vconf o) := fun _ => rfl
theorem vcomb (o : PArgs) : Statement (.vcomb o) := fun _ => rfl
theorem vcmprs (o : PArgs) : Statement (.vcmprs o) := fun _ => rfl
theorem vexpnd (o : PArgs) : Statement (.vexpnd o) := fun _ => rfl
theorem vmov (o : WArgs) : Statement (.vmov o) := by
  intro h0
  have h : (noB o && o.imm == 0 && (o.sec == 0 || o.sec == 2) && kmOnly o.xf) = true := h0
  clear h0
  simp at h
  have e : o.sec.getLsbD 0 = false := even_sec o.sec (by simp_all)
  simp at e
  simp [rowOf, row0x43, build, e]
theorem vmovStream (o : WArgs) : Statement (.vmovStream o) := by
  intro h0
  have h : (noB o && o.imm == 0 && o.sec == 1 && kmOnly o.xf && below o.a 16 && !o.fa) = true := h0
  clear h0
  simp at h
  have e : o.sec.getLsbD 0 = true := by simp_all
  simp at e
  simp [rowOf, row0x43, build, e]
theorem vsplat (o : WArgs) : Statement (.vsplat o) := fun _ => rfl
theorem vextr (o : WArgs) : Statement (.vextr o) := fun _ => rfl
theorem vlane (o : WArgs) : Statement (.vlane o) := fun _ => rfl
theorem xv (o : PArgs) : Statement (.xv o) := fun _ => rfl
theorem xpush (o : WArgs) : Statement (.xpush o) := fun _ => rfl
theorem xpop (o : WArgs) : Statement (.xpop o) := fun _ => rfl
theorem xpeek (o : WArgs) : Statement (.xpeek o) := fun _ => rfl
theorem xdepth (o : WArgs) : Statement (.xdepth o) := fun _ => rfl
theorem xclr (o : WArgs) : Statement (.xclr o) := fun _ => rfl
theorem tcfg (o : WArgs) : Statement (.tcfg o) := fun _ => rfl
theorem tld (o : WArgs) : Statement (.tld o) := fun _ => rfl
theorem tst (o : WArgs) : Statement (.tst o) := fun _ => rfl
theorem tzero (o : WArgs) : Statement (.tzero o) := fun _ => rfl
theorem mma (o : WArgs) : Statement (.mma o) := fun _ => rfl
theorem mloop (o : WArgs) : Statement (.mloop o) := fun _ => rfl
theorem mspan (o : WArgs) : Statement (.mspan o) := by
  intro h0
  have h : (noD o && noA o && noB o && o.sec == 0 && o.xf == 0 && (o.imm &&& 0x0380) == 0) = true := h0
  clear h0
  simp at h
  have e0 : o.xf = 0 := by simp_all
  simp [rowOf, row0x53, build, e0]
theorem mspanSelf (o : WArgs) : Statement (.mspanSelf o) := by
  intro h0
  have h : (noD o && noA o && noB o && o.sec == 0 && o.xf == 1 && o.imm == 0) = true := h0
  clear h0
  simp at h
  have e0 : o.xf = 1 := by simp_all
  simp [rowOf, row0x53, build, e0]
theorem tbitsNone (o : WArgs) : Statement (.tbitsNone o) := by
  intro h0
  have h : (noD o && noA o && noB o && o.imm == 0 && o.sec.toNat < 2 && o.xf == 0) = true := h0
  clear h0
  simp at h
  have e : (o.sec >>> 1 == 0) = true := no_bits o.sec (by simp_all)
  simp at e
  simp [rowOf, row0x54, build, e]
theorem tbitsSeed (o : WArgs) : Statement (.tbitsSeed o) := by
  intro h0
  have h : (noD o && (o.sec >>> 1) == 1 && o.xf == 0) = true := h0
  clear h0
  simp at h
  have e : (o.sec >>> 1 == 0) = false ∧ (o.sec >>> 1 == 1) = true := by simp_all
  simp at e
  simp [rowOf, row0x54, build, e]
theorem tbitsTile (o : WArgs) : Statement (.tbitsTile o) := by
  intro h0
  have h : (below o.d 8 && noA o && noB o && o.imm == 0 && (o.sec >>> 1) == 2 && o.xf == 0) = true := h0
  clear h0
  simp at h
  have e : (o.sec >>> 1 == 0) = false ∧ (o.sec >>> 1 == 1) = false := by simp_all
  simp at e
  simp [rowOf, row0x54, build, e]
theorem tout (o : WArgs) : Statement (.tout o) := fun _ => rfl
theorem sld (o : IArgs) : Statement (.sld o) := fun _ => rfl
theorem sst (o : IArgs) : Statement (.sst o) := fun _ => rfl
theorem vld (o : IArgs) : Statement (.vld o) := fun _ => rfl
theorem vst (o : IArgs) : Statement (.vst o) := fun _ => rfl
theorem vldg (o : WArgs) : Statement (.vldg o) := fun _ => rfl
theorem vstg (o : WArgs) : Statement (.vstg o) := fun _ => rfl
theorem vatom (o : WArgs) : Statement (.vatom o) := fun _ => rfl
theorem satom (o : WArgs) : Statement (.satom o) := fun _ => rfl
theorem gatom (o : WArgs) : Statement (.gatom o) := fun _ => rfl
theorem phase (o : WArgs) : Statement (.phase o) := fun _ => rfl
theorem fence (o : WArgs) : Statement (.fence o) := fun _ => rfl
theorem waitc (o : IArgs) : Statement (.waitc o) := fun _ => rfl
theorem mwait (o : WArgs) : Statement (.mwait o) := fun _ => rfl
theorem pst (o : WArgs) : Statement (.pst o) := fun _ => rfl
theorem patom (o : WArgs) : Statement (.patom o) := fun _ => rfl
theorem pref (o : IArgs) : Statement (.pref o) := fun _ => rfl
theorem cpLd (o : WArgs) : Statement (.cpLd o) := by
  intro h0
  have h : (o.sec == 0 && (o.imm &&& 0x0F).toNat ≤ 3 && (o.xf &&& 7) == 0) = true := h0
  clear h0
  simp at h
  have e : o.sec.getLsbD 0 = false := by simp_all
  simp at e
  simp [rowOf, row0x66, build, e]
theorem cpSt (o : WArgs) : Statement (.cpSt o) := by
  intro h0
  have h : (o.sec == 1 && (o.imm &&& 0x0F) == 0 && (o.xf &&& 7) == 0) = true := h0
  clear h0
  simp at h
  have e : o.sec.getLsbD 0 = true := by simp_all
  simp at e
  simp [rowOf, row0x66, build, e]
theorem cpx (o : WArgs) : Statement (.cpx o) := fun _ => rfl
theorem cps (o : WArgs) : Statement (.cps o) := fun _ => rfl
theorem cpred (o : WArgs) : Statement (.cpred o) := fun _ => rfl
theorem cpconv (o : WArgs) : Statement (.cpconv o) := fun _ => rfl
theorem cpstage (o : WArgs) : Statement (.cpstage o) := fun _ => rfl
theorem chwait (o : WArgs) : Statement (.chwait o) := fun _ => rfl
theorem chrel (o : WArgs) : Statement (.chrel o) := fun _ => rfl
theorem rowbar (o : WArgs) : Statement (.rowbar o) := fun _ => rfl
theorem moedisp (o : WArgs) : Statement (.moedisp o) := fun _ => rfl
theorem kst (o : WArgs) : Statement (.kst o) := fun _ => rfl
theorem qsig (o : WArgs) : Statement (.qsig o) := fun _ => rfl
theorem bgather (o : WArgs) : Statement (.bgather o) := fun _ => rfl
theorem br (o : JArgs) : Statement (.br o) := fun _ => rfl
theorem brc (o : IArgs) : Statement (.brc o) := fun _ => rfl
theorem brv (o : IArgs) : Statement (.brv o) := fun _ => rfl
theorem join (o : WArgs) : Statement (.join o) := fun _ => rfl
theorem loopb (o : IArgs) : Statement (.loopb o) := fun _ => rfl
theorem brk (o : IArgs) : Statement (.brk o) := fun _ => rfl
theorem loope (o : JArgs) : Statement (.loope o) := fun _ => rfl
theorem call (o : JArgs) : Statement (.call o) := fun _ => rfl
theorem calli (o : WArgs) : Statement (.calli o) := fun _ => rfl
theorem ret (o : WArgs) : Statement (.ret o) := fun _ => rfl
theorem exit (o : WArgs) : Statement (.exit o) := fun _ => rfl
theorem nop (o : WArgs) : Statement (.nop o) := fun _ => rfl
theorem brw (o : WArgs) : Statement (.brw o) := by
  intro h0
  have h : (below o.d 16 && o.imm.toNat ≤ 2 && o.sec == 0x00 && o.xf == 0) = true := h0
  clear h0
  simp at h
  have e0 : o.sec = 0x00 := by simp_all
  cases o; cases e0; rfl
theorem wbind (o : WArgs) : Statement (.wbind o) := by
  intro h0
  have h : (below o.d 16 && noB o && o.sec == 0x01 && o.xf == 0) = true := h0
  clear h0
  simp at h
  have e0 : o.sec = 0x01 := by simp_all
  cases o; cases e0; rfl
theorem regang (o : WArgs) : Statement (.regang o) := by
  intro h0
  have h : (noD o && noA o && noB o && o.imm == 0 && o.sec == 0x02 && o.xf == 0) = true := h0
  clear h0
  simp at h
  have e0 : o.sec = 0x02 := by simp_all
  cases o; cases e0; rfl
theorem hand (o : WArgs) : Statement (.hand o) := by
  intro h0
  have h : (noA o && noB o && o.sec == 0x03 && o.xf == 0 && o.imm.toNat < 128 && (o.imm &&& 7) != 0 && (o.imm >>> 3 &&& 7) != 0 && (o.imm &&& 7) != (o.imm >>> 3 &&& 7)) = true := h0
  clear h0
  simp at h
  have e0 : o.sec = 0x03 := by simp_all
  cases o; cases e0; rfl
theorem bara (o : WArgs) : Statement (.bara o) := by
  intro h0
  have h : (noD o && noA o && noB o && o.imm.toNat < 256 && o.sec == 0x04 && o.xf == 0) = true := h0
  clear h0
  simp at h
  have e0 : o.sec = 0x04 := by simp_all
  cases o; cases e0; rfl
theorem barw (o : WArgs) : Statement (.barw o) := by
  intro h0
  have h : (noD o && noA o && noB o && o.imm.toNat < 256 && o.sec == 0x05 && o.xf == 0) = true := h0
  clear h0
  simp at h
  have e0 : o.sec = 0x05 := by simp_all
  cases o; cases e0; rfl
theorem wbar (o : WArgs) : Statement (.wbar o) := by
  intro h0
  have h : (noD o && noA o && noB o && o.imm == 0 && o.sec == 0x06 && o.xf == 0) = true := h0
  clear h0
  simp at h
  have e0 : o.sec = 0x06 := by simp_all
  cases o; cases e0; rfl
theorem tickw (o : WArgs) : Statement (.tickw o) := by
  intro h0
  have h : (noD o && noB o && o.imm == 0 && o.sec == 0x07 && o.xf == 0) = true := h0
  clear h0
  simp at h
  have e0 : o.sec = 0x07 := by simp_all
  cases o; cases e0; rfl
theorem setpl (o : WArgs) : Statement (.setpl o) := by
  intro h0
  have h : (noD o && noB o && o.imm == 0 && o.sec == 0x08 && o.xf == 0) = true := h0
  clear h0
  simp at h
  have e0 : o.sec = 0x08 := by simp_all
  cases o; cases e0; rfl
theorem launch (o : WArgs) : Statement (.launch o) := by
  intro h0
  have h : (noB o && o.imm.toNat < 64 && o.sec == 0x09 && o.xf == 0) = true := h0
  clear h0
  simp at h
  have e0 : o.sec = 0x09 := by simp_all
  cases o; cases e0; rfl
theorem kand (o : WArgs) : Statement (.kand o) := by
  intro h0
  have h : (below o.d 8 && below o.a 8 && below o.b 8 && !o.fa && !o.fb && o.imm == 0 && o.sec == 0x0A && o.xf == 0) = true := h0
  clear h0
  simp at h
  have e0 : o.sec = 0x0A := by simp_all
  cases o; cases e0; rfl
theorem kor (o : WArgs) : Statement (.kor o) := by
  intro h0
  have h : (below o.d 8 && below o.a 8 && below o.b 8 && !o.fa && !o.fb && o.imm == 0 && o.sec == 0x0B && o.xf == 0) = true := h0
  clear h0
  simp at h
  have e0 : o.sec = 0x0B := by simp_all
  cases o; cases e0; rfl
theorem kxor (o : WArgs) : Statement (.kxor o) := by
  intro h0
  have h : (below o.d 8 && below o.a 8 && below o.b 8 && !o.fa && !o.fb && o.imm == 0 && o.sec == 0x0C && o.xf == 0) = true := h0
  clear h0
  simp at h
  have e0 : o.sec = 0x0C := by simp_all
  cases o; cases e0; rfl
theorem knot (o : WArgs) : Statement (.knot o) := by
  intro h0
  have h : (below o.d 8 && below o.a 8 && !o.fa && noB o && o.imm == 0 && o.sec == 0x0D && o.xf == 0) = true := h0
  clear h0
  simp at h
  have e0 : o.sec = 0x0D := by simp_all
  cases o; cases e0; rfl
theorem kmov (o : WArgs) : Statement (.kmov o) := by
  intro h0
  have h : (noB o && o.sec == 0x0E && (if o.xf == 0 then below o.d 8 && below o.a 8 && !o.fa && o.imm == 0 else if o.xf == 8 || o.xf == 12 then below o.d 8 && noA o else if o.xf == 2 then below o.d 8 && o.imm == 0 else if o.xf == 1 then below o.a 8 && !o.fa && o.imm == 0 else false)) = true := h0
  clear h0
  simp at h
  have e0 : o.sec = 0x0E := by simp_all
  cases o; cases e0; rfl
theorem kpop (o : WArgs) : Statement (.kpop o) := by
  intro h0
  have h : (below o.a 8 && !o.fa && noB o && o.imm == 0 && o.sec == 0x0F && o.xf == 0) = true := h0
  clear h0
  simp at h
  have e0 : o.sec = 0x0F := by simp_all
  cases o; cases e0; rfl
theorem fdiv (o : PArgs) : Statement (.fdiv o) := by
  intro h0
  have h : ((floatT o.t || o.t == .dflt) && rmAny o.rm && o.c == 0 && o.x == 0 && o.sec == 0x10 && kmOnly o.xf) = true := h0
  clear h0
  simp at h
  have e0 : o.sec = 0x10 := by simp_all
  cases o; cases e0; rfl
theorem vdiv (o : PArgs) : Statement (.vdiv o) := by
  intro h0
  have h : (intT o.t && o.rm == .dyn && o.c == 0 && o.x.toNat < 2 && o.sec == 0x11 && kmOnly o.xf) = true := h0
  clear h0
  simp at h
  have e0 : o.sec = 0x11 := by simp_all
  cases o; cases e0; rfl
theorem sysr (o : WArgs) : Statement (.sysr o) := by
  intro h0
  have h : (noA o && noB o && sysNumber o.imm.toNat && o.sec == 0x12 && o.xf == 0) = true := h0
  clear h0
  simp at h
  have e0 : o.sec = 0x12 := by simp_all
  have e1 : o.xf = 0 := by simp_all
  simp [rowOf, secOf, e0, sec18, build, e1]
theorem sysrCtx (o : WArgs) : Statement (.sysrCtx o) := by
  intro h0
  have h : (noA o && ctxNumber o.imm.toNat && o.sec == 0x12 && o.xf == 1) = true := h0
  clear h0
  simp at h
  have e0 : o.sec = 0x12 := by simp_all
  have e1 : o.xf = 1 := by simp_all
  simp [rowOf, secOf, e0, sec18, build, e1]
theorem sysw (o : WArgs) : Statement (.sysw o) := by
  intro h0
  have h : (noD o && noB o && sysNumber o.imm.toNat && o.sec == 0x13 && o.xf == 0) = true := h0
  clear h0
  simp at h
  have e0 : o.sec = 0x13 := by simp_all
  have e1 : o.xf = 0 := by simp_all
  simp [rowOf, secOf, e0, sec19, build, e1]
theorem syswCtx (o : WArgs) : Statement (.syswCtx o) := by
  intro h0
  have h : (noD o && ctxNumber o.imm.toNat && o.sec == 0x13 && o.xf == 1) = true := h0
  clear h0
  simp at h
  have e0 : o.sec = 0x13 := by simp_all
  have e1 : o.xf = 1 := by simp_all
  simp [rowOf, secOf, e0, sec19, build, e1]
theorem tlbinvPage (o : WArgs) : Statement (.tlbinvPage o) := by
  intro h0
  have h : (noD o && o.imm == 0 && o.sec == 0x14 && o.xf == 0) = true := h0
  clear h0
  simp at h
  have e0 : o.sec = 0x14 := by simp_all
  have e1 : o.imm = 0 := by simp_all
  simp [rowOf, secOf, e0, sec20, build, e1]
theorem tlbinvCtx (o : WArgs) : Statement (.tlbinvCtx o) := by
  intro h0
  have h : (noD o && noB o && o.imm == 1 && o.sec == 0x14 && o.xf == 0) = true := h0
  clear h0
  simp at h
  have e0 : o.sec = 0x14 := by simp_all
  have e1 : o.imm = 1 := by simp_all
  simp [rowOf, secOf, e0, sec20, build, e1]
theorem tlbinvAll (o : WArgs) : Statement (.tlbinvAll o) := by
  intro h0
  have h : (noD o && noA o && noB o && o.imm == 2 && o.sec == 0x14 && o.xf == 0) = true := h0
  clear h0
  simp at h
  have e0 : o.sec = 0x14 := by simp_all
  have e1 : o.imm = 2 := by simp_all
  simp [rowOf, secOf, e0, sec20, build, e1]
theorem ecall (o : WArgs) : Statement (.ecall o) := by
  intro h0
  have h : (noD o && noA o && noB o && o.sec == 0x15 && o.xf == 0) = true := h0
  clear h0
  simp at h
  have e0 : o.sec = 0x15 := by simp_all
  cases o; cases e0; rfl
theorem flushw (o : WArgs) : Statement (.flushw o) := by
  intro h0
  have h : (noD o && noA o && noB o && o.imm == 0 && o.sec == 0x16 && o.xf == 0) = true := h0
  clear h0
  simp at h
  have e0 : o.sec = 0x16 := by simp_all
  cases o; cases e0; rfl
theorem trap (o : WArgs) : Statement (.trap o) := by
  intro h0
  have h : (noD o && noA o && noB o && o.imm.toNat < 256 && o.sec == 0x17 && o.xf == 0) = true := h0
  clear h0
  simp at h
  have e0 : o.sec = 0x17 := by simp_all
  cases o; cases e0; rfl
theorem tretNext (o : WArgs) : Statement (.tretNext o) := by
  intro h0
  have h : (noD o && noA o && noB o && o.imm == 0 && o.sec == 0x18 && o.xf == 0) = true := h0
  clear h0
  simp at h
  have e0 : o.sec = 0x18 := by simp_all
  have e1 : o.imm = 0 := by simp_all
  simp [rowOf, secOf, e0, sec24, build, e1]
theorem tretReplay (o : WArgs) : Statement (.tretReplay o) := by
  intro h0
  have h : (noD o && noA o && noB o && o.imm == 1 && o.sec == 0x18 && o.xf == 0) = true := h0
  clear h0
  simp at h
  have e0 : o.sec = 0x18 := by simp_all
  have e1 : o.imm = 1 := by simp_all
  simp [rowOf, secOf, e0, sec24, build, e1]
theorem tretReex (o : WArgs) : Statement (.tretReex o) := by
  intro h0
  have h : (noD o && noA o && noB o && o.imm == 2 && o.sec == 0x18 && o.xf == 0) = true := h0
  clear h0
  simp at h
  have e0 : o.sec = 0x18 := by simp_all
  have e1 : o.imm = 2 := by simp_all
  simp [rowOf, secOf, e0, sec24, build, e1]
theorem laneinfo (o : WArgs) : Statement (.laneinfo o) := by
  intro h0
  have h : (noA o && noB o && o.imm.toNat ≤ 6 && o.sec == 0x19 && o.xf == 0) = true := h0
  clear h0
  simp at h
  have e0 : o.sec = 0x19 := by simp_all
  have e : (o.imm >>> 4 == 0) = true := small_imm o.imm (by simp_all)
  simp at e
  simp [rowOf, secOf, e0, sec25, build, e]
theorem laneinfoV (o : WArgs) : Statement (.laneinfoV o) := by
  intro h0
  have h : (noA o && noB o && o.imm == 16 && o.sec == 0x19 && kmOnly o.xf) = true := h0
  clear h0
  simp at h
  have e0 : o.sec = 0x19 := by simp_all
  have e1 : o.imm = 16 := by simp_all
  simp [rowOf, secOf, e0, sec25, build, e1]
theorem laneinfoClr (o : WArgs) : Statement (.laneinfoClr o) := by
  intro h0
  have h : (noD o && noB o && o.imm == 32 && o.sec == 0x19 && o.xf == 0) = true := h0
  clear h0
  simp at h
  have e0 : o.sec = 0x19 := by simp_all
  have e1 : o.imm = 32 := by simp_all
  simp [rowOf, secOf, e0, sec25, build, e1]
theorem vrdn (o : WArgs) : Statement (.vrdn o) := by
  intro h0
  have h : (noB o && o.imm.toNat < 4 && o.sec == 0x1A && (if o.imm.getLsbD 0 then o.xf == 0 else kmOnly o.xf)) = true := h0
  clear h0
  simp at h
  have e0 : o.sec = 0x1A := by simp_all
  cases o; cases e0; rfl
theorem vwrn (o : WArgs) : Statement (.vwrn o) := by
  intro h0
  have h : (noD o && o.imm.toNat < 4 && o.sec == 0x1B && (if o.imm.getLsbD 0 then o.xf == 0 else kmOnly o.xf)) = true := h0
  clear h0
  simp at h
  have e0 : o.sec = 0x1B := by simp_all
  cases o; cases e0; rfl
theorem wmark (o : WArgs) : Statement (.wmark o) := by
  intro h0
  have h : (noD o && noA o && noB o && o.imm == 0 && o.sec == 0x1C && o.xf == 0) = true := h0
  clear h0
  simp at h
  have e0 : o.sec = 0x1C := by simp_all
  have e1 : o.imm = 0 := by simp_all
  simp [rowOf, secOf, e0, sec28, build, e1]
theorem wmarkDrop (o : WArgs) : Statement (.wmarkDrop o) := by
  intro h0
  have h : (noD o && noB o && o.imm == 1 && o.sec == 0x1C && o.xf == 0) = true := h0
  clear h0
  simp at h
  have e0 : o.sec = 0x1C := by simp_all
  have e1 : o.imm = 1 := by simp_all
  simp [rowOf, secOf, e0, sec28, build, e1]
theorem undo (o : WArgs) : Statement (.undo o) := by
  intro h0
  have h : (o.imm == 0 && o.sec == 0x1D && o.xf == 0) = true := h0
  clear h0
  simp at h
  have e0 : o.sec = 0x1D := by simp_all
  have e1 : o.imm = 0 := by simp_all
  simp [rowOf, secOf, e0, sec29, build, e1]
theorem undoTeam (o : WArgs) : Statement (.undoTeam o) := by
  intro h0
  have h : (o.imm == 1 && o.sec == 0x1D && o.xf == 0) = true := h0
  clear h0
  simp at h
  have e0 : o.sec = 0x1D := by simp_all
  have e1 : o.imm = 1 := by simp_all
  simp [rowOf, secOf, e0, sec29, build, e1]
theorem tbegin (o : WArgs) : Statement (.tbegin o) := by
  intro h0
  have h : (noD o && noA o && noB o && o.sec == 0x1E && o.xf == 0) = true := h0
  clear h0
  simp at h
  have e0 : o.sec = 0x1E := by simp_all
  cases o; cases e0; rfl
theorem tcommit (o : WArgs) : Statement (.tcommit o) := by
  intro h0
  have h : (noD o && noA o && noB o && o.imm == 0 && o.sec == 0x1F && o.xf == 0) = true := h0
  clear h0
  simp at h
  have e0 : o.sec = 0x1F := by simp_all
  cases o; cases e0; rfl
theorem tabort (o : WArgs) : Statement (.tabort o) := by
  intro h0
  have h : (noD o && noA o && noB o && o.sec == 0x20 && o.xf == 0) = true := h0
  clear h0
  simp at h
  have e0 : o.sec = 0x20 := by simp_all
  cases o; cases e0; rfl
theorem brkpt (o : WArgs) : Statement (.brkpt o) := by
  intro h0
  have h : (noD o && noA o && noB o && o.imm.toNat < 256 && o.sec == 0x21 && o.xf == 0) = true := h0
  clear h0
  simp at h
  have e0 : o.sec = 0x21 := by simp_all
  cases o; cases e0; rfl
theorem rgne (o : WArgs) : Statement (.rgne o) := by
  intro h0
  have h : (noD o && noA o && noB o && o.sec == 0x22 && o.xf == 0) = true := h0
  clear h0
  simp at h
  have e0 : o.sec = 0x22 := by simp_all
  cases o; cases e0; rfl
theorem rgnl (o : WArgs) : Statement (.rgnl o) := by
  intro h0
  have h : (noD o && noA o && noB o && o.imm == 0 && o.sec == 0x23 && o.xf == 0) = true := h0
  clear h0
  simp at h
  have e0 : o.sec = 0x23 := by simp_all
  cases o; cases e0; rfl
theorem launchAccept (queue : Nat) : Statement (.launchAccept queue) := trivial
theorem gateSatisfied (launch : Nat) : Statement (.gateSatisfied launch) := trivial
theorem headWaitExpiry (queue : Nat) : Statement (.headWaitExpiry queue) := trivial
theorem teamStart (team : Nat) : Statement (.teamStart team) := trivial
theorem teamSwapOut (team : Nat) : Statement (.teamSwapOut team) := trivial
theorem teamRestore (team : Nat) (cores : List Nat) : Statement (.teamRestore team cores) := trivial
theorem issueArbitration (core : Nat) : Statement (.issueArbitration core) := trivial
theorem withholdExpiry (unit : UnitId) (slice : Nat) : Statement (.withholdExpiry unit slice) := trivial
theorem gatingWindowExpiry (core : Nat) : Statement (.gatingWindowExpiry core) := trivial
theorem powerUpComplete (core : Nat) : Statement (.powerUpComplete core) := trivial
theorem driftStallRelease (unit : UnitId) : Statement (.driftStallRelease unit) := trivial
theorem poolChangeComplete (cluster : Nat) : Statement (.poolChangeComplete cluster) := trivial
theorem refreshWindowStart (die : Nat) : Statement (.refreshWindowStart die) := trivial
theorem refreshWindowEnd (die : Nat) : Statement (.refreshWindowEnd die) := trivial
theorem harrowKstep (core : Nat) : Statement (.harrowKstep core) := trivial
theorem harrowCommandComplete (core : Nat) : Statement (.harrowCommandComplete core) := trivial
theorem sluiceCommandStart (core : Nat) : Statement (.sluiceCommandStart core) := trivial
theorem sluiceRowComplete (core : Nat) : Statement (.sluiceRowComplete core) := trivial
theorem sluiceCommandComplete (core : Nat) : Statement (.sluiceCommandComplete core) := trivial
theorem sluiceEngineError (unit : UnitId) : Statement (.sluiceEngineError unit) := trivial
theorem sluiceFaultResume (core : Nat) : Statement (.sluiceFaultResume core) := trivial
theorem kstLink (core : Nat) : Statement (.kstLink core) := trivial
theorem bgatherProbe (core : Nat) : Statement (.bgatherProbe core) := trivial
theorem loadDataReturn (unit : UnitId) (slice : Nat) : Statement (.loadDataReturn unit slice) := trivial
theorem storePerform (unit : UnitId) (dest : Nat) : Statement (.storePerform unit dest) := trivial
theorem storeRetire (unit : UnitId) : Statement (.storeRetire unit) := trivial
theorem atomicPerform (unit : UnitId) : Statement (.atomicPerform unit) := trivial
theorem phaseComplete (unit : UnitId) : Statement (.phaseComplete unit) := trivial
theorem peerTimeout (op : Nat) : Statement (.peerTimeout op) := trivial
theorem mwaitMonitorWake (unit : UnitId) (slice : Nat) : Statement (.mwaitMonitorWake unit slice) := trivial
theorem mwaitPollExpiry (unit : UnitId) (slice : Nat) : Statement (.mwaitPollExpiry unit slice) := trivial
theorem channelWake (unit : UnitId) (slice : Nat) : Statement (.channelWake unit slice) := trivial
theorem waitcReturn (unit : UnitId) (slice : Nat) : Statement (.waitcReturn unit slice) := trivial
theorem handReceiveWake (unit : UnitId) (slice : Nat) : Statement (.handReceiveWake unit slice) := trivial
theorem barrierGenerationComplete (team : Nat) (group : Nat) : Statement (.barrierGenerationComplete team group) := trivial
theorem roundRelease (launch : Nat) : Statement (.roundRelease launch) := trivial
theorem tickwRelease (unit : UnitId) (slice : Nat) : Statement (.tickwRelease unit slice) := trivial
theorem regangJoin (unit : UnitId) : Statement (.regangJoin unit) := trivial
theorem tlbinvComplete (unit : UnitId) : Statement (.tlbinvComplete unit) := trivial
theorem footprintRelease (team : Nat) : Statement (.footprintRelease team) := trivial
theorem launchComplete (launch : Nat) : Statement (.launchComplete launch) := trivial
theorem doorbell (queue : Nat) (n : W32) : Statement (.doorbell queue n) := trivial
theorem hostWrite (addr : Nat) (bytes : List Byte) : Statement (.hostWrite addr bytes) := trivial
theorem controlWindowWrite (offset : Nat) (value : ControlWrite) : Statement (.controlWindowWrite offset value) := trivial
theorem setbrk (byS : Bool) : Statement (.setbrk byS) := trivial
theorem setrgn (byS : Bool) : Statement (.setrgn byS) := trivial
theorem debugHalt (byS : Bool) : Statement (.debugHalt byS) := trivial
theorem debugResume (byS : Bool) : Statement (.debugResume byS) := trivial
theorem debugUndo (byS : Bool) : Statement (.debugUndo byS) := trivial
theorem debugRead (byS : Bool) : Statement (.debugRead byS) := trivial
theorem debugWrite (byS : Bool) : Statement (.debugWrite byS) := trivial
theorem thermalCompare (die : Nat) : Statement (.thermalCompare die) := trivial
theorem c3Exit (die : Nat) : Statement (.c3Exit die) := trivial
theorem logSpill (core : Nat) (count : Nat) : Statement (.logSpill core count) := trivial
theorem siblingHalt (unit : UnitId) : Statement (.siblingHalt unit) := trivial
theorem teamRelease (team : Nat) : Statement (.teamRelease team) := trivial
theorem faultRequestComplete (ctx page : Nat) : Statement (.faultRequestComplete ctx page) := trivial
theorem faultRoomRecheck (unit : UnitId) : Statement (.faultRoomRecheck unit) := trivial
theorem hardPreempt (team : Nat) : Statement (.hardPreempt team) := trivial
theorem softPreempt (team : Nat) (budget : Nat) : Statement (.softPreempt team budget) := trivial
theorem softPreemptBudgetExpiry (team : Nat) : Statement (.softPreemptBudgetExpiry team) := trivial
theorem sliceUncorrectableError (unit : UnitId) (slice : Nat) : Statement (.sliceUncorrectableError unit slice) := trivial
theorem coreClear (core ctx : Nat) : Statement (.coreClear core ctx) := trivial
theorem codeLoad (ctx : Nat) (load : LoadRequest) : Statement (.codeLoad ctx load) := trivial
theorem unloadComplete (ctx : Nat) (handle : W64) : Statement (.unloadComplete ctx handle) := trivial
theorem hostWindowWrite (addr : Nat) (bytes : WindowOp) : Statement (.hostWindowWrite addr bytes) := trivial
theorem resetRelease : Statement .resetRelease := trivial
theorem placementStep : Statement .placementStep := trivial
theorem thermalSaveBudgetExpiry : Statement .thermalSaveBudgetExpiry := trivial
theorem thermalCooled : Statement .thermalCooled := trivial
theorem latchTick : Statement .latchTick := trivial
theorem thermalSavesDone : Statement .thermalSavesDone := trivial
theorem debugBadCommand : Statement .debugBadCommand := trivial
theorem threl : Statement .threl := trivial
theorem flitCrcRetry (port : Nat) : Statement (.flitCrcRetry port) := trivial
theorem tickFlit (peer : Nat) (tick : W64) : Statement (.tickFlit peer tick) := trivial
theorem aplLinkTrain (port : Nat) (pkg : BitVec 16) : Statement (.aplLinkTrain port pkg) := trivial
theorem aplLinkLoss (port : Nat) : Statement (.aplLinkLoss port) := trivial
theorem gatingRequest (core : Nat) : Statement (.gatingRequest core) := trivial
theorem corrClear (index : Nat) : Statement (.corrClear index) := trivial
theorem peerTableWrite (peer : Nat) (entry : BitVec 128) : Statement (.peerTableWrite peer entry) := trivial
theorem poolReassign (cluster : Nat) (cls : BitVec 2) : Statement (.poolReassign cluster cls) := trivial
theorem hostImageWrite (slot : Nat) (image : ImageBody) : Statement (.hostImageWrite slot image) := trivial
theorem contextTeardown (ctx : Nat) : Statement (.contextTeardown ctx) := trivial
theorem dataPoison (place : PoisonPlace) : Statement (.dataPoison place) := trivial
theorem correctedError (index : Nat) : Statement (.correctedError index) := trivial
theorem supervisorTrapResume (unit : UnitId) (mode : BitVec 2) : Statement (.supervisorTrapResume unit mode) := trivial
theorem peerOpArrival (peer : Nat) (op : PeerRequest) : Statement (.peerOpArrival peer op) := trivial
theorem peerAck (op : Nat) (ok : Bool) : Statement (.peerAck op ok) := trivial
theorem codeUnload (ctx : Nat) (handle : W64) : Statement (.codeUnload ctx handle) := trivial
theorem ecallComplete (unit : UnitId) (slice : Nat) (status value : W64) : Statement (.ecallComplete unit slice status value) := trivial

end Sys2Proof.Laws.Words
end

