-- ==== Sys2Proof/Laws/State.lean ====
section
/-! SUPPORT. What the updates of the state and of a slice leave alone, field by field. -/

namespace Sys2Proof.Machine

namespace State

@[simp] theorem setUnit_gtick (s : State) (u : Unit) : (s.setUnit u).gtick = s.gtick := rfl
@[simp] theorem setUnit_pkgstat (s : State) (u : Unit) : (s.setUnit u).pkgstat = s.pkgstat := rfl
@[simp] theorem setUnit_images (s : State) (u : Unit) : (s.setUnit u).images = s.images := rfl
@[simp] theorem setUnit_loaded (s : State) (u : Unit) : (s.setUnit u).loaded = s.loaded := rfl
@[simp] theorem setUnit_pkgId (s : State) (u : Unit) : (s.setUnit u).pkgId = s.pkgId := rfl
@[simp] theorem setUnit_defective (s : State) (u : Unit) : (s.setUnit u).defective = s.defective := rfl
@[simp] theorem setUnit_pools (s : State) (u : Unit) : (s.setUnit u).pools = s.pools := rfl
@[simp] theorem setUnit_poolChange (s : State) (u : Unit) : (s.setUnit u).poolChange = s.poolChange := rfl
@[simp] theorem setUnit_budgets (s : State) (u : Unit) : (s.setUnit u).budgets = s.budgets := rfl
@[simp] theorem setUnit_allowance (s : State) (u : Unit) : (s.setUnit u).allowance = s.allowance := rfl
@[simp] theorem setUnit_temps (s : State) (u : Unit) : (s.setUnit u).temps = s.temps := rfl
@[simp] theorem setUnit_warnMark (s : State) (u : Unit) : (s.setUnit u).warnMark = s.warnMark := rfl
@[simp] theorem setUnit_critMark (s : State) (u : Unit) : (s.setUnit u).critMark = s.critMark := rfl
@[simp] theorem setUnit_c3dies (s : State) (u : Unit) : (s.setUnit u).c3dies = s.c3dies := rfl
@[simp] theorem setUnit_c3from (s : State) (u : Unit) : (s.setUnit u).c3from = s.c3from := rfl
@[simp] theorem setUnit_coolSince (s : State) (u : Unit) : (s.setUnit u).coolSince = s.coolSince := rfl
@[simp] theorem setUnit_critical (s : State) (u : Unit) : (s.setUnit u).critical = s.critical := rfl
@[simp] theorem setUnit_corr (s : State) (u : Unit) : (s.setUnit u).corr = s.corr := rfl
@[simp] theorem setUnit_peers (s : State) (u : Unit) : (s.setUnit u).peers = s.peers := rfl
@[simp] theorem setUnit_links (s : State) (u : Unit) : (s.setUnit u).links = s.links := rfl
@[simp] theorem setUnit_peerOps (s : State) (u : Unit) : (s.setUnit u).peerOps = s.peerOps := rfl
@[simp] theorem setUnit_queues (s : State) (u : Unit) : (s.setUnit u).queues = s.queues := rfl
@[simp] theorem setUnit_ctxtab (s : State) (u : Unit) : (s.setUnit u).ctxtab = s.ctxtab := rfl
@[simp] theorem setUnit_contexts (s : State) (u : Unit) : (s.setUnit u).contexts = s.contexts := rfl
@[simp] theorem setUnit_rfsched (s : State) (u : Unit) : (s.setUnit u).rfsched = s.rfsched := rfl
@[simp] theorem setUnit_rfphase (s : State) (u : Unit) : (s.setUnit u).rfphase = s.rfphase := rfl
@[simp] theorem setUnit_rfForce (s : State) (u : Unit) : (s.setUnit u).rfForce = s.rfForce := rfl
@[simp] theorem setUnit_refresh (s : State) (u : Unit) : (s.setUnit u).refresh = s.refresh := rfl
@[simp] theorem setUnit_tlb (s : State) (u : Unit) : (s.setUnit u).tlb = s.tlb := rfl
@[simp] theorem setUnit_requests (s : State) (u : Unit) : (s.setUnit u).requests = s.requests := rfl
@[simp] theorem setUnit_ecalls (s : State) (u : Unit) : (s.setUnit u).ecalls = s.ecalls := rfl
@[simp] theorem setUnit_reports (s : State) (u : Unit) : (s.setUnit u).reports = s.reports := rfl
@[simp] theorem setUnit_monitors (s : State) (u : Unit) : (s.setUnit u).monitors = s.monitors := rfl
@[simp] theorem setUnit_objects (s : State) (u : Unit) : (s.setUnit u).objects = s.objects := rfl
@[simp] theorem setUnit_refs (s : State) (u : Unit) : (s.setUnit u).refs = s.refs := rfl
@[simp] theorem setUnit_loadEnd (s : State) (u : Unit) : (s.setUnit u).loadEnd = s.loadEnd := rfl
@[simp] theorem setUnit_launches (s : State) (u : Unit) : (s.setUnit u).launches = s.launches := rfl
@[simp] theorem setUnit_teams (s : State) (u : Unit) : (s.setUnit u).teams = s.teams := rfl
@[simp] theorem setUnit_saved (s : State) (u : Unit) : (s.setUnit u).saved = s.saved := rfl
@[simp] theorem setUnit_cores (s : State) (u : Unit) : (s.setUnit u).cores = s.cores := rfl
@[simp] theorem setUnit_log (s : State) (u : Unit) : (s.setUnit u).log = s.log := rfl
@[simp] theorem setUnit_ringsLost (s : State) (u : Unit) : (s.setUnit u).ringsLost = s.ringsLost := rfl
@[simp] theorem setUnit_debugCmd (s : State) (u : Unit) : (s.setUnit u).debugCmd = s.debugCmd := rfl
@[simp] theorem setUnit_debugS (s : State) (u : Unit) : (s.setUnit u).debugS = s.debugS := rfl
@[simp] theorem setUnit_counts (s : State) (u : Unit) : (s.setUnit u).counts = s.counts := rfl
@[simp] theorem setUnit_latches (s : State) (u : Unit) : (s.setUnit u).latches = s.latches := rfl
@[simp] theorem setUnit_lastLatch (s : State) (u : Unit) : (s.setUnit u).lastLatch = s.lastLatch := rfl
@[simp] theorem setUnit_lastCompare (s : State) (u : Unit) : (s.setUnit u).lastCompare = s.lastCompare := rfl
@[simp] theorem setUnit_msix (s : State) (u : Unit) : (s.setUnit u).msix = s.msix := rfl
@[simp] theorem setUnit_turn (s : State) (u : Unit) : (s.setUnit u).turn = s.turn := rfl
@[simp] theorem setUnit_mem (s : State) (u : Unit) : (s.setUnit u).mem = s.mem := rfl
@[simp] theorem setUnit_poison (s : State) (u : Unit) : (s.setUnit u).poison = s.poison := rfl
@[simp] theorem setUnit_agenda (s : State) (u : Unit) : (s.setUnit u).agenda = s.agenda := rfl
@[simp] theorem setUnit_focus (s : State) (u : Unit) : (s.setUnit u).focus = s.focus := rfl
@[simp] theorem setUnit_ports (s : State) (u : Unit) : (s.setUnit u).ports = s.ports := rfl
@[simp] theorem setUnit_nonce (s : State) (u : Unit) : (s.setUnit u).nonce = s.nonce := rfl
@[simp] theorem setUnit_nextId (s : State) (u : Unit) : (s.setUnit u).nextId = s.nextId := rfl
@[simp] theorem mapUnits_gtick (s : State) (p : Unit → Bool) (f : Unit → Unit) : (s.mapUnits p f).gtick = s.gtick := rfl
@[simp] theorem mapUnits_pkgstat (s : State) (p : Unit → Bool) (f : Unit → Unit) : (s.mapUnits p f).pkgstat = s.pkgstat := rfl
@[simp] theorem mapUnits_images (s : State) (p : Unit → Bool) (f : Unit → Unit) : (s.mapUnits p f).images = s.images := rfl
@[simp] theorem mapUnits_loaded (s : State) (p : Unit → Bool) (f : Unit → Unit) : (s.mapUnits p f).loaded = s.loaded := rfl
@[simp] theorem mapUnits_pkgId (s : State) (p : Unit → Bool) (f : Unit → Unit) : (s.mapUnits p f).pkgId = s.pkgId := rfl
@[simp] theorem mapUnits_defective (s : State) (p : Unit → Bool) (f : Unit → Unit) : (s.mapUnits p f).defective = s.defective := rfl
@[simp] theorem mapUnits_pools (s : State) (p : Unit → Bool) (f : Unit → Unit) : (s.mapUnits p f).pools = s.pools := rfl
@[simp] theorem mapUnits_poolChange (s : State) (p : Unit → Bool) (f : Unit → Unit) : (s.mapUnits p f).poolChange = s.poolChange := rfl
@[simp] theorem mapUnits_budgets (s : State) (p : Unit → Bool) (f : Unit → Unit) : (s.mapUnits p f).budgets = s.budgets := rfl
@[simp] theorem mapUnits_allowance (s : State) (p : Unit → Bool) (f : Unit → Unit) : (s.mapUnits p f).allowance = s.allowance := rfl
@[simp] theorem mapUnits_temps (s : State) (p : Unit → Bool) (f : Unit → Unit) : (s.mapUnits p f).temps = s.temps := rfl
@[simp] theorem mapUnits_warnMark (s : State) (p : Unit → Bool) (f : Unit → Unit) : (s.mapUnits p f).warnMark = s.warnMark := rfl
@[simp] theorem mapUnits_critMark (s : State) (p : Unit → Bool) (f : Unit → Unit) : (s.mapUnits p f).critMark = s.critMark := rfl
@[simp] theorem mapUnits_c3dies (s : State) (p : Unit → Bool) (f : Unit → Unit) : (s.mapUnits p f).c3dies = s.c3dies := rfl
@[simp] theorem mapUnits_c3from (s : State) (p : Unit → Bool) (f : Unit → Unit) : (s.mapUnits p f).c3from = s.c3from := rfl
@[simp] theorem mapUnits_coolSince (s : State) (p : Unit → Bool) (f : Unit → Unit) : (s.mapUnits p f).coolSince = s.coolSince := rfl
@[simp] theorem mapUnits_critical (s : State) (p : Unit → Bool) (f : Unit → Unit) : (s.mapUnits p f).critical = s.critical := rfl
@[simp] theorem mapUnits_corr (s : State) (p : Unit → Bool) (f : Unit → Unit) : (s.mapUnits p f).corr = s.corr := rfl
@[simp] theorem mapUnits_peers (s : State) (p : Unit → Bool) (f : Unit → Unit) : (s.mapUnits p f).peers = s.peers := rfl
@[simp] theorem mapUnits_links (s : State) (p : Unit → Bool) (f : Unit → Unit) : (s.mapUnits p f).links = s.links := rfl
@[simp] theorem mapUnits_peerOps (s : State) (p : Unit → Bool) (f : Unit → Unit) : (s.mapUnits p f).peerOps = s.peerOps := rfl
@[simp] theorem mapUnits_queues (s : State) (p : Unit → Bool) (f : Unit → Unit) : (s.mapUnits p f).queues = s.queues := rfl
@[simp] theorem mapUnits_ctxtab (s : State) (p : Unit → Bool) (f : Unit → Unit) : (s.mapUnits p f).ctxtab = s.ctxtab := rfl
@[simp] theorem mapUnits_contexts (s : State) (p : Unit → Bool) (f : Unit → Unit) : (s.mapUnits p f).contexts = s.contexts := rfl
@[simp] theorem mapUnits_rfsched (s : State) (p : Unit → Bool) (f : Unit → Unit) : (s.mapUnits p f).rfsched = s.rfsched := rfl
@[simp] theorem mapUnits_rfphase (s : State) (p : Unit → Bool) (f : Unit → Unit) : (s.mapUnits p f).rfphase = s.rfphase := rfl
@[simp] theorem mapUnits_rfForce (s : State) (p : Unit → Bool) (f : Unit → Unit) : (s.mapUnits p f).rfForce = s.rfForce := rfl
@[simp] theorem mapUnits_refresh (s : State) (p : Unit → Bool) (f : Unit → Unit) : (s.mapUnits p f).refresh = s.refresh := rfl
@[simp] theorem mapUnits_tlb (s : State) (p : Unit → Bool) (f : Unit → Unit) : (s.mapUnits p f).tlb = s.tlb := rfl
@[simp] theorem mapUnits_requests (s : State) (p : Unit → Bool) (f : Unit → Unit) : (s.mapUnits p f).requests = s.requests := rfl
@[simp] theorem mapUnits_ecalls (s : State) (p : Unit → Bool) (f : Unit → Unit) : (s.mapUnits p f).ecalls = s.ecalls := rfl
@[simp] theorem mapUnits_reports (s : State) (p : Unit → Bool) (f : Unit → Unit) : (s.mapUnits p f).reports = s.reports := rfl
@[simp] theorem mapUnits_monitors (s : State) (p : Unit → Bool) (f : Unit → Unit) : (s.mapUnits p f).monitors = s.monitors := rfl
@[simp] theorem mapUnits_objects (s : State) (p : Unit → Bool) (f : Unit → Unit) : (s.mapUnits p f).objects = s.objects := rfl
@[simp] theorem mapUnits_refs (s : State) (p : Unit → Bool) (f : Unit → Unit) : (s.mapUnits p f).refs = s.refs := rfl
@[simp] theorem mapUnits_loadEnd (s : State) (p : Unit → Bool) (f : Unit → Unit) : (s.mapUnits p f).loadEnd = s.loadEnd := rfl
@[simp] theorem mapUnits_launches (s : State) (p : Unit → Bool) (f : Unit → Unit) : (s.mapUnits p f).launches = s.launches := rfl
@[simp] theorem mapUnits_teams (s : State) (p : Unit → Bool) (f : Unit → Unit) : (s.mapUnits p f).teams = s.teams := rfl
@[simp] theorem mapUnits_saved (s : State) (p : Unit → Bool) (f : Unit → Unit) : (s.mapUnits p f).saved = s.saved := rfl
@[simp] theorem mapUnits_cores (s : State) (p : Unit → Bool) (f : Unit → Unit) : (s.mapUnits p f).cores = s.cores := rfl
@[simp] theorem mapUnits_log (s : State) (p : Unit → Bool) (f : Unit → Unit) : (s.mapUnits p f).log = s.log := rfl
@[simp] theorem mapUnits_ringsLost (s : State) (p : Unit → Bool) (f : Unit → Unit) : (s.mapUnits p f).ringsLost = s.ringsLost := rfl
@[simp] theorem mapUnits_debugCmd (s : State) (p : Unit → Bool) (f : Unit → Unit) : (s.mapUnits p f).debugCmd = s.debugCmd := rfl
@[simp] theorem mapUnits_debugS (s : State) (p : Unit → Bool) (f : Unit → Unit) : (s.mapUnits p f).debugS = s.debugS := rfl
@[simp] theorem mapUnits_counts (s : State) (p : Unit → Bool) (f : Unit → Unit) : (s.mapUnits p f).counts = s.counts := rfl
@[simp] theorem mapUnits_latches (s : State) (p : Unit → Bool) (f : Unit → Unit) : (s.mapUnits p f).latches = s.latches := rfl
@[simp] theorem mapUnits_lastLatch (s : State) (p : Unit → Bool) (f : Unit → Unit) : (s.mapUnits p f).lastLatch = s.lastLatch := rfl
@[simp] theorem mapUnits_lastCompare (s : State) (p : Unit → Bool) (f : Unit → Unit) : (s.mapUnits p f).lastCompare = s.lastCompare := rfl
@[simp] theorem mapUnits_msix (s : State) (p : Unit → Bool) (f : Unit → Unit) : (s.mapUnits p f).msix = s.msix := rfl
@[simp] theorem mapUnits_turn (s : State) (p : Unit → Bool) (f : Unit → Unit) : (s.mapUnits p f).turn = s.turn := rfl
@[simp] theorem mapUnits_mem (s : State) (p : Unit → Bool) (f : Unit → Unit) : (s.mapUnits p f).mem = s.mem := rfl
@[simp] theorem mapUnits_poison (s : State) (p : Unit → Bool) (f : Unit → Unit) : (s.mapUnits p f).poison = s.poison := rfl
@[simp] theorem mapUnits_agenda (s : State) (p : Unit → Bool) (f : Unit → Unit) : (s.mapUnits p f).agenda = s.agenda := rfl
@[simp] theorem mapUnits_focus (s : State) (p : Unit → Bool) (f : Unit → Unit) : (s.mapUnits p f).focus = s.focus := rfl
@[simp] theorem mapUnits_ports (s : State) (p : Unit → Bool) (f : Unit → Unit) : (s.mapUnits p f).ports = s.ports := rfl
@[simp] theorem mapUnits_nonce (s : State) (p : Unit → Bool) (f : Unit → Unit) : (s.mapUnits p f).nonce = s.nonce := rfl
@[simp] theorem mapUnits_nextId (s : State) (p : Unit → Bool) (f : Unit → Unit) : (s.mapUnits p f).nextId = s.nextId := rfl
@[simp] theorem setCore_gtick (s : State) (c : Core) : (s.setCore c).gtick = s.gtick := rfl
@[simp] theorem setCore_pkgstat (s : State) (c : Core) : (s.setCore c).pkgstat = s.pkgstat := rfl
@[simp] theorem setCore_images (s : State) (c : Core) : (s.setCore c).images = s.images := rfl
@[simp] theorem setCore_loaded (s : State) (c : Core) : (s.setCore c).loaded = s.loaded := rfl
@[simp] theorem setCore_pkgId (s : State) (c : Core) : (s.setCore c).pkgId = s.pkgId := rfl
@[simp] theorem setCore_defective (s : State) (c : Core) : (s.setCore c).defective = s.defective := rfl
@[simp] theorem setCore_pools (s : State) (c : Core) : (s.setCore c).pools = s.pools := rfl
@[simp] theorem setCore_poolChange (s : State) (c : Core) : (s.setCore c).poolChange = s.poolChange := rfl
@[simp] theorem setCore_budgets (s : State) (c : Core) : (s.setCore c).budgets = s.budgets := rfl
@[simp] theorem setCore_allowance (s : State) (c : Core) : (s.setCore c).allowance = s.allowance := rfl
@[simp] theorem setCore_temps (s : State) (c : Core) : (s.setCore c).temps = s.temps := rfl
@[simp] theorem setCore_warnMark (s : State) (c : Core) : (s.setCore c).warnMark = s.warnMark := rfl
@[simp] theorem setCore_critMark (s : State) (c : Core) : (s.setCore c).critMark = s.critMark := rfl
@[simp] theorem setCore_c3dies (s : State) (c : Core) : (s.setCore c).c3dies = s.c3dies := rfl
@[simp] theorem setCore_c3from (s : State) (c : Core) : (s.setCore c).c3from = s.c3from := rfl
@[simp] theorem setCore_coolSince (s : State) (c : Core) : (s.setCore c).coolSince = s.coolSince := rfl
@[simp] theorem setCore_critical (s : State) (c : Core) : (s.setCore c).critical = s.critical := rfl
@[simp] theorem setCore_corr (s : State) (c : Core) : (s.setCore c).corr = s.corr := rfl
@[simp] theorem setCore_peers (s : State) (c : Core) : (s.setCore c).peers = s.peers := rfl
@[simp] theorem setCore_links (s : State) (c : Core) : (s.setCore c).links = s.links := rfl
@[simp] theorem setCore_peerOps (s : State) (c : Core) : (s.setCore c).peerOps = s.peerOps := rfl
@[simp] theorem setCore_queues (s : State) (c : Core) : (s.setCore c).queues = s.queues := rfl
@[simp] theorem setCore_ctxtab (s : State) (c : Core) : (s.setCore c).ctxtab = s.ctxtab := rfl
@[simp] theorem setCore_contexts (s : State) (c : Core) : (s.setCore c).contexts = s.contexts := rfl
@[simp] theorem setCore_rfsched (s : State) (c : Core) : (s.setCore c).rfsched = s.rfsched := rfl
@[simp] theorem setCore_rfphase (s : State) (c : Core) : (s.setCore c).rfphase = s.rfphase := rfl
@[simp] theorem setCore_rfForce (s : State) (c : Core) : (s.setCore c).rfForce = s.rfForce := rfl
@[simp] theorem setCore_refresh (s : State) (c : Core) : (s.setCore c).refresh = s.refresh := rfl
@[simp] theorem setCore_tlb (s : State) (c : Core) : (s.setCore c).tlb = s.tlb := rfl
@[simp] theorem setCore_requests (s : State) (c : Core) : (s.setCore c).requests = s.requests := rfl
@[simp] theorem setCore_ecalls (s : State) (c : Core) : (s.setCore c).ecalls = s.ecalls := rfl
@[simp] theorem setCore_reports (s : State) (c : Core) : (s.setCore c).reports = s.reports := rfl
@[simp] theorem setCore_monitors (s : State) (c : Core) : (s.setCore c).monitors = s.monitors := rfl
@[simp] theorem setCore_objects (s : State) (c : Core) : (s.setCore c).objects = s.objects := rfl
@[simp] theorem setCore_refs (s : State) (c : Core) : (s.setCore c).refs = s.refs := rfl
@[simp] theorem setCore_loadEnd (s : State) (c : Core) : (s.setCore c).loadEnd = s.loadEnd := rfl
@[simp] theorem setCore_launches (s : State) (c : Core) : (s.setCore c).launches = s.launches := rfl
@[simp] theorem setCore_teams (s : State) (c : Core) : (s.setCore c).teams = s.teams := rfl
@[simp] theorem setCore_saved (s : State) (c : Core) : (s.setCore c).saved = s.saved := rfl
@[simp] theorem setCore_units (s : State) (c : Core) : (s.setCore c).units = s.units := rfl
@[simp] theorem setCore_log (s : State) (c : Core) : (s.setCore c).log = s.log := rfl
@[simp] theorem setCore_ringsLost (s : State) (c : Core) : (s.setCore c).ringsLost = s.ringsLost := rfl
@[simp] theorem setCore_debugCmd (s : State) (c : Core) : (s.setCore c).debugCmd = s.debugCmd := rfl
@[simp] theorem setCore_debugS (s : State) (c : Core) : (s.setCore c).debugS = s.debugS := rfl
@[simp] theorem setCore_counts (s : State) (c : Core) : (s.setCore c).counts = s.counts := rfl
@[simp] theorem setCore_latches (s : State) (c : Core) : (s.setCore c).latches = s.latches := rfl
@[simp] theorem setCore_lastLatch (s : State) (c : Core) : (s.setCore c).lastLatch = s.lastLatch := rfl
@[simp] theorem setCore_lastCompare (s : State) (c : Core) : (s.setCore c).lastCompare = s.lastCompare := rfl
@[simp] theorem setCore_msix (s : State) (c : Core) : (s.setCore c).msix = s.msix := rfl
@[simp] theorem setCore_turn (s : State) (c : Core) : (s.setCore c).turn = s.turn := rfl
@[simp] theorem setCore_mem (s : State) (c : Core) : (s.setCore c).mem = s.mem := rfl
@[simp] theorem setCore_poison (s : State) (c : Core) : (s.setCore c).poison = s.poison := rfl
@[simp] theorem setCore_agenda (s : State) (c : Core) : (s.setCore c).agenda = s.agenda := rfl
@[simp] theorem setCore_focus (s : State) (c : Core) : (s.setCore c).focus = s.focus := rfl
@[simp] theorem setCore_ports (s : State) (c : Core) : (s.setCore c).ports = s.ports := rfl
@[simp] theorem setCore_nonce (s : State) (c : Core) : (s.setCore c).nonce = s.nonce := rfl
@[simp] theorem setCore_nextId (s : State) (c : Core) : (s.setCore c).nextId = s.nextId := rfl
@[simp] theorem setTeam_gtick (s : State) (t : Team) : (s.setTeam t).gtick = s.gtick := rfl
@[simp] theorem setTeam_pkgstat (s : State) (t : Team) : (s.setTeam t).pkgstat = s.pkgstat := rfl
@[simp] theorem setTeam_images (s : State) (t : Team) : (s.setTeam t).images = s.images := rfl
@[simp] theorem setTeam_loaded (s : State) (t : Team) : (s.setTeam t).loaded = s.loaded := rfl
@[simp] theorem setTeam_pkgId (s : State) (t : Team) : (s.setTeam t).pkgId = s.pkgId := rfl
@[simp] theorem setTeam_defective (s : State) (t : Team) : (s.setTeam t).defective = s.defective := rfl
@[simp] theorem setTeam_pools (s : State) (t : Team) : (s.setTeam t).pools = s.pools := rfl
@[simp] theorem setTeam_poolChange (s : State) (t : Team) : (s.setTeam t).poolChange = s.poolChange := rfl
@[simp] theorem setTeam_budgets (s : State) (t : Team) : (s.setTeam t).budgets = s.budgets := rfl
@[simp] theorem setTeam_allowance (s : State) (t : Team) : (s.setTeam t).allowance = s.allowance := rfl
@[simp] theorem setTeam_temps (s : State) (t : Team) : (s.setTeam t).temps = s.temps := rfl
@[simp] theorem setTeam_warnMark (s : State) (t : Team) : (s.setTeam t).warnMark = s.warnMark := rfl
@[simp] theorem setTeam_critMark (s : State) (t : Team) : (s.setTeam t).critMark = s.critMark := rfl
@[simp] theorem setTeam_c3dies (s : State) (t : Team) : (s.setTeam t).c3dies = s.c3dies := rfl
@[simp] theorem setTeam_c3from (s : State) (t : Team) : (s.setTeam t).c3from = s.c3from := rfl
@[simp] theorem setTeam_coolSince (s : State) (t : Team) : (s.setTeam t).coolSince = s.coolSince := rfl
@[simp] theorem setTeam_critical (s : State) (t : Team) : (s.setTeam t).critical = s.critical := rfl
@[simp] theorem setTeam_corr (s : State) (t : Team) : (s.setTeam t).corr = s.corr := rfl
@[simp] theorem setTeam_peers (s : State) (t : Team) : (s.setTeam t).peers = s.peers := rfl
@[simp] theorem setTeam_links (s : State) (t : Team) : (s.setTeam t).links = s.links := rfl
@[simp] theorem setTeam_peerOps (s : State) (t : Team) : (s.setTeam t).peerOps = s.peerOps := rfl
@[simp] theorem setTeam_queues (s : State) (t : Team) : (s.setTeam t).queues = s.queues := rfl
@[simp] theorem setTeam_ctxtab (s : State) (t : Team) : (s.setTeam t).ctxtab = s.ctxtab := rfl
@[simp] theorem setTeam_contexts (s : State) (t : Team) : (s.setTeam t).contexts = s.contexts := rfl
@[simp] theorem setTeam_rfsched (s : State) (t : Team) : (s.setTeam t).rfsched = s.rfsched := rfl
@[simp] theorem setTeam_rfphase (s : State) (t : Team) : (s.setTeam t).rfphase = s.rfphase := rfl
@[simp] theorem setTeam_rfForce (s : State) (t : Team) : (s.setTeam t).rfForce = s.rfForce := rfl
@[simp] theorem setTeam_refresh (s : State) (t : Team) : (s.setTeam t).refresh = s.refresh := rfl
@[simp] theorem setTeam_tlb (s : State) (t : Team) : (s.setTeam t).tlb = s.tlb := rfl
@[simp] theorem setTeam_requests (s : State) (t : Team) : (s.setTeam t).requests = s.requests := rfl
@[simp] theorem setTeam_ecalls (s : State) (t : Team) : (s.setTeam t).ecalls = s.ecalls := rfl
@[simp] theorem setTeam_reports (s : State) (t : Team) : (s.setTeam t).reports = s.reports := rfl
@[simp] theorem setTeam_monitors (s : State) (t : Team) : (s.setTeam t).monitors = s.monitors := rfl
@[simp] theorem setTeam_objects (s : State) (t : Team) : (s.setTeam t).objects = s.objects := rfl
@[simp] theorem setTeam_refs (s : State) (t : Team) : (s.setTeam t).refs = s.refs := rfl
@[simp] theorem setTeam_loadEnd (s : State) (t : Team) : (s.setTeam t).loadEnd = s.loadEnd := rfl
@[simp] theorem setTeam_launches (s : State) (t : Team) : (s.setTeam t).launches = s.launches := rfl
@[simp] theorem setTeam_saved (s : State) (t : Team) : (s.setTeam t).saved = s.saved := rfl
@[simp] theorem setTeam_units (s : State) (t : Team) : (s.setTeam t).units = s.units := rfl
@[simp] theorem setTeam_cores (s : State) (t : Team) : (s.setTeam t).cores = s.cores := rfl
@[simp] theorem setTeam_log (s : State) (t : Team) : (s.setTeam t).log = s.log := rfl
@[simp] theorem setTeam_ringsLost (s : State) (t : Team) : (s.setTeam t).ringsLost = s.ringsLost := rfl
@[simp] theorem setTeam_debugCmd (s : State) (t : Team) : (s.setTeam t).debugCmd = s.debugCmd := rfl
@[simp] theorem setTeam_debugS (s : State) (t : Team) : (s.setTeam t).debugS = s.debugS := rfl
@[simp] theorem setTeam_counts (s : State) (t : Team) : (s.setTeam t).counts = s.counts := rfl
@[simp] theorem setTeam_latches (s : State) (t : Team) : (s.setTeam t).latches = s.latches := rfl
@[simp] theorem setTeam_lastLatch (s : State) (t : Team) : (s.setTeam t).lastLatch = s.lastLatch := rfl
@[simp] theorem setTeam_lastCompare (s : State) (t : Team) : (s.setTeam t).lastCompare = s.lastCompare := rfl
@[simp] theorem setTeam_msix (s : State) (t : Team) : (s.setTeam t).msix = s.msix := rfl
@[simp] theorem setTeam_turn (s : State) (t : Team) : (s.setTeam t).turn = s.turn := rfl
@[simp] theorem setTeam_mem (s : State) (t : Team) : (s.setTeam t).mem = s.mem := rfl
@[simp] theorem setTeam_poison (s : State) (t : Team) : (s.setTeam t).poison = s.poison := rfl
@[simp] theorem setTeam_agenda (s : State) (t : Team) : (s.setTeam t).agenda = s.agenda := rfl
@[simp] theorem setTeam_focus (s : State) (t : Team) : (s.setTeam t).focus = s.focus := rfl
@[simp] theorem setTeam_ports (s : State) (t : Team) : (s.setTeam t).ports = s.ports := rfl
@[simp] theorem setTeam_nonce (s : State) (t : Team) : (s.setTeam t).nonce = s.nonce := rfl
@[simp] theorem setTeam_nextId (s : State) (t : Team) : (s.setTeam t).nextId = s.nextId := rfl
@[simp] theorem setLaunch_gtick (s : State) (l : Launch) : (s.setLaunch l).gtick = s.gtick := rfl
@[simp] theorem setLaunch_pkgstat (s : State) (l : Launch) : (s.setLaunch l).pkgstat = s.pkgstat := rfl
@[simp] theorem setLaunch_images (s : State) (l : Launch) : (s.setLaunch l).images = s.images := rfl
@[simp] theorem setLaunch_loaded (s : State) (l : Launch) : (s.setLaunch l).loaded = s.loaded := rfl
@[simp] theorem setLaunch_pkgId (s : State) (l : Launch) : (s.setLaunch l).pkgId = s.pkgId := rfl
@[simp] theorem setLaunch_defective (s : State) (l : Launch) : (s.setLaunch l).defective = s.defective := rfl
@[simp] theorem setLaunch_pools (s : State) (l : Launch) : (s.setLaunch l).pools = s.pools := rfl
@[simp] theorem setLaunch_poolChange (s : State) (l : Launch) : (s.setLaunch l).poolChange = s.poolChange := rfl
@[simp] theorem setLaunch_budgets (s : State) (l : Launch) : (s.setLaunch l).budgets = s.budgets := rfl
@[simp] theorem setLaunch_allowance (s : State) (l : Launch) : (s.setLaunch l).allowance = s.allowance := rfl
@[simp] theorem setLaunch_temps (s : State) (l : Launch) : (s.setLaunch l).temps = s.temps := rfl
@[simp] theorem setLaunch_warnMark (s : State) (l : Launch) : (s.setLaunch l).warnMark = s.warnMark := rfl
@[simp] theorem setLaunch_critMark (s : State) (l : Launch) : (s.setLaunch l).critMark = s.critMark := rfl
@[simp] theorem setLaunch_c3dies (s : State) (l : Launch) : (s.setLaunch l).c3dies = s.c3dies := rfl
@[simp] theorem setLaunch_c3from (s : State) (l : Launch) : (s.setLaunch l).c3from = s.c3from := rfl
@[simp] theorem setLaunch_coolSince (s : State) (l : Launch) : (s.setLaunch l).coolSince = s.coolSince := rfl
@[simp] theorem setLaunch_critical (s : State) (l : Launch) : (s.setLaunch l).critical = s.critical := rfl
@[simp] theorem setLaunch_corr (s : State) (l : Launch) : (s.setLaunch l).corr = s.corr := rfl
@[simp] theorem setLaunch_peers (s : State) (l : Launch) : (s.setLaunch l).peers = s.peers := rfl
@[simp] theorem setLaunch_links (s : State) (l : Launch) : (s.setLaunch l).links = s.links := rfl
@[simp] theorem setLaunch_peerOps (s : State) (l : Launch) : (s.setLaunch l).peerOps = s.peerOps := rfl
@[simp] theorem setLaunch_queues (s : State) (l : Launch) : (s.setLaunch l).queues = s.queues := rfl
@[simp] theorem setLaunch_ctxtab (s : State) (l : Launch) : (s.setLaunch l).ctxtab = s.ctxtab := rfl
@[simp] theorem setLaunch_contexts (s : State) (l : Launch) : (s.setLaunch l).contexts = s.contexts := rfl
@[simp] theorem setLaunch_rfsched (s : State) (l : Launch) : (s.setLaunch l).rfsched = s.rfsched := rfl
@[simp] theorem setLaunch_rfphase (s : State) (l : Launch) : (s.setLaunch l).rfphase = s.rfphase := rfl
@[simp] theorem setLaunch_rfForce (s : State) (l : Launch) : (s.setLaunch l).rfForce = s.rfForce := rfl
@[simp] theorem setLaunch_refresh (s : State) (l : Launch) : (s.setLaunch l).refresh = s.refresh := rfl
@[simp] theorem setLaunch_tlb (s : State) (l : Launch) : (s.setLaunch l).tlb = s.tlb := rfl
@[simp] theorem setLaunch_requests (s : State) (l : Launch) : (s.setLaunch l).requests = s.requests := rfl
@[simp] theorem setLaunch_ecalls (s : State) (l : Launch) : (s.setLaunch l).ecalls = s.ecalls := rfl
@[simp] theorem setLaunch_reports (s : State) (l : Launch) : (s.setLaunch l).reports = s.reports := rfl
@[simp] theorem setLaunch_monitors (s : State) (l : Launch) : (s.setLaunch l).monitors = s.monitors := rfl
@[simp] theorem setLaunch_objects (s : State) (l : Launch) : (s.setLaunch l).objects = s.objects := rfl
@[simp] theorem setLaunch_refs (s : State) (l : Launch) : (s.setLaunch l).refs = s.refs := rfl
@[simp] theorem setLaunch_loadEnd (s : State) (l : Launch) : (s.setLaunch l).loadEnd = s.loadEnd := rfl
@[simp] theorem setLaunch_teams (s : State) (l : Launch) : (s.setLaunch l).teams = s.teams := rfl
@[simp] theorem setLaunch_saved (s : State) (l : Launch) : (s.setLaunch l).saved = s.saved := rfl
@[simp] theorem setLaunch_units (s : State) (l : Launch) : (s.setLaunch l).units = s.units := rfl
@[simp] theorem setLaunch_cores (s : State) (l : Launch) : (s.setLaunch l).cores = s.cores := rfl
@[simp] theorem setLaunch_log (s : State) (l : Launch) : (s.setLaunch l).log = s.log := rfl
@[simp] theorem setLaunch_ringsLost (s : State) (l : Launch) : (s.setLaunch l).ringsLost = s.ringsLost := rfl
@[simp] theorem setLaunch_debugCmd (s : State) (l : Launch) : (s.setLaunch l).debugCmd = s.debugCmd := rfl
@[simp] theorem setLaunch_debugS (s : State) (l : Launch) : (s.setLaunch l).debugS = s.debugS := rfl
@[simp] theorem setLaunch_counts (s : State) (l : Launch) : (s.setLaunch l).counts = s.counts := rfl
@[simp] theorem setLaunch_latches (s : State) (l : Launch) : (s.setLaunch l).latches = s.latches := rfl
@[simp] theorem setLaunch_lastLatch (s : State) (l : Launch) : (s.setLaunch l).lastLatch = s.lastLatch := rfl
@[simp] theorem setLaunch_lastCompare (s : State) (l : Launch) : (s.setLaunch l).lastCompare = s.lastCompare := rfl
@[simp] theorem setLaunch_msix (s : State) (l : Launch) : (s.setLaunch l).msix = s.msix := rfl
@[simp] theorem setLaunch_turn (s : State) (l : Launch) : (s.setLaunch l).turn = s.turn := rfl
@[simp] theorem setLaunch_mem (s : State) (l : Launch) : (s.setLaunch l).mem = s.mem := rfl
@[simp] theorem setLaunch_poison (s : State) (l : Launch) : (s.setLaunch l).poison = s.poison := rfl
@[simp] theorem setLaunch_agenda (s : State) (l : Launch) : (s.setLaunch l).agenda = s.agenda := rfl
@[simp] theorem setLaunch_focus (s : State) (l : Launch) : (s.setLaunch l).focus = s.focus := rfl
@[simp] theorem setLaunch_ports (s : State) (l : Launch) : (s.setLaunch l).ports = s.ports := rfl
@[simp] theorem setLaunch_nonce (s : State) (l : Launch) : (s.setLaunch l).nonce = s.nonce := rfl
@[simp] theorem setLaunch_nextId (s : State) (l : Launch) : (s.setLaunch l).nextId = s.nextId := rfl
@[simp] theorem setCtx_gtick (s : State) (n : Nat) (c : Context) : (s.setCtx n c).gtick = s.gtick := rfl
@[simp] theorem setCtx_pkgstat (s : State) (n : Nat) (c : Context) : (s.setCtx n c).pkgstat = s.pkgstat := rfl
@[simp] theorem setCtx_images (s : State) (n : Nat) (c : Context) : (s.setCtx n c).images = s.images := rfl
@[simp] theorem setCtx_loaded (s : State) (n : Nat) (c : Context) : (s.setCtx n c).loaded = s.loaded := rfl
@[simp] theorem setCtx_pkgId (s : State) (n : Nat) (c : Context) : (s.setCtx n c).pkgId = s.pkgId := rfl
@[simp] theorem setCtx_defective (s : State) (n : Nat) (c : Context) : (s.setCtx n c).defective = s.defective := rfl
@[simp] theorem setCtx_pools (s : State) (n : Nat) (c : Context) : (s.setCtx n c).pools = s.pools := rfl
@[simp] theorem setCtx_poolChange (s : State) (n : Nat) (c : Context) : (s.setCtx n c).poolChange = s.poolChange := rfl
@[simp] theorem setCtx_budgets (s : State) (n : Nat) (c : Context) : (s.setCtx n c).budgets = s.budgets := rfl
@[simp] theorem setCtx_allowance (s : State) (n : Nat) (c : Context) : (s.setCtx n c).allowance = s.allowance := rfl
@[simp] theorem setCtx_temps (s : State) (n : Nat) (c : Context) : (s.setCtx n c).temps = s.temps := rfl
@[simp] theorem setCtx_warnMark (s : State) (n : Nat) (c : Context) : (s.setCtx n c).warnMark = s.warnMark := rfl
@[simp] theorem setCtx_critMark (s : State) (n : Nat) (c : Context) : (s.setCtx n c).critMark = s.critMark := rfl
@[simp] theorem setCtx_c3dies (s : State) (n : Nat) (c : Context) : (s.setCtx n c).c3dies = s.c3dies := rfl
@[simp] theorem setCtx_c3from (s : State) (n : Nat) (c : Context) : (s.setCtx n c).c3from = s.c3from := rfl
@[simp] theorem setCtx_coolSince (s : State) (n : Nat) (c : Context) : (s.setCtx n c).coolSince = s.coolSince := rfl
@[simp] theorem setCtx_critical (s : State) (n : Nat) (c : Context) : (s.setCtx n c).critical = s.critical := rfl
@[simp] theorem setCtx_corr (s : State) (n : Nat) (c : Context) : (s.setCtx n c).corr = s.corr := rfl
@[simp] theorem setCtx_peers (s : State) (n : Nat) (c : Context) : (s.setCtx n c).peers = s.peers := rfl
@[simp] theorem setCtx_links (s : State) (n : Nat) (c : Context) : (s.setCtx n c).links = s.links := rfl
@[simp] theorem setCtx_peerOps (s : State) (n : Nat) (c : Context) : (s.setCtx n c).peerOps = s.peerOps := rfl
@[simp] theorem setCtx_queues (s : State) (n : Nat) (c : Context) : (s.setCtx n c).queues = s.queues := rfl
@[simp] theorem setCtx_ctxtab (s : State) (n : Nat) (c : Context) : (s.setCtx n c).ctxtab = s.ctxtab := rfl
@[simp] theorem setCtx_rfsched (s : State) (n : Nat) (c : Context) : (s.setCtx n c).rfsched = s.rfsched := rfl
@[simp] theorem setCtx_rfphase (s : State) (n : Nat) (c : Context) : (s.setCtx n c).rfphase = s.rfphase := rfl
@[simp] theorem setCtx_rfForce (s : State) (n : Nat) (c : Context) : (s.setCtx n c).rfForce = s.rfForce := rfl
@[simp] theorem setCtx_refresh (s : State) (n : Nat) (c : Context) : (s.setCtx n c).refresh = s.refresh := rfl
@[simp] theorem setCtx_tlb (s : State) (n : Nat) (c : Context) : (s.setCtx n c).tlb = s.tlb := rfl
@[simp] theorem setCtx_requests (s : State) (n : Nat) (c : Context) : (s.setCtx n c).requests = s.requests := rfl
@[simp] theorem setCtx_ecalls (s : State) (n : Nat) (c : Context) : (s.setCtx n c).ecalls = s.ecalls := rfl
@[simp] theorem setCtx_reports (s : State) (n : Nat) (c : Context) : (s.setCtx n c).reports = s.reports := rfl
@[simp] theorem setCtx_monitors (s : State) (n : Nat) (c : Context) : (s.setCtx n c).monitors = s.monitors := rfl
@[simp] theorem setCtx_objects (s : State) (n : Nat) (c : Context) : (s.setCtx n c).objects = s.objects := rfl
@[simp] theorem setCtx_refs (s : State) (n : Nat) (c : Context) : (s.setCtx n c).refs = s.refs := rfl
@[simp] theorem setCtx_loadEnd (s : State) (n : Nat) (c : Context) : (s.setCtx n c).loadEnd = s.loadEnd := rfl
@[simp] theorem setCtx_launches (s : State) (n : Nat) (c : Context) : (s.setCtx n c).launches = s.launches := rfl
@[simp] theorem setCtx_teams (s : State) (n : Nat) (c : Context) : (s.setCtx n c).teams = s.teams := rfl
@[simp] theorem setCtx_saved (s : State) (n : Nat) (c : Context) : (s.setCtx n c).saved = s.saved := rfl
@[simp] theorem setCtx_units (s : State) (n : Nat) (c : Context) : (s.setCtx n c).units = s.units := rfl
@[simp] theorem setCtx_cores (s : State) (n : Nat) (c : Context) : (s.setCtx n c).cores = s.cores := rfl
@[simp] theorem setCtx_log (s : State) (n : Nat) (c : Context) : (s.setCtx n c).log = s.log := rfl
@[simp] theorem setCtx_ringsLost (s : State) (n : Nat) (c : Context) : (s.setCtx n c).ringsLost = s.ringsLost := rfl
@[simp] theorem setCtx_debugCmd (s : State) (n : Nat) (c : Context) : (s.setCtx n c).debugCmd = s.debugCmd := rfl
@[simp] theorem setCtx_debugS (s : State) (n : Nat) (c : Context) : (s.setCtx n c).debugS = s.debugS := rfl
@[simp] theorem setCtx_counts (s : State) (n : Nat) (c : Context) : (s.setCtx n c).counts = s.counts := rfl
@[simp] theorem setCtx_latches (s : State) (n : Nat) (c : Context) : (s.setCtx n c).latches = s.latches := rfl
@[simp] theorem setCtx_lastLatch (s : State) (n : Nat) (c : Context) : (s.setCtx n c).lastLatch = s.lastLatch := rfl
@[simp] theorem setCtx_lastCompare (s : State) (n : Nat) (c : Context) : (s.setCtx n c).lastCompare = s.lastCompare := rfl
@[simp] theorem setCtx_msix (s : State) (n : Nat) (c : Context) : (s.setCtx n c).msix = s.msix := rfl
@[simp] theorem setCtx_turn (s : State) (n : Nat) (c : Context) : (s.setCtx n c).turn = s.turn := rfl
@[simp] theorem setCtx_mem (s : State) (n : Nat) (c : Context) : (s.setCtx n c).mem = s.mem := rfl
@[simp] theorem setCtx_poison (s : State) (n : Nat) (c : Context) : (s.setCtx n c).poison = s.poison := rfl
@[simp] theorem setCtx_agenda (s : State) (n : Nat) (c : Context) : (s.setCtx n c).agenda = s.agenda := rfl
@[simp] theorem setCtx_focus (s : State) (n : Nat) (c : Context) : (s.setCtx n c).focus = s.focus := rfl
@[simp] theorem setCtx_ports (s : State) (n : Nat) (c : Context) : (s.setCtx n c).ports = s.ports := rfl
@[simp] theorem setCtx_nonce (s : State) (n : Nat) (c : Context) : (s.setCtx n c).nonce = s.nonce := rfl
@[simp] theorem setCtx_nextId (s : State) (n : Nat) (c : Context) : (s.setCtx n c).nextId = s.nextId := rfl
@[simp] theorem setQueue_gtick (s : State) (n : Nat) (q : Queue) : (s.setQueue n q).gtick = s.gtick := rfl
@[simp] theorem setQueue_pkgstat (s : State) (n : Nat) (q : Queue) : (s.setQueue n q).pkgstat = s.pkgstat := rfl
@[simp] theorem setQueue_images (s : State) (n : Nat) (q : Queue) : (s.setQueue n q).images = s.images := rfl
@[simp] theorem setQueue_loaded (s : State) (n : Nat) (q : Queue) : (s.setQueue n q).loaded = s.loaded := rfl
@[simp] theorem setQueue_pkgId (s : State) (n : Nat) (q : Queue) : (s.setQueue n q).pkgId = s.pkgId := rfl
@[simp] theorem setQueue_defective (s : State) (n : Nat) (q : Queue) : (s.setQueue n q).defective = s.defective := rfl
@[simp] theorem setQueue_pools (s : State) (n : Nat) (q : Queue) : (s.setQueue n q).pools = s.pools := rfl
@[simp] theorem setQueue_poolChange (s : State) (n : Nat) (q : Queue) : (s.setQueue n q).poolChange = s.poolChange := rfl
@[simp] theorem setQueue_budgets (s : State) (n : Nat) (q : Queue) : (s.setQueue n q).budgets = s.budgets := rfl
@[simp] theorem setQueue_allowance (s : State) (n : Nat) (q : Queue) : (s.setQueue n q).allowance = s.allowance := rfl
@[simp] theorem setQueue_temps (s : State) (n : Nat) (q : Queue) : (s.setQueue n q).temps = s.temps := rfl
@[simp] theorem setQueue_warnMark (s : State) (n : Nat) (q : Queue) : (s.setQueue n q).warnMark = s.warnMark := rfl
@[simp] theorem setQueue_critMark (s : State) (n : Nat) (q : Queue) : (s.setQueue n q).critMark = s.critMark := rfl
@[simp] theorem setQueue_c3dies (s : State) (n : Nat) (q : Queue) : (s.setQueue n q).c3dies = s.c3dies := rfl
@[simp] theorem setQueue_c3from (s : State) (n : Nat) (q : Queue) : (s.setQueue n q).c3from = s.c3from := rfl
@[simp] theorem setQueue_coolSince (s : State) (n : Nat) (q : Queue) : (s.setQueue n q).coolSince = s.coolSince := rfl
@[simp] theorem setQueue_critical (s : State) (n : Nat) (q : Queue) : (s.setQueue n q).critical = s.critical := rfl
@[simp] theorem setQueue_corr (s : State) (n : Nat) (q : Queue) : (s.setQueue n q).corr = s.corr := rfl
@[simp] theorem setQueue_peers (s : State) (n : Nat) (q : Queue) : (s.setQueue n q).peers = s.peers := rfl
@[simp] theorem setQueue_links (s : State) (n : Nat) (q : Queue) : (s.setQueue n q).links = s.links := rfl
@[simp] theorem setQueue_peerOps (s : State) (n : Nat) (q : Queue) : (s.setQueue n q).peerOps = s.peerOps := rfl
@[simp] theorem setQueue_ctxtab (s : State) (n : Nat) (q : Queue) : (s.setQueue n q).ctxtab = s.ctxtab := rfl
@[simp] theorem setQueue_contexts (s : State) (n : Nat) (q : Queue) : (s.setQueue n q).contexts = s.contexts := rfl
@[simp] theorem setQueue_rfsched (s : State) (n : Nat) (q : Queue) : (s.setQueue n q).rfsched = s.rfsched := rfl
@[simp] theorem setQueue_rfphase (s : State) (n : Nat) (q : Queue) : (s.setQueue n q).rfphase = s.rfphase := rfl
@[simp] theorem setQueue_rfForce (s : State) (n : Nat) (q : Queue) : (s.setQueue n q).rfForce = s.rfForce := rfl
@[simp] theorem setQueue_refresh (s : State) (n : Nat) (q : Queue) : (s.setQueue n q).refresh = s.refresh := rfl
@[simp] theorem setQueue_tlb (s : State) (n : Nat) (q : Queue) : (s.setQueue n q).tlb = s.tlb := rfl
@[simp] theorem setQueue_requests (s : State) (n : Nat) (q : Queue) : (s.setQueue n q).requests = s.requests := rfl
@[simp] theorem setQueue_ecalls (s : State) (n : Nat) (q : Queue) : (s.setQueue n q).ecalls = s.ecalls := rfl
@[simp] theorem setQueue_reports (s : State) (n : Nat) (q : Queue) : (s.setQueue n q).reports = s.reports := rfl
@[simp] theorem setQueue_monitors (s : State) (n : Nat) (q : Queue) : (s.setQueue n q).monitors = s.monitors := rfl
@[simp] theorem setQueue_objects (s : State) (n : Nat) (q : Queue) : (s.setQueue n q).objects = s.objects := rfl
@[simp] theorem setQueue_refs (s : State) (n : Nat) (q : Queue) : (s.setQueue n q).refs = s.refs := rfl
@[simp] theorem setQueue_loadEnd (s : State) (n : Nat) (q : Queue) : (s.setQueue n q).loadEnd = s.loadEnd := rfl
@[simp] theorem setQueue_launches (s : State) (n : Nat) (q : Queue) : (s.setQueue n q).launches = s.launches := rfl
@[simp] theorem setQueue_teams (s : State) (n : Nat) (q : Queue) : (s.setQueue n q).teams = s.teams := rfl
@[simp] theorem setQueue_saved (s : State) (n : Nat) (q : Queue) : (s.setQueue n q).saved = s.saved := rfl
@[simp] theorem setQueue_units (s : State) (n : Nat) (q : Queue) : (s.setQueue n q).units = s.units := rfl
@[simp] theorem setQueue_cores (s : State) (n : Nat) (q : Queue) : (s.setQueue n q).cores = s.cores := rfl
@[simp] theorem setQueue_log (s : State) (n : Nat) (q : Queue) : (s.setQueue n q).log = s.log := rfl
@[simp] theorem setQueue_ringsLost (s : State) (n : Nat) (q : Queue) : (s.setQueue n q).ringsLost = s.ringsLost := rfl
@[simp] theorem setQueue_debugCmd (s : State) (n : Nat) (q : Queue) : (s.setQueue n q).debugCmd = s.debugCmd := rfl
@[simp] theorem setQueue_debugS (s : State) (n : Nat) (q : Queue) : (s.setQueue n q).debugS = s.debugS := rfl
@[simp] theorem setQueue_counts (s : State) (n : Nat) (q : Queue) : (s.setQueue n q).counts = s.counts := rfl
@[simp] theorem setQueue_latches (s : State) (n : Nat) (q : Queue) : (s.setQueue n q).latches = s.latches := rfl
@[simp] theorem setQueue_lastLatch (s : State) (n : Nat) (q : Queue) : (s.setQueue n q).lastLatch = s.lastLatch := rfl
@[simp] theorem setQueue_lastCompare (s : State) (n : Nat) (q : Queue) : (s.setQueue n q).lastCompare = s.lastCompare := rfl
@[simp] theorem setQueue_msix (s : State) (n : Nat) (q : Queue) : (s.setQueue n q).msix = s.msix := rfl
@[simp] theorem setQueue_turn (s : State) (n : Nat) (q : Queue) : (s.setQueue n q).turn = s.turn := rfl
@[simp] theorem setQueue_mem (s : State) (n : Nat) (q : Queue) : (s.setQueue n q).mem = s.mem := rfl
@[simp] theorem setQueue_poison (s : State) (n : Nat) (q : Queue) : (s.setQueue n q).poison = s.poison := rfl
@[simp] theorem setQueue_agenda (s : State) (n : Nat) (q : Queue) : (s.setQueue n q).agenda = s.agenda := rfl
@[simp] theorem setQueue_focus (s : State) (n : Nat) (q : Queue) : (s.setQueue n q).focus = s.focus := rfl
@[simp] theorem setQueue_ports (s : State) (n : Nat) (q : Queue) : (s.setQueue n q).ports = s.ports := rfl
@[simp] theorem setQueue_nonce (s : State) (n : Nat) (q : Queue) : (s.setQueue n q).nonce = s.nonce := rfl
@[simp] theorem setQueue_nextId (s : State) (n : Nat) (q : Queue) : (s.setQueue n q).nextId = s.nextId := rfl
@[simp] theorem setPeer_gtick (s : State) (n : Nat) (p : Peer) : (s.setPeer n p).gtick = s.gtick := rfl
@[simp] theorem setPeer_pkgstat (s : State) (n : Nat) (p : Peer) : (s.setPeer n p).pkgstat = s.pkgstat := rfl
@[simp] theorem setPeer_images (s : State) (n : Nat) (p : Peer) : (s.setPeer n p).images = s.images := rfl
@[simp] theorem setPeer_loaded (s : State) (n : Nat) (p : Peer) : (s.setPeer n p).loaded = s.loaded := rfl
@[simp] theorem setPeer_pkgId (s : State) (n : Nat) (p : Peer) : (s.setPeer n p).pkgId = s.pkgId := rfl
@[simp] theorem setPeer_defective (s : State) (n : Nat) (p : Peer) : (s.setPeer n p).defective = s.defective := rfl
@[simp] theorem setPeer_pools (s : State) (n : Nat) (p : Peer) : (s.setPeer n p).pools = s.pools := rfl
@[simp] theorem setPeer_poolChange (s : State) (n : Nat) (p : Peer) : (s.setPeer n p).poolChange = s.poolChange := rfl
@[simp] theorem setPeer_budgets (s : State) (n : Nat) (p : Peer) : (s.setPeer n p).budgets = s.budgets := rfl
@[simp] theorem setPeer_allowance (s : State) (n : Nat) (p : Peer) : (s.setPeer n p).allowance = s.allowance := rfl
@[simp] theorem setPeer_temps (s : State) (n : Nat) (p : Peer) : (s.setPeer n p).temps = s.temps := rfl
@[simp] theorem setPeer_warnMark (s : State) (n : Nat) (p : Peer) : (s.setPeer n p).warnMark = s.warnMark := rfl
@[simp] theorem setPeer_critMark (s : State) (n : Nat) (p : Peer) : (s.setPeer n p).critMark = s.critMark := rfl
@[simp] theorem setPeer_c3dies (s : State) (n : Nat) (p : Peer) : (s.setPeer n p).c3dies = s.c3dies := rfl
@[simp] theorem setPeer_c3from (s : State) (n : Nat) (p : Peer) : (s.setPeer n p).c3from = s.c3from := rfl
@[simp] theorem setPeer_coolSince (s : State) (n : Nat) (p : Peer) : (s.setPeer n p).coolSince = s.coolSince := rfl
@[simp] theorem setPeer_critical (s : State) (n : Nat) (p : Peer) : (s.setPeer n p).critical = s.critical := rfl
@[simp] theorem setPeer_corr (s : State) (n : Nat) (p : Peer) : (s.setPeer n p).corr = s.corr := rfl
@[simp] theorem setPeer_links (s : State) (n : Nat) (p : Peer) : (s.setPeer n p).links = s.links := rfl
@[simp] theorem setPeer_peerOps (s : State) (n : Nat) (p : Peer) : (s.setPeer n p).peerOps = s.peerOps := rfl
@[simp] theorem setPeer_queues (s : State) (n : Nat) (p : Peer) : (s.setPeer n p).queues = s.queues := rfl
@[simp] theorem setPeer_ctxtab (s : State) (n : Nat) (p : Peer) : (s.setPeer n p).ctxtab = s.ctxtab := rfl
@[simp] theorem setPeer_contexts (s : State) (n : Nat) (p : Peer) : (s.setPeer n p).contexts = s.contexts := rfl
@[simp] theorem setPeer_rfsched (s : State) (n : Nat) (p : Peer) : (s.setPeer n p).rfsched = s.rfsched := rfl
@[simp] theorem setPeer_rfphase (s : State) (n : Nat) (p : Peer) : (s.setPeer n p).rfphase = s.rfphase := rfl
@[simp] theorem setPeer_rfForce (s : State) (n : Nat) (p : Peer) : (s.setPeer n p).rfForce = s.rfForce := rfl
@[simp] theorem setPeer_refresh (s : State) (n : Nat) (p : Peer) : (s.setPeer n p).refresh = s.refresh := rfl
@[simp] theorem setPeer_tlb (s : State) (n : Nat) (p : Peer) : (s.setPeer n p).tlb = s.tlb := rfl
@[simp] theorem setPeer_requests (s : State) (n : Nat) (p : Peer) : (s.setPeer n p).requests = s.requests := rfl
@[simp] theorem setPeer_ecalls (s : State) (n : Nat) (p : Peer) : (s.setPeer n p).ecalls = s.ecalls := rfl
@[simp] theorem setPeer_reports (s : State) (n : Nat) (p : Peer) : (s.setPeer n p).reports = s.reports := rfl
@[simp] theorem setPeer_monitors (s : State) (n : Nat) (p : Peer) : (s.setPeer n p).monitors = s.monitors := rfl
@[simp] theorem setPeer_objects (s : State) (n : Nat) (p : Peer) : (s.setPeer n p).objects = s.objects := rfl
@[simp] theorem setPeer_refs (s : State) (n : Nat) (p : Peer) : (s.setPeer n p).refs = s.refs := rfl
@[simp] theorem setPeer_loadEnd (s : State) (n : Nat) (p : Peer) : (s.setPeer n p).loadEnd = s.loadEnd := rfl
@[simp] theorem setPeer_launches (s : State) (n : Nat) (p : Peer) : (s.setPeer n p).launches = s.launches := rfl
@[simp] theorem setPeer_teams (s : State) (n : Nat) (p : Peer) : (s.setPeer n p).teams = s.teams := rfl
@[simp] theorem setPeer_saved (s : State) (n : Nat) (p : Peer) : (s.setPeer n p).saved = s.saved := rfl
@[simp] theorem setPeer_units (s : State) (n : Nat) (p : Peer) : (s.setPeer n p).units = s.units := rfl
@[simp] theorem setPeer_cores (s : State) (n : Nat) (p : Peer) : (s.setPeer n p).cores = s.cores := rfl
@[simp] theorem setPeer_log (s : State) (n : Nat) (p : Peer) : (s.setPeer n p).log = s.log := rfl
@[simp] theorem setPeer_ringsLost (s : State) (n : Nat) (p : Peer) : (s.setPeer n p).ringsLost = s.ringsLost := rfl
@[simp] theorem setPeer_debugCmd (s : State) (n : Nat) (p : Peer) : (s.setPeer n p).debugCmd = s.debugCmd := rfl
@[simp] theorem setPeer_debugS (s : State) (n : Nat) (p : Peer) : (s.setPeer n p).debugS = s.debugS := rfl
@[simp] theorem setPeer_counts (s : State) (n : Nat) (p : Peer) : (s.setPeer n p).counts = s.counts := rfl
@[simp] theorem setPeer_latches (s : State) (n : Nat) (p : Peer) : (s.setPeer n p).latches = s.latches := rfl
@[simp] theorem setPeer_lastLatch (s : State) (n : Nat) (p : Peer) : (s.setPeer n p).lastLatch = s.lastLatch := rfl
@[simp] theorem setPeer_lastCompare (s : State) (n : Nat) (p : Peer) : (s.setPeer n p).lastCompare = s.lastCompare := rfl
@[simp] theorem setPeer_msix (s : State) (n : Nat) (p : Peer) : (s.setPeer n p).msix = s.msix := rfl
@[simp] theorem setPeer_turn (s : State) (n : Nat) (p : Peer) : (s.setPeer n p).turn = s.turn := rfl
@[simp] theorem setPeer_mem (s : State) (n : Nat) (p : Peer) : (s.setPeer n p).mem = s.mem := rfl
@[simp] theorem setPeer_poison (s : State) (n : Nat) (p : Peer) : (s.setPeer n p).poison = s.poison := rfl
@[simp] theorem setPeer_agenda (s : State) (n : Nat) (p : Peer) : (s.setPeer n p).agenda = s.agenda := rfl
@[simp] theorem setPeer_focus (s : State) (n : Nat) (p : Peer) : (s.setPeer n p).focus = s.focus := rfl
@[simp] theorem setPeer_ports (s : State) (n : Nat) (p : Peer) : (s.setPeer n p).ports = s.ports := rfl
@[simp] theorem setPeer_nonce (s : State) (n : Nat) (p : Peer) : (s.setPeer n p).nonce = s.nonce := rfl
@[simp] theorem setPeer_nextId (s : State) (n : Nat) (p : Peer) : (s.setPeer n p).nextId = s.nextId := rfl
@[simp] theorem free_gtick (s : State) : s.free.2.gtick = s.gtick := rfl
@[simp] theorem free_pkgstat (s : State) : s.free.2.pkgstat = s.pkgstat := rfl
@[simp] theorem free_images (s : State) : s.free.2.images = s.images := rfl
@[simp] theorem free_loaded (s : State) : s.free.2.loaded = s.loaded := rfl
@[simp] theorem free_pkgId (s : State) : s.free.2.pkgId = s.pkgId := rfl
@[simp] theorem free_defective (s : State) : s.free.2.defective = s.defective := rfl
@[simp] theorem free_pools (s : State) : s.free.2.pools = s.pools := rfl
@[simp] theorem free_poolChange (s : State) : s.free.2.poolChange = s.poolChange := rfl
@[simp] theorem free_budgets (s : State) : s.free.2.budgets = s.budgets := rfl
@[simp] theorem free_allowance (s : State) : s.free.2.allowance = s.allowance := rfl
@[simp] theorem free_temps (s : State) : s.free.2.temps = s.temps := rfl
@[simp] theorem free_warnMark (s : State) : s.free.2.warnMark = s.warnMark := rfl
@[simp] theorem free_critMark (s : State) : s.free.2.critMark = s.critMark := rfl
@[simp] theorem free_c3dies (s : State) : s.free.2.c3dies = s.c3dies := rfl
@[simp] theorem free_c3from (s : State) : s.free.2.c3from = s.c3from := rfl
@[simp] theorem free_coolSince (s : State) : s.free.2.coolSince = s.coolSince := rfl
@[simp] theorem free_critical (s : State) : s.free.2.critical = s.critical := rfl
@[simp] theorem free_corr (s : State) : s.free.2.corr = s.corr := rfl
@[simp] theorem free_peers (s : State) : s.free.2.peers = s.peers := rfl
@[simp] theorem free_links (s : State) : s.free.2.links = s.links := rfl
@[simp] theorem free_peerOps (s : State) : s.free.2.peerOps = s.peerOps := rfl
@[simp] theorem free_queues (s : State) : s.free.2.queues = s.queues := rfl
@[simp] theorem free_ctxtab (s : State) : s.free.2.ctxtab = s.ctxtab := rfl
@[simp] theorem free_contexts (s : State) : s.free.2.contexts = s.contexts := rfl
@[simp] theorem free_rfsched (s : State) : s.free.2.rfsched = s.rfsched := rfl
@[simp] theorem free_rfphase (s : State) : s.free.2.rfphase = s.rfphase := rfl
@[simp] theorem free_rfForce (s : State) : s.free.2.rfForce = s.rfForce := rfl
@[simp] theorem free_refresh (s : State) : s.free.2.refresh = s.refresh := rfl
@[simp] theorem free_tlb (s : State) : s.free.2.tlb = s.tlb := rfl
@[simp] theorem free_requests (s : State) : s.free.2.requests = s.requests := rfl
@[simp] theorem free_ecalls (s : State) : s.free.2.ecalls = s.ecalls := rfl
@[simp] theorem free_reports (s : State) : s.free.2.reports = s.reports := rfl
@[simp] theorem free_monitors (s : State) : s.free.2.monitors = s.monitors := rfl
@[simp] theorem free_objects (s : State) : s.free.2.objects = s.objects := rfl
@[simp] theorem free_refs (s : State) : s.free.2.refs = s.refs := rfl
@[simp] theorem free_loadEnd (s : State) : s.free.2.loadEnd = s.loadEnd := rfl
@[simp] theorem free_launches (s : State) : s.free.2.launches = s.launches := rfl
@[simp] theorem free_teams (s : State) : s.free.2.teams = s.teams := rfl
@[simp] theorem free_saved (s : State) : s.free.2.saved = s.saved := rfl
@[simp] theorem free_units (s : State) : s.free.2.units = s.units := rfl
@[simp] theorem free_cores (s : State) : s.free.2.cores = s.cores := rfl
@[simp] theorem free_log (s : State) : s.free.2.log = s.log := rfl
@[simp] theorem free_ringsLost (s : State) : s.free.2.ringsLost = s.ringsLost := rfl
@[simp] theorem free_debugCmd (s : State) : s.free.2.debugCmd = s.debugCmd := rfl
@[simp] theorem free_debugS (s : State) : s.free.2.debugS = s.debugS := rfl
@[simp] theorem free_counts (s : State) : s.free.2.counts = s.counts := rfl
@[simp] theorem free_latches (s : State) : s.free.2.latches = s.latches := rfl
@[simp] theorem free_lastLatch (s : State) : s.free.2.lastLatch = s.lastLatch := rfl
@[simp] theorem free_lastCompare (s : State) : s.free.2.lastCompare = s.lastCompare := rfl
@[simp] theorem free_msix (s : State) : s.free.2.msix = s.msix := rfl
@[simp] theorem free_turn (s : State) : s.free.2.turn = s.turn := rfl
@[simp] theorem free_mem (s : State) : s.free.2.mem = s.mem := rfl
@[simp] theorem free_poison (s : State) : s.free.2.poison = s.poison := rfl
@[simp] theorem free_agenda (s : State) : s.free.2.agenda = s.agenda := rfl
@[simp] theorem free_focus (s : State) : s.free.2.focus = s.focus := rfl
@[simp] theorem free_ports (s : State) : s.free.2.ports = s.ports := rfl
@[simp] theorem free_nonce (s : State) : s.free.2.nonce = s.nonce + 1 := rfl
@[simp] theorem free_nextId (s : State) : s.free.2.nextId = s.nextId := rfl
@[simp] theorem fresh_gtick (s : State) : s.fresh.2.gtick = s.gtick := rfl
@[simp] theorem fresh_pkgstat (s : State) : s.fresh.2.pkgstat = s.pkgstat := rfl
@[simp] theorem fresh_images (s : State) : s.fresh.2.images = s.images := rfl
@[simp] theorem fresh_loaded (s : State) : s.fresh.2.loaded = s.loaded := rfl
@[simp] theorem fresh_pkgId (s : State) : s.fresh.2.pkgId = s.pkgId := rfl
@[simp] theorem fresh_defective (s : State) : s.fresh.2.defective = s.defective := rfl
@[simp] theorem fresh_pools (s : State) : s.fresh.2.pools = s.pools := rfl
@[simp] theorem fresh_poolChange (s : State) : s.fresh.2.poolChange = s.poolChange := rfl
@[simp] theorem fresh_budgets (s : State) : s.fresh.2.budgets = s.budgets := rfl
@[simp] theorem fresh_allowance (s : State) : s.fresh.2.allowance = s.allowance := rfl
@[simp] theorem fresh_temps (s : State) : s.fresh.2.temps = s.temps := rfl
@[simp] theorem fresh_warnMark (s : State) : s.fresh.2.warnMark = s.warnMark := rfl
@[simp] theorem fresh_critMark (s : State) : s.fresh.2.critMark = s.critMark := rfl
@[simp] theorem fresh_c3dies (s : State) : s.fresh.2.c3dies = s.c3dies := rfl
@[simp] theorem fresh_c3from (s : State) : s.fresh.2.c3from = s.c3from := rfl
@[simp] theorem fresh_coolSince (s : State) : s.fresh.2.coolSince = s.coolSince := rfl
@[simp] theorem fresh_critical (s : State) : s.fresh.2.critical = s.critical := rfl
@[simp] theorem fresh_corr (s : State) : s.fresh.2.corr = s.corr := rfl
@[simp] theorem fresh_peers (s : State) : s.fresh.2.peers = s.peers := rfl
@[simp] theorem fresh_links (s : State) : s.fresh.2.links = s.links := rfl
@[simp] theorem fresh_peerOps (s : State) : s.fresh.2.peerOps = s.peerOps := rfl
@[simp] theorem fresh_queues (s : State) : s.fresh.2.queues = s.queues := rfl
@[simp] theorem fresh_ctxtab (s : State) : s.fresh.2.ctxtab = s.ctxtab := rfl
@[simp] theorem fresh_contexts (s : State) : s.fresh.2.contexts = s.contexts := rfl
@[simp] theorem fresh_rfsched (s : State) : s.fresh.2.rfsched = s.rfsched := rfl
@[simp] theorem fresh_rfphase (s : State) : s.fresh.2.rfphase = s.rfphase := rfl
@[simp] theorem fresh_rfForce (s : State) : s.fresh.2.rfForce = s.rfForce := rfl
@[simp] theorem fresh_refresh (s : State) : s.fresh.2.refresh = s.refresh := rfl
@[simp] theorem fresh_tlb (s : State) : s.fresh.2.tlb = s.tlb := rfl
@[simp] theorem fresh_requests (s : State) : s.fresh.2.requests = s.requests := rfl
@[simp] theorem fresh_ecalls (s : State) : s.fresh.2.ecalls = s.ecalls := rfl
@[simp] theorem fresh_reports (s : State) : s.fresh.2.reports = s.reports := rfl
@[simp] theorem fresh_monitors (s : State) : s.fresh.2.monitors = s.monitors := rfl
@[simp] theorem fresh_objects (s : State) : s.fresh.2.objects = s.objects := rfl
@[simp] theorem fresh_refs (s : State) : s.fresh.2.refs = s.refs := rfl
@[simp] theorem fresh_loadEnd (s : State) : s.fresh.2.loadEnd = s.loadEnd := rfl
@[simp] theorem fresh_launches (s : State) : s.fresh.2.launches = s.launches := rfl
@[simp] theorem fresh_teams (s : State) : s.fresh.2.teams = s.teams := rfl
@[simp] theorem fresh_saved (s : State) : s.fresh.2.saved = s.saved := rfl
@[simp] theorem fresh_units (s : State) : s.fresh.2.units = s.units := rfl
@[simp] theorem fresh_cores (s : State) : s.fresh.2.cores = s.cores := rfl
@[simp] theorem fresh_log (s : State) : s.fresh.2.log = s.log := rfl
@[simp] theorem fresh_ringsLost (s : State) : s.fresh.2.ringsLost = s.ringsLost := rfl
@[simp] theorem fresh_debugCmd (s : State) : s.fresh.2.debugCmd = s.debugCmd := rfl
@[simp] theorem fresh_debugS (s : State) : s.fresh.2.debugS = s.debugS := rfl
@[simp] theorem fresh_counts (s : State) : s.fresh.2.counts = s.counts := rfl
@[simp] theorem fresh_latches (s : State) : s.fresh.2.latches = s.latches := rfl
@[simp] theorem fresh_lastLatch (s : State) : s.fresh.2.lastLatch = s.lastLatch := rfl
@[simp] theorem fresh_lastCompare (s : State) : s.fresh.2.lastCompare = s.lastCompare := rfl
@[simp] theorem fresh_msix (s : State) : s.fresh.2.msix = s.msix := rfl
@[simp] theorem fresh_turn (s : State) : s.fresh.2.turn = s.turn := rfl
@[simp] theorem fresh_mem (s : State) : s.fresh.2.mem = s.mem := rfl
@[simp] theorem fresh_poison (s : State) : s.fresh.2.poison = s.poison := rfl
@[simp] theorem fresh_agenda (s : State) : s.fresh.2.agenda = s.agenda := rfl
@[simp] theorem fresh_focus (s : State) : s.fresh.2.focus = s.focus := rfl
@[simp] theorem fresh_ports (s : State) : s.fresh.2.ports = s.ports := rfl
@[simp] theorem fresh_nonce (s : State) : s.fresh.2.nonce = s.nonce := rfl
@[simp] theorem fresh_nextId (s : State) : s.fresh.2.nextId = s.nextId + 1 := rfl

end State

namespace Slice

@[simp] theorem putS_idx (t : Slice) (r : Reg) (x : W64) : (t.putS r x).idx = t.idx := by unfold Slice.putS; split <;> rfl
@[simp] theorem putS_pc (t : Slice) (r : Reg) (x : W64) : (t.putS r x).pc = t.pc := by unfold Slice.putS; split <;> rfl
@[simp] theorem putS_mask (t : Slice) (r : Reg) (x : W64) : (t.putS r x).mask = t.mask := by unfold Slice.putS; split <;> rfl
@[simp] theorem putS_sFull (t : Slice) (r : Reg) (x : W64) : (t.putS r x).sFull = t.sFull := by unfold Slice.putS; split <;> rfl
@[simp] theorem putS_v (t : Slice) (r : Reg) (x : W64) : (t.putS r x).v = t.v := by unfold Slice.putS; split <;> rfl
@[simp] theorem putS_vFull (t : Slice) (r : Reg) (x : W64) : (t.putS r x).vFull = t.vFull := by unfold Slice.putS; split <;> rfl
@[simp] theorem putS_k (t : Slice) (r : Reg) (x : W64) : (t.putS r x).k = t.k := by unfold Slice.putS; split <;> rfl
@[simp] theorem putS_w (t : Slice) (r : Reg) (x : W64) : (t.putS r x).w = t.w := by unfold Slice.putS; split <;> rfl
@[simp] theorem putS_tokens (t : Slice) (r : Reg) (x : W64) : (t.putS r x).tokens = t.tokens := by unfold Slice.putS; split <;> rfl
@[simp] theorem putS_regions (t : Slice) (r : Reg) (x : W64) : (t.putS r x).regions = t.regions := by unfold Slice.putS; split <;> rfl
@[simp] theorem putS_opStacks (t : Slice) (r : Reg) (x : W64) : (t.putS r x).opStacks = t.opStacks := by unfold Slice.putS; split <;> rfl
@[simp] theorem putS_fpctl (t : Slice) (r : Reg) (x : W64) : (t.putS r x).fpctl = t.fpctl := by unfold Slice.putS; split <;> rfl
@[simp] theorem putS_fpstat (t : Slice) (r : Reg) (x : W64) : (t.putS r x).fpstat = t.fpstat := by unfold Slice.putS; split <;> rfl
@[simp] theorem putS_srcount (t : Slice) (r : Reg) (x : W64) : (t.putS r x).srcount = t.srcount := by unfold Slice.putS; split <;> rfl
@[simp] theorem putS_span (t : Slice) (r : Reg) (x : W64) : (t.putS r x).span = t.span := by unfold Slice.putS; split <;> rfl
@[simp] theorem putS_bitsA (t : Slice) (r : Reg) (x : W64) : (t.putS r x).bitsA = t.bitsA := by unfold Slice.putS; split <;> rfl
@[simp] theorem putS_bitsB (t : Slice) (r : Reg) (x : W64) : (t.putS r x).bitsB = t.bitsB := by unfold Slice.putS; split <;> rfl
@[simp] theorem putS_demand (t : Slice) (r : Reg) (x : W64) : (t.putS r x).demand = t.demand := by unfold Slice.putS; split <;> rfl
@[simp] theorem putS_retStack (t : Slice) (r : Reg) (x : W64) : (t.putS r x).retStack = t.retStack := by unfold Slice.putS; split <;> rfl
@[simp] theorem putS_retSpilled (t : Slice) (r : Reg) (x : W64) : (t.putS r x).retSpilled = t.retSpilled := by unfold Slice.putS; split <;> rfl
@[simp] theorem putS_run (t : Slice) (r : Reg) (x : W64) : (t.putS r x).run = t.run := by unfold Slice.putS; split <;> rfl
@[simp] theorem putS_grp (t : Slice) (r : Reg) (x : W64) : (t.putS r x).grp = t.grp := by unfold Slice.putS; split <;> rfl
@[simp] theorem putS_results (t : Slice) (r : Reg) (x : W64) : (t.putS r x).results = t.results := by unfold Slice.putS; split <;> rfl
@[simp] theorem putS_handPass (t : Slice) (r : Reg) (x : W64) : (t.putS r x).handPass = t.handPass := by unfold Slice.putS; split <;> rfl
@[simp] theorem putS_barPass (t : Slice) (r : Reg) (x : W64) : (t.putS r x).barPass = t.barPass := by unfold Slice.putS; split <;> rfl
@[simp] theorem putS_age (t : Slice) (r : Reg) (x : W64) : (t.putS r x).age = t.age := by unfold Slice.putS; split <;> rfl
@[simp] theorem putS_withheld (t : Slice) (r : Reg) (x : W64) : (t.putS r x).withheld = t.withheld := by unfold Slice.putS; split <;> rfl
@[simp] theorem putS_served (t : Slice) (r : Reg) (x : W64) : (t.putS r x).served = t.served := by unfold Slice.putS; split <;> rfl
@[simp] theorem putS_replay (t : Slice) (r : Reg) (x : W64) : (t.putS r x).replay = t.replay := by unfold Slice.putS; split <;> rfl
@[simp] theorem putS_behind (t : Slice) (r : Reg) (x : W64) : (t.putS r x).behind = t.behind := by unfold Slice.putS; split <;> rfl
@[simp] theorem putS_blk (t : Slice) (r : Reg) (x : W64) : (t.putS r x).blk = t.blk := by unfold Slice.putS; split <;> rfl
@[simp] theorem putS_seqF (t : Slice) (r : Reg) (x : W64) : (t.putS r x).seqF = t.seqF := by unfold Slice.putS; split <;> rfl
@[simp] theorem putS_pos (t : Slice) (r : Reg) (x : W64) : (t.putS r x).pos = t.pos := by unfold Slice.putS; split <;> rfl
@[simp] theorem emptyS_idx (t : Slice) (r : Reg) : (t.emptyS r).idx = t.idx := by unfold Slice.emptyS; split <;> rfl
@[simp] theorem emptyS_pc (t : Slice) (r : Reg) : (t.emptyS r).pc = t.pc := by unfold Slice.emptyS; split <;> rfl
@[simp] theorem emptyS_mask (t : Slice) (r : Reg) : (t.emptyS r).mask = t.mask := by unfold Slice.emptyS; split <;> rfl
@[simp] theorem emptyS_s (t : Slice) (r : Reg) : (t.emptyS r).s = t.s := by unfold Slice.emptyS; split <;> rfl
@[simp] theorem emptyS_v (t : Slice) (r : Reg) : (t.emptyS r).v = t.v := by unfold Slice.emptyS; split <;> rfl
@[simp] theorem emptyS_vFull (t : Slice) (r : Reg) : (t.emptyS r).vFull = t.vFull := by unfold Slice.emptyS; split <;> rfl
@[simp] theorem emptyS_k (t : Slice) (r : Reg) : (t.emptyS r).k = t.k := by unfold Slice.emptyS; split <;> rfl
@[simp] theorem emptyS_w (t : Slice) (r : Reg) : (t.emptyS r).w = t.w := by unfold Slice.emptyS; split <;> rfl
@[simp] theorem emptyS_tokens (t : Slice) (r : Reg) : (t.emptyS r).tokens = t.tokens := by unfold Slice.emptyS; split <;> rfl
@[simp] theorem emptyS_regions (t : Slice) (r : Reg) : (t.emptyS r).regions = t.regions := by unfold Slice.emptyS; split <;> rfl
@[simp] theorem emptyS_opStacks (t : Slice) (r : Reg) : (t.emptyS r).opStacks = t.opStacks := by unfold Slice.emptyS; split <;> rfl
@[simp] theorem emptyS_fpctl (t : Slice) (r : Reg) : (t.emptyS r).fpctl = t.fpctl := by unfold Slice.emptyS; split <;> rfl
@[simp] theorem emptyS_fpstat (t : Slice) (r : Reg) : (t.emptyS r).fpstat = t.fpstat := by unfold Slice.emptyS; split <;> rfl
@[simp] theorem emptyS_srcount (t : Slice) (r : Reg) : (t.emptyS r).srcount = t.srcount := by unfold Slice.emptyS; split <;> rfl
@[simp] theorem emptyS_span (t : Slice) (r : Reg) : (t.emptyS r).span = t.span := by unfold Slice.emptyS; split <;> rfl
@[simp] theorem emptyS_bitsA (t : Slice) (r : Reg) : (t.emptyS r).bitsA = t.bitsA := by unfold Slice.emptyS; split <;> rfl
@[simp] theorem emptyS_bitsB (t : Slice) (r : Reg) : (t.emptyS r).bitsB = t.bitsB := by unfold Slice.emptyS; split <;> rfl
@[simp] theorem emptyS_demand (t : Slice) (r : Reg) : (t.emptyS r).demand = t.demand := by unfold Slice.emptyS; split <;> rfl
@[simp] theorem emptyS_retStack (t : Slice) (r : Reg) : (t.emptyS r).retStack = t.retStack := by unfold Slice.emptyS; split <;> rfl
@[simp] theorem emptyS_retSpilled (t : Slice) (r : Reg) : (t.emptyS r).retSpilled = t.retSpilled := by unfold Slice.emptyS; split <;> rfl
@[simp] theorem emptyS_run (t : Slice) (r : Reg) : (t.emptyS r).run = t.run := by unfold Slice.emptyS; split <;> rfl
@[simp] theorem emptyS_grp (t : Slice) (r : Reg) : (t.emptyS r).grp = t.grp := by unfold Slice.emptyS; split <;> rfl
@[simp] theorem emptyS_results (t : Slice) (r : Reg) : (t.emptyS r).results = t.results := by unfold Slice.emptyS; split <;> rfl
@[simp] theorem emptyS_handPass (t : Slice) (r : Reg) : (t.emptyS r).handPass = t.handPass := by unfold Slice.emptyS; split <;> rfl
@[simp] theorem emptyS_barPass (t : Slice) (r : Reg) : (t.emptyS r).barPass = t.barPass := by unfold Slice.emptyS; split <;> rfl
@[simp] theorem emptyS_age (t : Slice) (r : Reg) : (t.emptyS r).age = t.age := by unfold Slice.emptyS; split <;> rfl
@[simp] theorem emptyS_withheld (t : Slice) (r : Reg) : (t.emptyS r).withheld = t.withheld := by unfold Slice.emptyS; split <;> rfl
@[simp] theorem emptyS_served (t : Slice) (r : Reg) : (t.emptyS r).served = t.served := by unfold Slice.emptyS; split <;> rfl
@[simp] theorem emptyS_replay (t : Slice) (r : Reg) : (t.emptyS r).replay = t.replay := by unfold Slice.emptyS; split <;> rfl
@[simp] theorem emptyS_behind (t : Slice) (r : Reg) : (t.emptyS r).behind = t.behind := by unfold Slice.emptyS; split <;> rfl
@[simp] theorem emptyS_blk (t : Slice) (r : Reg) : (t.emptyS r).blk = t.blk := by unfold Slice.emptyS; split <;> rfl
@[simp] theorem emptyS_seqF (t : Slice) (r : Reg) : (t.emptyS r).seqF = t.seqF := by unfold Slice.emptyS; split <;> rfl
@[simp] theorem emptyS_pos (t : Slice) (r : Reg) : (t.emptyS r).pos = t.pos := by unfold Slice.emptyS; split <;> rfl
@[simp] theorem fillS_idx (t : Slice) (r : Reg) : (t.fillS r).idx = t.idx := rfl
@[simp] theorem fillS_pc (t : Slice) (r : Reg) : (t.fillS r).pc = t.pc := rfl
@[simp] theorem fillS_mask (t : Slice) (r : Reg) : (t.fillS r).mask = t.mask := rfl
@[simp] theorem fillS_s (t : Slice) (r : Reg) : (t.fillS r).s = t.s := rfl
@[simp] theorem fillS_v (t : Slice) (r : Reg) : (t.fillS r).v = t.v := rfl
@[simp] theorem fillS_vFull (t : Slice) (r : Reg) : (t.fillS r).vFull = t.vFull := rfl
@[simp] theorem fillS_k (t : Slice) (r : Reg) : (t.fillS r).k = t.k := rfl
@[simp] theorem fillS_w (t : Slice) (r : Reg) : (t.fillS r).w = t.w := rfl
@[simp] theorem fillS_tokens (t : Slice) (r : Reg) : (t.fillS r).tokens = t.tokens := rfl
@[simp] theorem fillS_regions (t : Slice) (r : Reg) : (t.fillS r).regions = t.regions := rfl
@[simp] theorem fillS_opStacks (t : Slice) (r : Reg) : (t.fillS r).opStacks = t.opStacks := rfl
@[simp] theorem fillS_fpctl (t : Slice) (r : Reg) : (t.fillS r).fpctl = t.fpctl := rfl
@[simp] theorem fillS_fpstat (t : Slice) (r : Reg) : (t.fillS r).fpstat = t.fpstat := rfl
@[simp] theorem fillS_srcount (t : Slice) (r : Reg) : (t.fillS r).srcount = t.srcount := rfl
@[simp] theorem fillS_span (t : Slice) (r : Reg) : (t.fillS r).span = t.span := rfl
@[simp] theorem fillS_bitsA (t : Slice) (r : Reg) : (t.fillS r).bitsA = t.bitsA := rfl
@[simp] theorem fillS_bitsB (t : Slice) (r : Reg) : (t.fillS r).bitsB = t.bitsB := rfl
@[simp] theorem fillS_demand (t : Slice) (r : Reg) : (t.fillS r).demand = t.demand := rfl
@[simp] theorem fillS_retStack (t : Slice) (r : Reg) : (t.fillS r).retStack = t.retStack := rfl
@[simp] theorem fillS_retSpilled (t : Slice) (r : Reg) : (t.fillS r).retSpilled = t.retSpilled := rfl
@[simp] theorem fillS_run (t : Slice) (r : Reg) : (t.fillS r).run = t.run := rfl
@[simp] theorem fillS_grp (t : Slice) (r : Reg) : (t.fillS r).grp = t.grp := rfl
@[simp] theorem fillS_results (t : Slice) (r : Reg) : (t.fillS r).results = t.results := rfl
@[simp] theorem fillS_handPass (t : Slice) (r : Reg) : (t.fillS r).handPass = t.handPass := rfl
@[simp] theorem fillS_barPass (t : Slice) (r : Reg) : (t.fillS r).barPass = t.barPass := rfl
@[simp] theorem fillS_age (t : Slice) (r : Reg) : (t.fillS r).age = t.age := rfl
@[simp] theorem fillS_withheld (t : Slice) (r : Reg) : (t.fillS r).withheld = t.withheld := rfl
@[simp] theorem fillS_served (t : Slice) (r : Reg) : (t.fillS r).served = t.served := rfl
@[simp] theorem fillS_replay (t : Slice) (r : Reg) : (t.fillS r).replay = t.replay := rfl
@[simp] theorem fillS_behind (t : Slice) (r : Reg) : (t.fillS r).behind = t.behind := rfl
@[simp] theorem fillS_blk (t : Slice) (r : Reg) : (t.fillS r).blk = t.blk := rfl
@[simp] theorem fillS_seqF (t : Slice) (r : Reg) : (t.fillS r).seqF = t.seqF := rfl
@[simp] theorem fillS_pos (t : Slice) (r : Reg) : (t.fillS r).pos = t.pos := rfl
@[simp] theorem putV_idx (t : Slice) (r : Reg) (l : Fin 4) (x : W32) : (t.putV r l x).idx = t.idx := rfl
@[simp] theorem putV_pc (t : Slice) (r : Reg) (l : Fin 4) (x : W32) : (t.putV r l x).pc = t.pc := rfl
@[simp] theorem putV_mask (t : Slice) (r : Reg) (l : Fin 4) (x : W32) : (t.putV r l x).mask = t.mask := rfl
@[simp] theorem putV_s (t : Slice) (r : Reg) (l : Fin 4) (x : W32) : (t.putV r l x).s = t.s := rfl
@[simp] theorem putV_sFull (t : Slice) (r : Reg) (l : Fin 4) (x : W32) : (t.putV r l x).sFull = t.sFull := rfl
@[simp] theorem putV_vFull (t : Slice) (r : Reg) (l : Fin 4) (x : W32) : (t.putV r l x).vFull = t.vFull := rfl
@[simp] theorem putV_k (t : Slice) (r : Reg) (l : Fin 4) (x : W32) : (t.putV r l x).k = t.k := rfl
@[simp] theorem putV_w (t : Slice) (r : Reg) (l : Fin 4) (x : W32) : (t.putV r l x).w = t.w := rfl
@[simp] theorem putV_tokens (t : Slice) (r : Reg) (l : Fin 4) (x : W32) : (t.putV r l x).tokens = t.tokens := rfl
@[simp] theorem putV_regions (t : Slice) (r : Reg) (l : Fin 4) (x : W32) : (t.putV r l x).regions = t.regions := rfl
@[simp] theorem putV_opStacks (t : Slice) (r : Reg) (l : Fin 4) (x : W32) : (t.putV r l x).opStacks = t.opStacks := rfl
@[simp] theorem putV_fpctl (t : Slice) (r : Reg) (l : Fin 4) (x : W32) : (t.putV r l x).fpctl = t.fpctl := rfl
@[simp] theorem putV_fpstat (t : Slice) (r : Reg) (l : Fin 4) (x : W32) : (t.putV r l x).fpstat = t.fpstat := rfl
@[simp] theorem putV_srcount (t : Slice) (r : Reg) (l : Fin 4) (x : W32) : (t.putV r l x).srcount = t.srcount := rfl
@[simp] theorem putV_span (t : Slice) (r : Reg) (l : Fin 4) (x : W32) : (t.putV r l x).span = t.span := rfl
@[simp] theorem putV_bitsA (t : Slice) (r : Reg) (l : Fin 4) (x : W32) : (t.putV r l x).bitsA = t.bitsA := rfl
@[simp] theorem putV_bitsB (t : Slice) (r : Reg) (l : Fin 4) (x : W32) : (t.putV r l x).bitsB = t.bitsB := rfl
@[simp] theorem putV_demand (t : Slice) (r : Reg) (l : Fin 4) (x : W32) : (t.putV r l x).demand = t.demand := rfl
@[simp] theorem putV_retStack (t : Slice) (r : Reg) (l : Fin 4) (x : W32) : (t.putV r l x).retStack = t.retStack := rfl
@[simp] theorem putV_retSpilled (t : Slice) (r : Reg) (l : Fin 4) (x : W32) : (t.putV r l x).retSpilled = t.retSpilled := rfl
@[simp] theorem putV_run (t : Slice) (r : Reg) (l : Fin 4) (x : W32) : (t.putV r l x).run = t.run := rfl
@[simp] theorem putV_grp (t : Slice) (r : Reg) (l : Fin 4) (x : W32) : (t.putV r l x).grp = t.grp := rfl
@[simp] theorem putV_results (t : Slice) (r : Reg) (l : Fin 4) (x : W32) : (t.putV r l x).results = t.results := rfl
@[simp] theorem putV_handPass (t : Slice) (r : Reg) (l : Fin 4) (x : W32) : (t.putV r l x).handPass = t.handPass := rfl
@[simp] theorem putV_barPass (t : Slice) (r : Reg) (l : Fin 4) (x : W32) : (t.putV r l x).barPass = t.barPass := rfl
@[simp] theorem putV_age (t : Slice) (r : Reg) (l : Fin 4) (x : W32) : (t.putV r l x).age = t.age := rfl
@[simp] theorem putV_withheld (t : Slice) (r : Reg) (l : Fin 4) (x : W32) : (t.putV r l x).withheld = t.withheld := rfl
@[simp] theorem putV_served (t : Slice) (r : Reg) (l : Fin 4) (x : W32) : (t.putV r l x).served = t.served := rfl
@[simp] theorem putV_replay (t : Slice) (r : Reg) (l : Fin 4) (x : W32) : (t.putV r l x).replay = t.replay := rfl
@[simp] theorem putV_behind (t : Slice) (r : Reg) (l : Fin 4) (x : W32) : (t.putV r l x).behind = t.behind := rfl
@[simp] theorem putV_blk (t : Slice) (r : Reg) (l : Fin 4) (x : W32) : (t.putV r l x).blk = t.blk := rfl
@[simp] theorem putV_seqF (t : Slice) (r : Reg) (l : Fin 4) (x : W32) : (t.putV r l x).seqF = t.seqF := rfl
@[simp] theorem putV_pos (t : Slice) (r : Reg) (l : Fin 4) (x : W32) : (t.putV r l x).pos = t.pos := rfl
@[simp] theorem emptyV_idx (t : Slice) (r : Reg) (p : Bool) : (t.emptyV r p).idx = t.idx := rfl
@[simp] theorem emptyV_pc (t : Slice) (r : Reg) (p : Bool) : (t.emptyV r p).pc = t.pc := rfl
@[simp] theorem emptyV_mask (t : Slice) (r : Reg) (p : Bool) : (t.emptyV r p).mask = t.mask := rfl
@[simp] theorem emptyV_s (t : Slice) (r : Reg) (p : Bool) : (t.emptyV r p).s = t.s := rfl
@[simp] theorem emptyV_sFull (t : Slice) (r : Reg) (p : Bool) : (t.emptyV r p).sFull = t.sFull := rfl
@[simp] theorem emptyV_v (t : Slice) (r : Reg) (p : Bool) : (t.emptyV r p).v = t.v := rfl
@[simp] theorem emptyV_k (t : Slice) (r : Reg) (p : Bool) : (t.emptyV r p).k = t.k := rfl
@[simp] theorem emptyV_w (t : Slice) (r : Reg) (p : Bool) : (t.emptyV r p).w = t.w := rfl
@[simp] theorem emptyV_tokens (t : Slice) (r : Reg) (p : Bool) : (t.emptyV r p).tokens = t.tokens := rfl
@[simp] theorem emptyV_regions (t : Slice) (r : Reg) (p : Bool) : (t.emptyV r p).regions = t.regions := rfl
@[simp] theorem emptyV_opStacks (t : Slice) (r : Reg) (p : Bool) : (t.emptyV r p).opStacks = t.opStacks := rfl
@[simp] theorem emptyV_fpctl (t : Slice) (r : Reg) (p : Bool) : (t.emptyV r p).fpctl = t.fpctl := rfl
@[simp] theorem emptyV_fpstat (t : Slice) (r : Reg) (p : Bool) : (t.emptyV r p).fpstat = t.fpstat := rfl
@[simp] theorem emptyV_srcount (t : Slice) (r : Reg) (p : Bool) : (t.emptyV r p).srcount = t.srcount := rfl
@[simp] theorem emptyV_span (t : Slice) (r : Reg) (p : Bool) : (t.emptyV r p).span = t.span := rfl
@[simp] theorem emptyV_bitsA (t : Slice) (r : Reg) (p : Bool) : (t.emptyV r p).bitsA = t.bitsA := rfl
@[simp] theorem emptyV_bitsB (t : Slice) (r : Reg) (p : Bool) : (t.emptyV r p).bitsB = t.bitsB := rfl
@[simp] theorem emptyV_demand (t : Slice) (r : Reg) (p : Bool) : (t.emptyV r p).demand = t.demand := rfl
@[simp] theorem emptyV_retStack (t : Slice) (r : Reg) (p : Bool) : (t.emptyV r p).retStack = t.retStack := rfl
@[simp] theorem emptyV_retSpilled (t : Slice) (r : Reg) (p : Bool) : (t.emptyV r p).retSpilled = t.retSpilled := rfl
@[simp] theorem emptyV_run (t : Slice) (r : Reg) (p : Bool) : (t.emptyV r p).run = t.run := rfl
@[simp] theorem emptyV_grp (t : Slice) (r : Reg) (p : Bool) : (t.emptyV r p).grp = t.grp := rfl
@[simp] theorem emptyV_results (t : Slice) (r : Reg) (p : Bool) : (t.emptyV r p).results = t.results := rfl
@[simp] theorem emptyV_handPass (t : Slice) (r : Reg) (p : Bool) : (t.emptyV r p).handPass = t.handPass := rfl
@[simp] theorem emptyV_barPass (t : Slice) (r : Reg) (p : Bool) : (t.emptyV r p).barPass = t.barPass := rfl
@[simp] theorem emptyV_age (t : Slice) (r : Reg) (p : Bool) : (t.emptyV r p).age = t.age := rfl
@[simp] theorem emptyV_withheld (t : Slice) (r : Reg) (p : Bool) : (t.emptyV r p).withheld = t.withheld := rfl
@[simp] theorem emptyV_served (t : Slice) (r : Reg) (p : Bool) : (t.emptyV r p).served = t.served := rfl
@[simp] theorem emptyV_replay (t : Slice) (r : Reg) (p : Bool) : (t.emptyV r p).replay = t.replay := rfl
@[simp] theorem emptyV_behind (t : Slice) (r : Reg) (p : Bool) : (t.emptyV r p).behind = t.behind := rfl
@[simp] theorem emptyV_blk (t : Slice) (r : Reg) (p : Bool) : (t.emptyV r p).blk = t.blk := rfl
@[simp] theorem emptyV_seqF (t : Slice) (r : Reg) (p : Bool) : (t.emptyV r p).seqF = t.seqF := rfl
@[simp] theorem emptyV_pos (t : Slice) (r : Reg) (p : Bool) : (t.emptyV r p).pos = t.pos := rfl
@[simp] theorem fillV_idx (t : Slice) (r : Reg) (p : Bool) : (t.fillV r p).idx = t.idx := rfl
@[simp] theorem fillV_pc (t : Slice) (r : Reg) (p : Bool) : (t.fillV r p).pc = t.pc := rfl
@[simp] theorem fillV_mask (t : Slice) (r : Reg) (p : Bool) : (t.fillV r p).mask = t.mask := rfl
@[simp] theorem fillV_s (t : Slice) (r : Reg) (p : Bool) : (t.fillV r p).s = t.s := rfl
@[simp] theorem fillV_sFull (t : Slice) (r : Reg) (p : Bool) : (t.fillV r p).sFull = t.sFull := rfl
@[simp] theorem fillV_v (t : Slice) (r : Reg) (p : Bool) : (t.fillV r p).v = t.v := rfl
@[simp] theorem fillV_k (t : Slice) (r : Reg) (p : Bool) : (t.fillV r p).k = t.k := rfl
@[simp] theorem fillV_w (t : Slice) (r : Reg) (p : Bool) : (t.fillV r p).w = t.w := rfl
@[simp] theorem fillV_tokens (t : Slice) (r : Reg) (p : Bool) : (t.fillV r p).tokens = t.tokens := rfl
@[simp] theorem fillV_regions (t : Slice) (r : Reg) (p : Bool) : (t.fillV r p).regions = t.regions := rfl
@[simp] theorem fillV_opStacks (t : Slice) (r : Reg) (p : Bool) : (t.fillV r p).opStacks = t.opStacks := rfl
@[simp] theorem fillV_fpctl (t : Slice) (r : Reg) (p : Bool) : (t.fillV r p).fpctl = t.fpctl := rfl
@[simp] theorem fillV_fpstat (t : Slice) (r : Reg) (p : Bool) : (t.fillV r p).fpstat = t.fpstat := rfl
@[simp] theorem fillV_srcount (t : Slice) (r : Reg) (p : Bool) : (t.fillV r p).srcount = t.srcount := rfl
@[simp] theorem fillV_span (t : Slice) (r : Reg) (p : Bool) : (t.fillV r p).span = t.span := rfl
@[simp] theorem fillV_bitsA (t : Slice) (r : Reg) (p : Bool) : (t.fillV r p).bitsA = t.bitsA := rfl
@[simp] theorem fillV_bitsB (t : Slice) (r : Reg) (p : Bool) : (t.fillV r p).bitsB = t.bitsB := rfl
@[simp] theorem fillV_demand (t : Slice) (r : Reg) (p : Bool) : (t.fillV r p).demand = t.demand := rfl
@[simp] theorem fillV_retStack (t : Slice) (r : Reg) (p : Bool) : (t.fillV r p).retStack = t.retStack := rfl
@[simp] theorem fillV_retSpilled (t : Slice) (r : Reg) (p : Bool) : (t.fillV r p).retSpilled = t.retSpilled := rfl
@[simp] theorem fillV_run (t : Slice) (r : Reg) (p : Bool) : (t.fillV r p).run = t.run := rfl
@[simp] theorem fillV_grp (t : Slice) (r : Reg) (p : Bool) : (t.fillV r p).grp = t.grp := rfl
@[simp] theorem fillV_results (t : Slice) (r : Reg) (p : Bool) : (t.fillV r p).results = t.results := rfl
@[simp] theorem fillV_handPass (t : Slice) (r : Reg) (p : Bool) : (t.fillV r p).handPass = t.handPass := rfl
@[simp] theorem fillV_barPass (t : Slice) (r : Reg) (p : Bool) : (t.fillV r p).barPass = t.barPass := rfl
@[simp] theorem fillV_age (t : Slice) (r : Reg) (p : Bool) : (t.fillV r p).age = t.age := rfl
@[simp] theorem fillV_withheld (t : Slice) (r : Reg) (p : Bool) : (t.fillV r p).withheld = t.withheld := rfl
@[simp] theorem fillV_served (t : Slice) (r : Reg) (p : Bool) : (t.fillV r p).served = t.served := rfl
@[simp] theorem fillV_replay (t : Slice) (r : Reg) (p : Bool) : (t.fillV r p).replay = t.replay := rfl
@[simp] theorem fillV_behind (t : Slice) (r : Reg) (p : Bool) : (t.fillV r p).behind = t.behind := rfl
@[simp] theorem fillV_blk (t : Slice) (r : Reg) (p : Bool) : (t.fillV r p).blk = t.blk := rfl
@[simp] theorem fillV_seqF (t : Slice) (r : Reg) (p : Bool) : (t.fillV r p).seqF = t.seqF := rfl
@[simp] theorem fillV_pos (t : Slice) (r : Reg) (p : Bool) : (t.fillV r p).pos = t.pos := rfl
@[simp] theorem raise_idx (t : Slice) (f : BitVec 7) : (t.raise f).idx = t.idx := rfl
@[simp] theorem raise_pc (t : Slice) (f : BitVec 7) : (t.raise f).pc = t.pc := rfl
@[simp] theorem raise_mask (t : Slice) (f : BitVec 7) : (t.raise f).mask = t.mask := rfl
@[simp] theorem raise_s (t : Slice) (f : BitVec 7) : (t.raise f).s = t.s := rfl
@[simp] theorem raise_sFull (t : Slice) (f : BitVec 7) : (t.raise f).sFull = t.sFull := rfl
@[simp] theorem raise_v (t : Slice) (f : BitVec 7) : (t.raise f).v = t.v := rfl
@[simp] theorem raise_vFull (t : Slice) (f : BitVec 7) : (t.raise f).vFull = t.vFull := rfl
@[simp] theorem raise_k (t : Slice) (f : BitVec 7) : (t.raise f).k = t.k := rfl
@[simp] theorem raise_w (t : Slice) (f : BitVec 7) : (t.raise f).w = t.w := rfl
@[simp] theorem raise_tokens (t : Slice) (f : BitVec 7) : (t.raise f).tokens = t.tokens := rfl
@[simp] theorem raise_regions (t : Slice) (f : BitVec 7) : (t.raise f).regions = t.regions := rfl
@[simp] theorem raise_opStacks (t : Slice) (f : BitVec 7) : (t.raise f).opStacks = t.opStacks := rfl
@[simp] theorem raise_fpctl (t : Slice) (f : BitVec 7) : (t.raise f).fpctl = t.fpctl := rfl
@[simp] theorem raise_srcount (t : Slice) (f : BitVec 7) : (t.raise f).srcount = t.srcount := rfl
@[simp] theorem raise_span (t : Slice) (f : BitVec 7) : (t.raise f).span = t.span := rfl
@[simp] theorem raise_bitsA (t : Slice) (f : BitVec 7) : (t.raise f).bitsA = t.bitsA := rfl
@[simp] theorem raise_bitsB (t : Slice) (f : BitVec 7) : (t.raise f).bitsB = t.bitsB := rfl
@[simp] theorem raise_demand (t : Slice) (f : BitVec 7) : (t.raise f).demand = t.demand := rfl
@[simp] theorem raise_retStack (t : Slice) (f : BitVec 7) : (t.raise f).retStack = t.retStack := rfl
@[simp] theorem raise_retSpilled (t : Slice) (f : BitVec 7) : (t.raise f).retSpilled = t.retSpilled := rfl
@[simp] theorem raise_run (t : Slice) (f : BitVec 7) : (t.raise f).run = t.run := rfl
@[simp] theorem raise_grp (t : Slice) (f : BitVec 7) : (t.raise f).grp = t.grp := rfl
@[simp] theorem raise_results (t : Slice) (f : BitVec 7) : (t.raise f).results = t.results := rfl
@[simp] theorem raise_handPass (t : Slice) (f : BitVec 7) : (t.raise f).handPass = t.handPass := rfl
@[simp] theorem raise_barPass (t : Slice) (f : BitVec 7) : (t.raise f).barPass = t.barPass := rfl
@[simp] theorem raise_age (t : Slice) (f : BitVec 7) : (t.raise f).age = t.age := rfl
@[simp] theorem raise_withheld (t : Slice) (f : BitVec 7) : (t.raise f).withheld = t.withheld := rfl
@[simp] theorem raise_served (t : Slice) (f : BitVec 7) : (t.raise f).served = t.served := rfl
@[simp] theorem raise_replay (t : Slice) (f : BitVec 7) : (t.raise f).replay = t.replay := rfl
@[simp] theorem raise_behind (t : Slice) (f : BitVec 7) : (t.raise f).behind = t.behind := rfl
@[simp] theorem raise_blk (t : Slice) (f : BitVec 7) : (t.raise f).blk = t.blk := rfl
@[simp] theorem raise_seqF (t : Slice) (f : BitVec 7) : (t.raise f).seqF = t.seqF := rfl
@[simp] theorem raise_pos (t : Slice) (f : BitVec 7) : (t.raise f).pos = t.pos := rfl
@[simp] theorem putK_idx (t : Slice) (k : Nat) (m : BitVec 4) : (t.putK k m).idx = t.idx := by unfold Slice.putK; split <;> rfl
@[simp] theorem putK_pc (t : Slice) (k : Nat) (m : BitVec 4) : (t.putK k m).pc = t.pc := by unfold Slice.putK; split <;> rfl
@[simp] theorem putK_mask (t : Slice) (k : Nat) (m : BitVec 4) : (t.putK k m).mask = t.mask := by unfold Slice.putK; split <;> rfl
@[simp] theorem putK_s (t : Slice) (k : Nat) (m : BitVec 4) : (t.putK k m).s = t.s := by unfold Slice.putK; split <;> rfl
@[simp] theorem putK_sFull (t : Slice) (k : Nat) (m : BitVec 4) : (t.putK k m).sFull = t.sFull := by unfold Slice.putK; split <;> rfl
@[simp] theorem putK_v (t : Slice) (k : Nat) (m : BitVec 4) : (t.putK k m).v = t.v := by unfold Slice.putK; split <;> rfl
@[simp] theorem putK_vFull (t : Slice) (k : Nat) (m : BitVec 4) : (t.putK k m).vFull = t.vFull := by unfold Slice.putK; split <;> rfl
@[simp] theorem putK_w (t : Slice) (k : Nat) (m : BitVec 4) : (t.putK k m).w = t.w := by unfold Slice.putK; split <;> rfl
@[simp] theorem putK_tokens (t : Slice) (k : Nat) (m : BitVec 4) : (t.putK k m).tokens = t.tokens := by unfold Slice.putK; split <;> rfl
@[simp] theorem putK_regions (t : Slice) (k : Nat) (m : BitVec 4) : (t.putK k m).regions = t.regions := by unfold Slice.putK; split <;> rfl
@[simp] theorem putK_opStacks (t : Slice) (k : Nat) (m : BitVec 4) : (t.putK k m).opStacks = t.opStacks := by unfold Slice.putK; split <;> rfl
@[simp] theorem putK_fpctl (t : Slice) (k : Nat) (m : BitVec 4) : (t.putK k m).fpctl = t.fpctl := by unfold Slice.putK; split <;> rfl
@[simp] theorem putK_fpstat (t : Slice) (k : Nat) (m : BitVec 4) : (t.putK k m).fpstat = t.fpstat := by unfold Slice.putK; split <;> rfl
@[simp] theorem putK_srcount (t : Slice) (k : Nat) (m : BitVec 4) : (t.putK k m).srcount = t.srcount := by unfold Slice.putK; split <;> rfl
@[simp] theorem putK_span (t : Slice) (k : Nat) (m : BitVec 4) : (t.putK k m).span = t.span := by unfold Slice.putK; split <;> rfl
@[simp] theorem putK_bitsA (t : Slice) (k : Nat) (m : BitVec 4) : (t.putK k m).bitsA = t.bitsA := by unfold Slice.putK; split <;> rfl
@[simp] theorem putK_bitsB (t : Slice) (k : Nat) (m : BitVec 4) : (t.putK k m).bitsB = t.bitsB := by unfold Slice.putK; split <;> rfl
@[simp] theorem putK_demand (t : Slice) (k : Nat) (m : BitVec 4) : (t.putK k m).demand = t.demand := by unfold Slice.putK; split <;> rfl
@[simp] theorem putK_retStack (t : Slice) (k : Nat) (m : BitVec 4) : (t.putK k m).retStack = t.retStack := by unfold Slice.putK; split <;> rfl
@[simp] theorem putK_retSpilled (t : Slice) (k : Nat) (m : BitVec 4) : (t.putK k m).retSpilled = t.retSpilled := by unfold Slice.putK; split <;> rfl
@[simp] theorem putK_run (t : Slice) (k : Nat) (m : BitVec 4) : (t.putK k m).run = t.run := by unfold Slice.putK; split <;> rfl
@[simp] theorem putK_grp (t : Slice) (k : Nat) (m : BitVec 4) : (t.putK k m).grp = t.grp := by unfold Slice.putK; split <;> rfl
@[simp] theorem putK_results (t : Slice) (k : Nat) (m : BitVec 4) : (t.putK k m).results = t.results := by unfold Slice.putK; split <;> rfl
@[simp] theorem putK_handPass (t : Slice) (k : Nat) (m : BitVec 4) : (t.putK k m).handPass = t.handPass := by unfold Slice.putK; split <;> rfl
@[simp] theorem putK_barPass (t : Slice) (k : Nat) (m : BitVec 4) : (t.putK k m).barPass = t.barPass := by unfold Slice.putK; split <;> rfl
@[simp] theorem putK_age (t : Slice) (k : Nat) (m : BitVec 4) : (t.putK k m).age = t.age := by unfold Slice.putK; split <;> rfl
@[simp] theorem putK_withheld (t : Slice) (k : Nat) (m : BitVec 4) : (t.putK k m).withheld = t.withheld := by unfold Slice.putK; split <;> rfl
@[simp] theorem putK_served (t : Slice) (k : Nat) (m : BitVec 4) : (t.putK k m).served = t.served := by unfold Slice.putK; split <;> rfl
@[simp] theorem putK_replay (t : Slice) (k : Nat) (m : BitVec 4) : (t.putK k m).replay = t.replay := by unfold Slice.putK; split <;> rfl
@[simp] theorem putK_behind (t : Slice) (k : Nat) (m : BitVec 4) : (t.putK k m).behind = t.behind := by unfold Slice.putK; split <;> rfl
@[simp] theorem putK_blk (t : Slice) (k : Nat) (m : BitVec 4) : (t.putK k m).blk = t.blk := by unfold Slice.putK; split <;> rfl
@[simp] theorem putK_seqF (t : Slice) (k : Nat) (m : BitVec 4) : (t.putK k m).seqF = t.seqF := by unfold Slice.putK; split <;> rfl
@[simp] theorem putK_pos (t : Slice) (k : Nat) (m : BitVec 4) : (t.putK k m).pos = t.pos := by unfold Slice.putK; split <;> rfl

end Slice

end Sys2Proof.Machine
end

