-- ==== Sys2Proof/Laws/Tables.lean ====
section
/-! SUPPORT. The tables of fields, formats, sources and destinations, constructor by constructor. -/

namespace Sys2Proof.WellFormed

@[simp] theorem fieldsOk_sadd (o : WArgs) : fieldsOk (.sadd o) = (scalar true true false o) := rfl
@[simp] theorem fieldsOk_ssub (o : WArgs) : fieldsOk (.ssub o) = (scalar true true false o) := rfl
@[simp] theorem fieldsOk_smul (o : WArgs) : fieldsOk (.smul o) = (scalar true true false o) := rfl
@[simp] theorem fieldsOk_smulh (o : WArgs) : fieldsOk (.smulh o) = (scalar true false false o) := rfl
@[simp] theorem fieldsOk_sdiv (o : WArgs) : fieldsOk (.sdiv o) = (scalar true false false o) := rfl
@[simp] theorem fieldsOk_srem (o : WArgs) : fieldsOk (.srem o) = (scalar true false false o) := rfl
@[simp] theorem fieldsOk_sand (o : WArgs) : fieldsOk (.sand o) = (scalar false false false o) := rfl
@[simp] theorem fieldsOk_sor (o : WArgs) : fieldsOk (.sor o) = (scalar false false false o) := rfl
@[simp] theorem fieldsOk_sxor (o : WArgs) : fieldsOk (.sxor o) = (scalar false false false o) := rfl
@[simp] theorem fieldsOk_sshl (o : WArgs) : fieldsOk (.sshl o) = (scalar false false false o) := rfl
@[simp] theorem fieldsOk_sshr (o : WArgs) : fieldsOk (.sshr o) = (scalar false false false o) := rfl
@[simp] theorem fieldsOk_ssra (o : WArgs) : fieldsOk (.ssra o) = (scalar false false false o) := rfl
@[simp] theorem fieldsOk_smin (o : WArgs) : fieldsOk (.smin o) = (scalar true false false o) := rfl
@[simp] theorem fieldsOk_smax (o : WArgs) : fieldsOk (.smax o) = (scalar true false false o) := rfl
@[simp] theorem fieldsOk_sset (o : WArgs) : fieldsOk (.sset o) = (scalar true false true o) := rfl
@[simp] theorem fieldsOk_sli (o : IArgs) : fieldsOk (.sli o) = (o.a == 0 && o.sec.toNat < 4 && o.xf == 0) := rfl
@[simp] theorem fieldsOk_sliIns (o : IArgs) : fieldsOk (.sliIns o) = (4 ≤ o.sec.toNat && o.sec.toNat < 8 && o.xf == 0) := rfl
@[simp] theorem fieldsOk_vadd (o : PArgs) : fieldsOk (.vadd o) = (vint false true false 0 o) := rfl
@[simp] theorem fieldsOk_vsub (o : PArgs) : fieldsOk (.vsub o) = (vint false true false 0 o) := rfl
@[simp] theorem fieldsOk_vmul (o : PArgs) : fieldsOk (.vmul o) = (vint false true false 0 o) := rfl
@[simp] theorem fieldsOk_vmulh (o : PArgs) : fieldsOk (.vmulh o) = (vint false false false 0 o) := rfl
@[simp] theorem fieldsOk_vmad (o : PArgs) : fieldsOk (.vmad o) = (vint false true true 0 o) := rfl
@[simp] theorem fieldsOk_vand (o : PArgs) : fieldsOk (.vand o) = (vint false false false 0 o) := rfl
@[simp] theorem fieldsOk_vor (o : PArgs) : fieldsOk (.vor o) = (vint false false false 0 o) := rfl
@[simp] theorem fieldsOk_vxor (o : PArgs) : fieldsOk (.vxor o) = (vint false false false 0 o) := rfl
@[simp] theorem fieldsOk_vshl (o : PArgs) : fieldsOk (.vshl o) = (vint false false false 0 o) := rfl
@[simp] theorem fieldsOk_vshr (o : PArgs) : fieldsOk (.vshr o) = (vint false false false 0 o) := rfl
@[simp] theorem fieldsOk_vsra (o : PArgs) : fieldsOk (.vsra o) = (vint false false false 0 o) := rfl
@[simp] theorem fieldsOk_vmin (o : PArgs) : fieldsOk (.vmin o) = (vint false false false 0 o) := rfl
@[simp] theorem fieldsOk_vmax (o : PArgs) : fieldsOk (.vmax o) = (vint false false false 0 o) := rfl
@[simp] theorem fieldsOk_vabs (o : PArgs) : fieldsOk (.vabs o) = (vint true true false 0 o) := rfl
@[simp] theorem fieldsOk_vclz (o : PArgs) : fieldsOk (.vclz o) = (vint true false false 0 o) := rfl
@[simp] theorem fieldsOk_vpopc (o : PArgs) : fieldsOk (.vpopc o) = (vint true false false 0 o) := rfl
@[simp] theorem fieldsOk_vcmp (o : PArgs) : fieldsOk (.vcmp o) = (vint false false false 5 o && below o.d 8) := rfl
@[simp] theorem fieldsOk_vsel (o : PArgs) : fieldsOk (.vsel o) = (vint false false false 7 o) := rfl
@[simp] theorem fieldsOk_fadd (o : PArgs) : fieldsOk (.fadd o) = (vfloat false true true false 0 o) := rfl
@[simp] theorem fieldsOk_fsub (o : PArgs) : fieldsOk (.fsub o) = (vfloat false true true false 0 o) := rfl
@[simp] theorem fieldsOk_fmul (o : PArgs) : fieldsOk (.fmul o) = (vfloat false true true false 0 o) := rfl
@[simp] theorem fieldsOk_ffma (o : PArgs) : fieldsOk (.ffma o) = (vfloat false true true true 0 o) := rfl
@[simp] theorem fieldsOk_fmin (o : PArgs) : fieldsOk (.fmin o) = (vfloat false true false false 0 o) := rfl
@[simp] theorem fieldsOk_fmax (o : PArgs) : fieldsOk (.fmax o) = (vfloat false true false false 0 o) := rfl
@[simp] theorem fieldsOk_fsgn (o : PArgs) : fieldsOk (.fsgn o) = (vfloat false false false false 2 o) := rfl
@[simp] theorem fieldsOk_fcmp (o : PArgs) : fieldsOk (.fcmp o) = (vfloat false false false false 7 o && below o.d 8) := rfl
@[simp] theorem fieldsOk_fclass (o : PArgs) : fieldsOk (.fclass o) = (vfloat true false false false 0 o) := rfl
@[simp] theorem fieldsOk_fscale (o : PArgs) : fieldsOk (.fscale o) = (vfloat false true true false 0 o) := rfl
@[simp] theorem fieldsOk_frint (o : PArgs) : fieldsOk (.frint o) = (vfloat true true false false 0 o) := rfl
@[simp] theorem fieldsOk_fcvt (o : PArgs) : fieldsOk (.fcvt o) = (conv false o && cvtT o.t && o.rm != .reserved && (o.sec == 0x10 || (o.sec.toNat < 16 && cvtT (convSrc o)))) := rfl
@[simp] theorem fieldsOk_fcvti (o : PArgs) : fieldsOk (.fcvti o) = (conv false o && intT o.t && o.t != .dflt && rmAny o.rm && !o.s && o.sec.toNat < 16 && floatT (convSrc o)) := rfl
@[simp] theorem fieldsOk_icvtf (o : PArgs) : fieldsOk (.icvtf o) = (conv false o && floatT o.t && rmAny o.rm && o.sec.toNat < 16 && intT (convSrc o) && convSrc o != .dflt) := rfl
@[simp] theorem fieldsOk_bfpack (o : PArgs) : fieldsOk (.bfpack o) = (conv true o && (o.t == .f32 || o.t == .f16 || o.t == .bf16) && o.rm == .dyn && !o.s && 2 ≤ o.sec.toNat && o.sec.toNat ≤ 8) := rfl
@[simp] theorem fieldsOk_frcp (o : PArgs) : fieldsOk (.frcp o) = (sfu o) := rfl
@[simp] theorem fieldsOk_frsq (o : PArgs) : fieldsOk (.frsq o) = (sfu o) := rfl
@[simp] theorem fieldsOk_fsqrt (o : PArgs) : fieldsOk (.fsqrt o) = (sfu o) := rfl
@[simp] theorem fieldsOk_fexp2 (o : PArgs) : fieldsOk (.fexp2 o) = (sfu o) := rfl
@[simp] theorem fieldsOk_flog2 (o : PArgs) : fieldsOk (.flog2 o) = (sfu o) := rfl
@[simp] theorem fieldsOk_fsin (o : PArgs) : fieldsOk (.fsin o) = (sfu o) := rfl
@[simp] theorem fieldsOk_fcos (o : PArgs) : fieldsOk (.fcos o) = (sfu o) := rfl
@[simp] theorem fieldsOk_ftanh (o : PArgs) : fieldsOk (.ftanh o) = (sfu o) := rfl
@[simp] theorem fieldsOk_fsigm (o : PArgs) : fieldsOk (.fsigm o) = (sfu o) := rfl
@[simp] theorem fieldsOk_ferf (o : PArgs) : fieldsOk (.ferf o) = (sfu o) := rfl
@[simp] theorem fieldsOk_vshuf (o : PArgs) : fieldsOk (.vshuf o) = (cross true o) := rfl
@[simp] theorem fieldsOk_vbcast (o : PArgs) : fieldsOk (.vbcast o) = (cross true o) := rfl
@[simp] theorem fieldsOk_vred (o : PArgs) : fieldsOk (.vred o) = (tree false false o) := rfl
@[simp] theorem fieldsOk_vscan (o : PArgs) : fieldsOk (.vscan o) = (tree false true o) := rfl
@[simp] theorem fieldsOk_vconf (o : PArgs) : fieldsOk (.vconf o) = (cross false o) := rfl
@[simp] theorem fieldsOk_vcomb (o : PArgs) : fieldsOk (.vcomb o) = (tree true false o) := rfl
@[simp] theorem fieldsOk_vcmprs (o : PArgs) : fieldsOk (.vcmprs o) = (cross false o) := rfl
@[simp] theorem fieldsOk_vexpnd (o : PArgs) : fieldsOk (.vexpnd o) = (cross false o) := rfl
@[simp] theorem fieldsOk_vmov (o : WArgs) : fieldsOk (.vmov o) = (noB o && o.imm == 0 && (o.sec == 0 || o.sec == 2) && kmOnly o.xf) := rfl
@[simp] theorem fieldsOk_vmovStream (o : WArgs) : fieldsOk (.vmovStream o) = (noB o && o.imm == 0 && o.sec == 1 && kmOnly o.xf && below o.a 16 && !o.fa) := rfl
@[simp] theorem fieldsOk_vsplat (o : WArgs) : fieldsOk (.vsplat o) = (noB o && o.sec.toNat < 4 && (if o.xf.getLsbD 3 then noA o else o.imm == 0 && !o.sec.getLsbD 0)) := rfl
@[simp] theorem fieldsOk_vextr (o : WArgs) : fieldsOk (.vextr o) = ((o.sec == 0 || o.sec == 2) && (if o.xf.getLsbD 3 then noB o else o.imm == 0)) := rfl
@[simp] theorem fieldsOk_vlane (o : WArgs) : fieldsOk (.vlane o) = (noA o && noB o && o.imm == 0 && o.sec == 0 && kmOnly o.xf) := rfl
@[simp] theorem fieldsOk_xv (o : PArgs) : fieldsOk (.xv o) = ((o.t == .dflt || o.t == .f32 || o.t == .f16 || o.t == .i32) && rmAny o.rm && o.c == 0 && o.x == 0 && o.sec == 0 && kmOnly o.xf && o.b == 0 && !o.fb) := rfl
@[simp] theorem fieldsOk_xpush (o : WArgs) : fieldsOk (.xpush o) = (noD o && noB o && o.imm == 0 && o.sec == 0 && kmOnly o.xf) := rfl
@[simp] theorem fieldsOk_xpop (o : WArgs) : fieldsOk (.xpop o) = (noA o && noB o && o.imm == 0 && o.sec == 0 && kmOnly o.xf) := rfl
@[simp] theorem fieldsOk_xpeek (o : WArgs) : fieldsOk (.xpeek o) = (noA o && below o.b 8 && !o.fb && o.imm == 0 && o.sec == 0 && kmOnly o.xf) := rfl
@[simp] theorem fieldsOk_xdepth (o : WArgs) : fieldsOk (.xdepth o) = (noA o && noB o && o.imm == 0 && o.sec == 0 && kmOnly o.xf) := rfl
@[simp] theorem fieldsOk_xclr (o : WArgs) : fieldsOk (.xclr o) = (noD o && noA o && noB o && o.imm == 0 && o.sec == 0 && kmOnly o.xf) := rfl
@[simp] theorem fieldsOk_tcfg (o : WArgs) : fieldsOk (.tcfg o) = (let rows := (o.imm >>> 9).toNat; let cols := (o.imm >>> 2 &&& 0x7F).toNat; below o.d 8 && noB o && o.xf == 0 && o.sec.toNat ≤ 8 && (o.imm &&& 3) == 0 && 1 ≤ rows && rows ≤ 64 && 1 ≤ cols && cols ≤ 64 && rows * cols * (if o.sec.toNat < 2 then 2 else 1) ≤ 8192 && (2 ≤ o.sec.toNat || noA o)) := rfl
@[simp] theorem fieldsOk_tld (o : WArgs) : fieldsOk (.tld o) = (below o.d 8 && noB o && o.sec == 0 && o.xf == 0) := rfl
@[simp] theorem fieldsOk_tst (o : WArgs) : fieldsOk (.tst o) = (below o.d 8 && noB o && o.sec == 0 && o.xf == 0) := rfl
@[simp] theorem fieldsOk_tzero (o : WArgs) : fieldsOk (.tzero o) = (below o.d 4 && noA o && noB o && noLong o) := rfl
@[simp] theorem fieldsOk_mma (o : WArgs) : fieldsOk (.mma o) = (below o.d 4 && below o.a 8 && below o.b 8 && noLong o) := rfl
@[simp] theorem fieldsOk_mloop (o : WArgs) : fieldsOk (.mloop o) = (!o.d.getLsbD 2 && !o.xf.getLsbD 3) := rfl
@[simp] theorem fieldsOk_mspan (o : WArgs) : fieldsOk (.mspan o) = (noD o && noA o && noB o && o.sec == 0 && o.xf == 0 && (o.imm &&& 0x0380) == 0) := rfl
@[simp] theorem fieldsOk_mspanSelf (o : WArgs) : fieldsOk (.mspanSelf o) = (noD o && noA o && noB o && o.sec == 0 && o.xf == 1 && o.imm == 0) := rfl
@[simp] theorem fieldsOk_tbitsNone (o : WArgs) : fieldsOk (.tbitsNone o) = (noD o && noA o && noB o && o.imm == 0 && o.sec.toNat < 2 && o.xf == 0) := rfl
@[simp] theorem fieldsOk_tbitsSeed (o : WArgs) : fieldsOk (.tbitsSeed o) = (noD o && (o.sec >>> 1) == 1 && o.xf == 0) := rfl
@[simp] theorem fieldsOk_tbitsTile (o : WArgs) : fieldsOk (.tbitsTile o) = (below o.d 8 && noA o && noB o && o.imm == 0 && (o.sec >>> 1) == 2 && o.xf == 0) := rfl
@[simp] theorem fieldsOk_tout (o : WArgs) : fieldsOk (.tout o) = (below o.d 4 && (o.imm >>> 12).toNat ≤ 3 && (o.imm >>> 9 &&& 7).toNat ≤ 5 && (o.imm &&& 3) == 0 && o.sec.toNat < 32 && o.xf == 0) := rfl
@[simp] theorem fieldsOk_sld (o : IArgs) : fieldsOk (.sld o) = (o.sec.toNat ≤ 6 && o.xf == 0) := rfl
@[simp] theorem fieldsOk_sst (o : IArgs) : fieldsOk (.sst o) = (swStore o.sec && o.xf == 0) := rfl
@[simp] theorem fieldsOk_vld (o : IArgs) : fieldsOk (.vld o) = (o.sec.toNat < 8 && kmOnly o.xf && (!o.sec.getLsbD 2 || o.sec == 5 || o.sec == 6)) := rfl
@[simp] theorem fieldsOk_vst (o : IArgs) : fieldsOk (.vst o) = (o.sec.toNat < 4 && kmOnly o.xf) := rfl
@[simp] theorem fieldsOk_vldg (o : WArgs) : fieldsOk (.vldg o) = ((o.imm &&& 0x7F) == 0 && o.sec == 0 && kmOnly o.xf && (!o.imm.getLsbD 7 || (o.imm >>> 8 &&& 3) == 1 || (o.imm >>> 8 &&& 3) == 2)) := rfl
@[simp] theorem fieldsOk_vstg (o : WArgs) : fieldsOk (.vstg o) = ((o.imm &&& 0xFF) == 0 && o.sec == 0 && kmOnly o.xf) := rfl
@[simp] theorem fieldsOk_vatom (o : WArgs) : fieldsOk (.vatom o) = (atom o.imm o.sec true true && o.imm.toNat < 1024 && kmOnly o.xf && ((o.sec &&& 0x0F) == 7 || noB o)) := rfl
@[simp] theorem fieldsOk_satom (o : WArgs) : fieldsOk (.satom o) = (atom o.imm o.sec true false && ((o.sec &&& 0x0F) == 7 || o.imm.toNat < 1024) && o.xf == 0) := rfl
@[simp] theorem fieldsOk_gatom (o : WArgs) : fieldsOk (.gatom o) = (atom o.imm o.sec false true && kmOnly o.xf) := rfl
@[simp] theorem fieldsOk_phase (o : WArgs) : fieldsOk (.phase o) = (noD o && noA o && noB o && noLong o) := rfl
@[simp] theorem fieldsOk_fence (o : WArgs) : fieldsOk (.fence o) = (noD o && noA o && noB o && noLong o) := rfl
@[simp] theorem fieldsOk_waitc (o : IArgs) : fieldsOk (.waitc o) = (below o.d 4 && o.a == 0 && o.imm.toNat ≤ 255 && o.sec == 0 && o.xf == 0) := rfl
@[simp] theorem fieldsOk_mwait (o : WArgs) : fieldsOk (.mwait o) = (o.imm == 0 && (o.sec &&& 0x0F).toNat ≤ 5 && o.sec.toNat < 64 && o.xf == 0) := rfl
@[simp] theorem fieldsOk_pst (o : WArgs) : fieldsOk (.pst o) = (noB o && swStore o.sec && o.xf == 0) := rfl
@[simp] theorem fieldsOk_patom (o : WArgs) : fieldsOk (.patom o) = (noD o && atom o.imm o.sec false false && o.imm.toNat < 1024 && !o.sec.getLsbD 6 && o.xf == 0) := rfl
@[simp] theorem fieldsOk_pref (o : IArgs) : fieldsOk (.pref o) = (o.d == 0 && o.sec == 0 && o.xf == 0) := rfl
@[simp] theorem fieldsOk_cpLd (o : WArgs) : fieldsOk (.cpLd o) = (o.sec == 0 && (o.imm &&& 0x0F).toNat ≤ 3 && (o.xf &&& 7) == 0) := rfl
@[simp] theorem fieldsOk_cpSt (o : WArgs) : fieldsOk (.cpSt o) = (o.sec == 1 && (o.imm &&& 0x0F) == 0 && (o.xf &&& 7) == 0) := rfl
@[simp] theorem fieldsOk_cpx (o : WArgs) : fieldsOk (.cpx o) = (o.sec.toNat < 2 && o.imm.toNat % 4 == 0 && 4 ≤ o.imm.toNat) := rfl
@[simp] theorem fieldsOk_cps (o : WArgs) : fieldsOk (.cps o) = (o.sec == 0 && o.imm.toNat % 4 == 0 && 4 ≤ o.imm.toNat) := rfl
@[simp] theorem fieldsOk_cpred (o : WArgs) : fieldsOk (.cpred o) = (let ty := (o.sec >>> 4).toNat; (o.sec &&& 0x0F).toNat ≤ 2 && ty ≤ 6 && o.imm.toNat % 4 == 0 && 4 ≤ o.imm.toNat && o.imm.toNat % tySize ty == 0) := rfl
@[simp] theorem fieldsOk_cpconv (o : WArgs) : fieldsOk (.cpconv o) = (o.sec.toNat < 2 && (o.xf &&& 7) == 0) := rfl
@[simp] theorem fieldsOk_cpstage (o : WArgs) : fieldsOk (.cpstage o) = (noD o && noA o && noB o && o.imm == 0 && o.sec == 0 && (o.xf &&& 7) == 0) := rfl
@[simp] theorem fieldsOk_chwait (o : WArgs) : fieldsOk (.chwait o) = (noB o && o.imm.toNat ≤ 4095 && o.sec == 0 && o.xf == 0) := rfl
@[simp] theorem fieldsOk_chrel (o : WArgs) : fieldsOk (.chrel o) = (noD o && noB o && o.imm.toNat ≤ 4095 && o.sec == 0 && o.xf == 0) := rfl
@[simp] theorem fieldsOk_rowbar (o : WArgs) : fieldsOk (.rowbar o) = (noD o && noLong o) := rfl
@[simp] theorem fieldsOk_moedisp (o : WArgs) : fieldsOk (.moedisp o) = (o.imm == 0 && o.sec == 0) := rfl
@[simp] theorem fieldsOk_kst (o : WArgs) : fieldsOk (.kst o) = (o.imm == 0 && o.sec == 0 && (o.xf &&& 7) == 0) := rfl
@[simp] theorem fieldsOk_qsig (o : WArgs) : fieldsOk (.qsig o) = (o.imm == 0 && o.sec == 0 && (o.xf &&& 7) == 0) := rfl
@[simp] theorem fieldsOk_bgather (o : WArgs) : fieldsOk (.bgather o) = (o.imm.toNat < 64 && o.sec.toNat < 4 && (o.xf &&& 7) == 0) := rfl
@[simp] theorem fieldsOk_br (o : JArgs) : fieldsOk (.br o) = (true) := rfl
@[simp] theorem fieldsOk_brc (o : IArgs) : fieldsOk (.brc o) = ((o.d &&& 7).toNat ≤ 5 && o.d.toNat < 16 && o.sec == 0 && o.xf == 0) := rfl
@[simp] theorem fieldsOk_brv (o : IArgs) : fieldsOk (.brv o) = (below o.d 8 && o.a == 0 && o.sec == 0 && o.xf == 0) := rfl
@[simp] theorem fieldsOk_join (o : WArgs) : fieldsOk (.join o) = (noD o && noA o && noB o && noLong o) := rfl
@[simp] theorem fieldsOk_loopb (o : IArgs) : fieldsOk (.loopb o) = (o.d == 0 && o.a == 0 && o.sec == 0 && o.xf == 0) := rfl
@[simp] theorem fieldsOk_brk (o : IArgs) : fieldsOk (.brk o) = (below o.d 8 && o.a == 0 && o.imm == 0 && o.sec == 0 && o.xf == 0) := rfl
@[simp] theorem fieldsOk_loope (o : JArgs) : fieldsOk (.loope o) = (true) := rfl
@[simp] theorem fieldsOk_call (o : JArgs) : fieldsOk (.call o) = (true) := rfl
@[simp] theorem fieldsOk_calli (o : WArgs) : fieldsOk (.calli o) = (noD o && noB o && o.imm == 0 && o.sec == 0 && kmOnly o.xf) := rfl
@[simp] theorem fieldsOk_ret (o : WArgs) : fieldsOk (.ret o) = (noD o && noB o && noLong o) := rfl
@[simp] theorem fieldsOk_exit (o : WArgs) : fieldsOk (.exit o) = (noD o && noA o && noB o && noLong o) := rfl
@[simp] theorem fieldsOk_nop (o : WArgs) : fieldsOk (.nop o) = (noD o && noA o && noB o && noLong o) := rfl
@[simp] theorem fieldsOk_brw (o : WArgs) : fieldsOk (.brw o) = (below o.d 16 && o.imm.toNat ≤ 2 && o.sec == 0x00 && o.xf == 0) := rfl
@[simp] theorem fieldsOk_wbind (o : WArgs) : fieldsOk (.wbind o) = (below o.d 16 && noB o && o.sec == 0x01 && o.xf == 0) := rfl
@[simp] theorem fieldsOk_regang (o : WArgs) : fieldsOk (.regang o) = (noD o && noA o && noB o && o.imm == 0 && o.sec == 0x02 && o.xf == 0) := rfl
@[simp] theorem fieldsOk_hand (o : WArgs) : fieldsOk (.hand o) = (noA o && noB o && o.sec == 0x03 && o.xf == 0 && o.imm.toNat < 128 && (o.imm &&& 7) != 0 && (o.imm >>> 3 &&& 7) != 0 && (o.imm &&& 7) != (o.imm >>> 3 &&& 7)) := rfl
@[simp] theorem fieldsOk_bara (o : WArgs) : fieldsOk (.bara o) = (noD o && noA o && noB o && o.imm.toNat < 256 && o.sec == 0x04 && o.xf == 0) := rfl
@[simp] theorem fieldsOk_barw (o : WArgs) : fieldsOk (.barw o) = (noD o && noA o && noB o && o.imm.toNat < 256 && o.sec == 0x05 && o.xf == 0) := rfl
@[simp] theorem fieldsOk_wbar (o : WArgs) : fieldsOk (.wbar o) = (noD o && noA o && noB o && o.imm == 0 && o.sec == 0x06 && o.xf == 0) := rfl
@[simp] theorem fieldsOk_tickw (o : WArgs) : fieldsOk (.tickw o) = (noD o && noB o && o.imm == 0 && o.sec == 0x07 && o.xf == 0) := rfl
@[simp] theorem fieldsOk_setpl (o : WArgs) : fieldsOk (.setpl o) = (noD o && noB o && o.imm == 0 && o.sec == 0x08 && o.xf == 0) := rfl
@[simp] theorem fieldsOk_launch (o : WArgs) : fieldsOk (.launch o) = (noB o && o.imm.toNat < 64 && o.sec == 0x09 && o.xf == 0) := rfl
@[simp] theorem fieldsOk_kand (o : WArgs) : fieldsOk (.kand o) = (below o.d 8 && below o.a 8 && below o.b 8 && !o.fa && !o.fb && o.imm == 0 && o.sec == 0x0A && o.xf == 0) := rfl
@[simp] theorem fieldsOk_kor (o : WArgs) : fieldsOk (.kor o) = (below o.d 8 && below o.a 8 && below o.b 8 && !o.fa && !o.fb && o.imm == 0 && o.sec == 0x0B && o.xf == 0) := rfl
@[simp] theorem fieldsOk_kxor (o : WArgs) : fieldsOk (.kxor o) = (below o.d 8 && below o.a 8 && below o.b 8 && !o.fa && !o.fb && o.imm == 0 && o.sec == 0x0C && o.xf == 0) := rfl
@[simp] theorem fieldsOk_knot (o : WArgs) : fieldsOk (.knot o) = (below o.d 8 && below o.a 8 && !o.fa && noB o && o.imm == 0 && o.sec == 0x0D && o.xf == 0) := rfl
@[simp] theorem fieldsOk_kmov (o : WArgs) : fieldsOk (.kmov o) = (noB o && o.sec == 0x0E && (if o.xf == 0 then below o.d 8 && below o.a 8 && !o.fa && o.imm == 0 else if o.xf == 8 || o.xf == 12 then below o.d 8 && noA o else if o.xf == 2 then below o.d 8 && o.imm == 0 else if o.xf == 1 then below o.a 8 && !o.fa && o.imm == 0 else false)) := rfl
@[simp] theorem fieldsOk_kpop (o : WArgs) : fieldsOk (.kpop o) = (below o.a 8 && !o.fa && noB o && o.imm == 0 && o.sec == 0x0F && o.xf == 0) := rfl
@[simp] theorem fieldsOk_fdiv (o : PArgs) : fieldsOk (.fdiv o) = ((floatT o.t || o.t == .dflt) && rmAny o.rm && o.c == 0 && o.x == 0 && o.sec == 0x10 && kmOnly o.xf) := rfl
@[simp] theorem fieldsOk_vdiv (o : PArgs) : fieldsOk (.vdiv o) = (intT o.t && o.rm == .dyn && o.c == 0 && o.x.toNat < 2 && o.sec == 0x11 && kmOnly o.xf) := rfl
@[simp] theorem fieldsOk_sysr (o : WArgs) : fieldsOk (.sysr o) = (noA o && noB o && sysNumber o.imm.toNat && o.sec == 0x12 && o.xf == 0) := rfl
@[simp] theorem fieldsOk_sysrCtx (o : WArgs) : fieldsOk (.sysrCtx o) = (noA o && ctxNumber o.imm.toNat && o.sec == 0x12 && o.xf == 1) := rfl
@[simp] theorem fieldsOk_sysw (o : WArgs) : fieldsOk (.sysw o) = (noD o && noB o && sysNumber o.imm.toNat && o.sec == 0x13 && o.xf == 0) := rfl
@[simp] theorem fieldsOk_syswCtx (o : WArgs) : fieldsOk (.syswCtx o) = (noD o && ctxNumber o.imm.toNat && o.sec == 0x13 && o.xf == 1) := rfl
@[simp] theorem fieldsOk_tlbinvPage (o : WArgs) : fieldsOk (.tlbinvPage o) = (noD o && o.imm == 0 && o.sec == 0x14 && o.xf == 0) := rfl
@[simp] theorem fieldsOk_tlbinvCtx (o : WArgs) : fieldsOk (.tlbinvCtx o) = (noD o && noB o && o.imm == 1 && o.sec == 0x14 && o.xf == 0) := rfl
@[simp] theorem fieldsOk_tlbinvAll (o : WArgs) : fieldsOk (.tlbinvAll o) = (noD o && noA o && noB o && o.imm == 2 && o.sec == 0x14 && o.xf == 0) := rfl
@[simp] theorem fieldsOk_ecall (o : WArgs) : fieldsOk (.ecall o) = (noD o && noA o && noB o && o.sec == 0x15 && o.xf == 0) := rfl
@[simp] theorem fieldsOk_flushw (o : WArgs) : fieldsOk (.flushw o) = (noD o && noA o && noB o && o.imm == 0 && o.sec == 0x16 && o.xf == 0) := rfl
@[simp] theorem fieldsOk_trap (o : WArgs) : fieldsOk (.trap o) = (noD o && noA o && noB o && o.imm.toNat < 256 && o.sec == 0x17 && o.xf == 0) := rfl
@[simp] theorem fieldsOk_tretNext (o : WArgs) : fieldsOk (.tretNext o) = (noD o && noA o && noB o && o.imm == 0 && o.sec == 0x18 && o.xf == 0) := rfl
@[simp] theorem fieldsOk_tretReplay (o : WArgs) : fieldsOk (.tretReplay o) = (noD o && noA o && noB o && o.imm == 1 && o.sec == 0x18 && o.xf == 0) := rfl
@[simp] theorem fieldsOk_tretReex (o : WArgs) : fieldsOk (.tretReex o) = (noD o && noA o && noB o && o.imm == 2 && o.sec == 0x18 && o.xf == 0) := rfl
@[simp] theorem fieldsOk_laneinfo (o : WArgs) : fieldsOk (.laneinfo o) = (noA o && noB o && o.imm.toNat ≤ 6 && o.sec == 0x19 && o.xf == 0) := rfl
@[simp] theorem fieldsOk_laneinfoV (o : WArgs) : fieldsOk (.laneinfoV o) = (noA o && noB o && o.imm == 16 && o.sec == 0x19 && kmOnly o.xf) := rfl
@[simp] theorem fieldsOk_laneinfoClr (o : WArgs) : fieldsOk (.laneinfoClr o) = (noD o && noB o && o.imm == 32 && o.sec == 0x19 && o.xf == 0) := rfl
@[simp] theorem fieldsOk_vrdn (o : WArgs) : fieldsOk (.vrdn o) = (noB o && o.imm.toNat < 4 && o.sec == 0x1A && (if o.imm.getLsbD 0 then o.xf == 0 else kmOnly o.xf)) := rfl
@[simp] theorem fieldsOk_vwrn (o : WArgs) : fieldsOk (.vwrn o) = (noD o && o.imm.toNat < 4 && o.sec == 0x1B && (if o.imm.getLsbD 0 then o.xf == 0 else kmOnly o.xf)) := rfl
@[simp] theorem fieldsOk_wmark (o : WArgs) : fieldsOk (.wmark o) = (noD o && noA o && noB o && o.imm == 0 && o.sec == 0x1C && o.xf == 0) := rfl
@[simp] theorem fieldsOk_wmarkDrop (o : WArgs) : fieldsOk (.wmarkDrop o) = (noD o && noB o && o.imm == 1 && o.sec == 0x1C && o.xf == 0) := rfl
@[simp] theorem fieldsOk_undo (o : WArgs) : fieldsOk (.undo o) = (o.imm == 0 && o.sec == 0x1D && o.xf == 0) := rfl
@[simp] theorem fieldsOk_undoTeam (o : WArgs) : fieldsOk (.undoTeam o) = (o.imm == 1 && o.sec == 0x1D && o.xf == 0) := rfl
@[simp] theorem fieldsOk_tbegin (o : WArgs) : fieldsOk (.tbegin o) = (noD o && noA o && noB o && o.sec == 0x1E && o.xf == 0) := rfl
@[simp] theorem fieldsOk_tcommit (o : WArgs) : fieldsOk (.tcommit o) = (noD o && noA o && noB o && o.imm == 0 && o.sec == 0x1F && o.xf == 0) := rfl
@[simp] theorem fieldsOk_tabort (o : WArgs) : fieldsOk (.tabort o) = (noD o && noA o && noB o && o.sec == 0x20 && o.xf == 0) := rfl
@[simp] theorem fieldsOk_brkpt (o : WArgs) : fieldsOk (.brkpt o) = (noD o && noA o && noB o && o.imm.toNat < 256 && o.sec == 0x21 && o.xf == 0) := rfl
@[simp] theorem fieldsOk_rgne (o : WArgs) : fieldsOk (.rgne o) = (noD o && noA o && noB o && o.sec == 0x22 && o.xf == 0) := rfl
@[simp] theorem fieldsOk_rgnl (o : WArgs) : fieldsOk (.rgnl o) = (noD o && noA o && noB o && o.imm == 0 && o.sec == 0x23 && o.xf == 0) := rfl

end Sys2Proof.WellFormed

namespace Sys2Proof

@[simp] theorem parts_sadd (o : WArgs) : Decode.parts (.sadd o) = some (0x00, .w o) := rfl
@[simp] theorem parts_ssub (o : WArgs) : Decode.parts (.ssub o) = some (0x01, .w o) := rfl
@[simp] theorem parts_smul (o : WArgs) : Decode.parts (.smul o) = some (0x02, .w o) := rfl
@[simp] theorem parts_smulh (o : WArgs) : Decode.parts (.smulh o) = some (0x03, .w o) := rfl
@[simp] theorem parts_sdiv (o : WArgs) : Decode.parts (.sdiv o) = some (0x04, .w o) := rfl
@[simp] theorem parts_srem (o : WArgs) : Decode.parts (.srem o) = some (0x05, .w o) := rfl
@[simp] theorem parts_sand (o : WArgs) : Decode.parts (.sand o) = some (0x06, .w o) := rfl
@[simp] theorem parts_sor (o : WArgs) : Decode.parts (.sor o) = some (0x07, .w o) := rfl
@[simp] theorem parts_sxor (o : WArgs) : Decode.parts (.sxor o) = some (0x08, .w o) := rfl
@[simp] theorem parts_sshl (o : WArgs) : Decode.parts (.sshl o) = some (0x09, .w o) := rfl
@[simp] theorem parts_sshr (o : WArgs) : Decode.parts (.sshr o) = some (0x0A, .w o) := rfl
@[simp] theorem parts_ssra (o : WArgs) : Decode.parts (.ssra o) = some (0x0B, .w o) := rfl
@[simp] theorem parts_smin (o : WArgs) : Decode.parts (.smin o) = some (0x0C, .w o) := rfl
@[simp] theorem parts_smax (o : WArgs) : Decode.parts (.smax o) = some (0x0D, .w o) := rfl
@[simp] theorem parts_sset (o : WArgs) : Decode.parts (.sset o) = some (0x0E, .w o) := rfl
@[simp] theorem parts_sli (o : IArgs) : Decode.parts (.sli o) = some (0x0F, .i o) := rfl
@[simp] theorem parts_sliIns (o : IArgs) : Decode.parts (.sliIns o) = some (0x0F, .i o) := rfl
@[simp] theorem parts_vadd (o : PArgs) : Decode.parts (.vadd o) = some (0x10, .p o) := rfl
@[simp] theorem parts_vsub (o : PArgs) : Decode.parts (.vsub o) = some (0x11, .p o) := rfl
@[simp] theorem parts_vmul (o : PArgs) : Decode.parts (.vmul o) = some (0x12, .p o) := rfl
@[simp] theorem parts_vmulh (o : PArgs) : Decode.parts (.vmulh o) = some (0x13, .p o) := rfl
@[simp] theorem parts_vmad (o : PArgs) : Decode.parts (.vmad o) = some (0x14, .p o) := rfl
@[simp] theorem parts_vand (o : PArgs) : Decode.parts (.vand o) = some (0x15, .p o) := rfl
@[simp] theorem parts_vor (o : PArgs) : Decode.parts (.vor o) = some (0x16, .p o) := rfl
@[simp] theorem parts_vxor (o : PArgs) : Decode.parts (.vxor o) = some (0x17, .p o) := rfl
@[simp] theorem parts_vshl (o : PArgs) : Decode.parts (.vshl o) = some (0x18, .p o) := rfl
@[simp] theorem parts_vshr (o : PArgs) : Decode.parts (.vshr o) = some (0x19, .p o) := rfl
@[simp] theorem parts_vsra (o : PArgs) : Decode.parts (.vsra o) = some (0x1A, .p o) := rfl
@[simp] theorem parts_vmin (o : PArgs) : Decode.parts (.vmin o) = some (0x1B, .p o) := rfl
@[simp] theorem parts_vmax (o : PArgs) : Decode.parts (.vmax o) = some (0x1C, .p o) := rfl
@[simp] theorem parts_vabs (o : PArgs) : Decode.parts (.vabs o) = some (0x1D, .p o) := rfl
@[simp] theorem parts_vclz (o : PArgs) : Decode.parts (.vclz o) = some (0x1E, .p o) := rfl
@[simp] theorem parts_vpopc (o : PArgs) : Decode.parts (.vpopc o) = some (0x1F, .p o) := rfl
@[simp] theorem parts_vcmp (o : PArgs) : Decode.parts (.vcmp o) = some (0x20, .p o) := rfl
@[simp] theorem parts_vsel (o : PArgs) : Decode.parts (.vsel o) = some (0x21, .p o) := rfl
@[simp] theorem parts_fadd (o : PArgs) : Decode.parts (.fadd o) = some (0x22, .p o) := rfl
@[simp] theorem parts_fsub (o : PArgs) : Decode.parts (.fsub o) = some (0x23, .p o) := rfl
@[simp] theorem parts_fmul (o : PArgs) : Decode.parts (.fmul o) = some (0x24, .p o) := rfl
@[simp] theorem parts_ffma (o : PArgs) : Decode.parts (.ffma o) = some (0x25, .p o) := rfl
@[simp] theorem parts_fmin (o : PArgs) : Decode.parts (.fmin o) = some (0x26, .p o) := rfl
@[simp] theorem parts_fmax (o : PArgs) : Decode.parts (.fmax o) = some (0x27, .p o) := rfl
@[simp] theorem parts_fsgn (o : PArgs) : Decode.parts (.fsgn o) = some (0x28, .p o) := rfl
@[simp] theorem parts_fcmp (o : PArgs) : Decode.parts (.fcmp o) = some (0x29, .p o) := rfl
@[simp] theorem parts_fclass (o : PArgs) : Decode.parts (.fclass o) = some (0x2A, .p o) := rfl
@[simp] theorem parts_fscale (o : PArgs) : Decode.parts (.fscale o) = some (0x2B, .p o) := rfl
@[simp] theorem parts_frint (o : PArgs) : Decode.parts (.frint o) = some (0x2C, .p o) := rfl
@[simp] theorem parts_fcvt (o : PArgs) : Decode.parts (.fcvt o) = some (0x2D, .p o) := rfl
@[simp] theorem parts_fcvti (o : PArgs) : Decode.parts (.fcvti o) = some (0x2E, .p o) := rfl
@[simp] theorem parts_icvtf (o : PArgs) : Decode.parts (.icvtf o) = some (0x2F, .p o) := rfl
@[simp] theorem parts_bfpack (o : PArgs) : Decode.parts (.bfpack o) = some (0x30, .p o) := rfl
@[simp] theorem parts_frcp (o : PArgs) : Decode.parts (.frcp o) = some (0x31, .p o) := rfl
@[simp] theorem parts_frsq (o : PArgs) : Decode.parts (.frsq o) = some (0x32, .p o) := rfl
@[simp] theorem parts_fsqrt (o : PArgs) : Decode.parts (.fsqrt o) = some (0x33, .p o) := rfl
@[simp] theorem parts_fexp2 (o : PArgs) : Decode.parts (.fexp2 o) = some (0x34, .p o) := rfl
@[simp] theorem parts_flog2 (o : PArgs) : Decode.parts (.flog2 o) = some (0x35, .p o) := rfl
@[simp] theorem parts_fsin (o : PArgs) : Decode.parts (.fsin o) = some (0x36, .p o) := rfl
@[simp] theorem parts_fcos (o : PArgs) : Decode.parts (.fcos o) = some (0x37, .p o) := rfl
@[simp] theorem parts_ftanh (o : PArgs) : Decode.parts (.ftanh o) = some (0x38, .p o) := rfl
@[simp] theorem parts_fsigm (o : PArgs) : Decode.parts (.fsigm o) = some (0x39, .p o) := rfl
@[simp] theorem parts_ferf (o : PArgs) : Decode.parts (.ferf o) = some (0x3A, .p o) := rfl
@[simp] theorem parts_vshuf (o : PArgs) : Decode.parts (.vshuf o) = some (0x3B, .p o) := rfl
@[simp] theorem parts_vbcast (o : PArgs) : Decode.parts (.vbcast o) = some (0x3C, .p o) := rfl
@[simp] theorem parts_vred (o : PArgs) : Decode.parts (.vred o) = some (0x3D, .p o) := rfl
@[simp] theorem parts_vscan (o : PArgs) : Decode.parts (.vscan o) = some (0x3E, .p o) := rfl
@[simp] theorem parts_vconf (o : PArgs) : Decode.parts (.vconf o) = some (0x3F, .p o) := rfl
@[simp] theorem parts_vcomb (o : PArgs) : Decode.parts (.vcomb o) = some (0x40, .p o) := rfl
@[simp] theorem parts_vcmprs (o : PArgs) : Decode.parts (.vcmprs o) = some (0x41, .p o) := rfl
@[simp] theorem parts_vexpnd (o : PArgs) : Decode.parts (.vexpnd o) = some (0x42, .p o) := rfl
@[simp] theorem parts_vmov (o : WArgs) : Decode.parts (.vmov o) = some (0x43, .w o) := rfl
@[simp] theorem parts_vmovStream (o : WArgs) : Decode.parts (.vmovStream o) = some (0x43, .w o) := rfl
@[simp] theorem parts_vsplat (o : WArgs) : Decode.parts (.vsplat o) = some (0x44, .w o) := rfl
@[simp] theorem parts_vextr (o : WArgs) : Decode.parts (.vextr o) = some (0x45, .w o) := rfl
@[simp] theorem parts_vlane (o : WArgs) : Decode.parts (.vlane o) = some (0x46, .w o) := rfl
@[simp] theorem parts_xv (o : PArgs) : Decode.parts (.xv o) = some (0x47, .p o) := rfl
@[simp] theorem parts_xpush (o : WArgs) : Decode.parts (.xpush o) = some (0x48, .w o) := rfl
@[simp] theorem parts_xpop (o : WArgs) : Decode.parts (.xpop o) = some (0x49, .w o) := rfl
@[simp] theorem parts_xpeek (o : WArgs) : Decode.parts (.xpeek o) = some (0x4A, .w o) := rfl
@[simp] theorem parts_xdepth (o : WArgs) : Decode.parts (.xdepth o) = some (0x4B, .w o) := rfl
@[simp] theorem parts_xclr (o : WArgs) : Decode.parts (.xclr o) = some (0x4C, .w o) := rfl
@[simp] theorem parts_tcfg (o : WArgs) : Decode.parts (.tcfg o) = some (0x4D, .w o) := rfl
@[simp] theorem parts_tld (o : WArgs) : Decode.parts (.tld o) = some (0x4E, .w o) := rfl
@[simp] theorem parts_tst (o : WArgs) : Decode.parts (.tst o) = some (0x4F, .w o) := rfl
@[simp] theorem parts_tzero (o : WArgs) : Decode.parts (.tzero o) = some (0x50, .w o) := rfl
@[simp] theorem parts_mma (o : WArgs) : Decode.parts (.mma o) = some (0x51, .w o) := rfl
@[simp] theorem parts_mloop (o : WArgs) : Decode.parts (.mloop o) = some (0x52, .w o) := rfl
@[simp] theorem parts_mspan (o : WArgs) : Decode.parts (.mspan o) = some (0x53, .w o) := rfl
@[simp] theorem parts_mspanSelf (o : WArgs) : Decode.parts (.mspanSelf o) = some (0x53, .w o) := rfl
@[simp] theorem parts_tbitsNone (o : WArgs) : Decode.parts (.tbitsNone o) = some (0x54, .w o) := rfl
@[simp] theorem parts_tbitsSeed (o : WArgs) : Decode.parts (.tbitsSeed o) = some (0x54, .w o) := rfl
@[simp] theorem parts_tbitsTile (o : WArgs) : Decode.parts (.tbitsTile o) = some (0x54, .w o) := rfl
@[simp] theorem parts_tout (o : WArgs) : Decode.parts (.tout o) = some (0x55, .w o) := rfl
@[simp] theorem parts_sld (o : IArgs) : Decode.parts (.sld o) = some (0x56, .i o) := rfl
@[simp] theorem parts_sst (o : IArgs) : Decode.parts (.sst o) = some (0x57, .i o) := rfl
@[simp] theorem parts_vld (o : IArgs) : Decode.parts (.vld o) = some (0x58, .i o) := rfl
@[simp] theorem parts_vst (o : IArgs) : Decode.parts (.vst o) = some (0x59, .i o) := rfl
@[simp] theorem parts_vldg (o : WArgs) : Decode.parts (.vldg o) = some (0x5A, .w o) := rfl
@[simp] theorem parts_vstg (o : WArgs) : Decode.parts (.vstg o) = some (0x5B, .w o) := rfl
@[simp] theorem parts_vatom (o : WArgs) : Decode.parts (.vatom o) = some (0x5C, .w o) := rfl
@[simp] theorem parts_satom (o : WArgs) : Decode.parts (.satom o) = some (0x5D, .w o) := rfl
@[simp] theorem parts_gatom (o : WArgs) : Decode.parts (.gatom o) = some (0x5E, .w o) := rfl
@[simp] theorem parts_phase (o : WArgs) : Decode.parts (.phase o) = some (0x5F, .w o) := rfl
@[simp] theorem parts_fence (o : WArgs) : Decode.parts (.fence o) = some (0x60, .w o) := rfl
@[simp] theorem parts_waitc (o : IArgs) : Decode.parts (.waitc o) = some (0x61, .i o) := rfl
@[simp] theorem parts_mwait (o : WArgs) : Decode.parts (.mwait o) = some (0x62, .w o) := rfl
@[simp] theorem parts_pst (o : WArgs) : Decode.parts (.pst o) = some (0x63, .w o) := rfl
@[simp] theorem parts_patom (o : WArgs) : Decode.parts (.patom o) = some (0x64, .w o) := rfl
@[simp] theorem parts_pref (o : IArgs) : Decode.parts (.pref o) = some (0x65, .i o) := rfl
@[simp] theorem parts_cpLd (o : WArgs) : Decode.parts (.cpLd o) = some (0x66, .w o) := rfl
@[simp] theorem parts_cpSt (o : WArgs) : Decode.parts (.cpSt o) = some (0x66, .w o) := rfl
@[simp] theorem parts_cpx (o : WArgs) : Decode.parts (.cpx o) = some (0x67, .w o) := rfl
@[simp] theorem parts_cps (o : WArgs) : Decode.parts (.cps o) = some (0x68, .w o) := rfl
@[simp] theorem parts_cpred (o : WArgs) : Decode.parts (.cpred o) = some (0x69, .w o) := rfl
@[simp] theorem parts_cpconv (o : WArgs) : Decode.parts (.cpconv o) = some (0x6A, .w o) := rfl
@[simp] theorem parts_cpstage (o : WArgs) : Decode.parts (.cpstage o) = some (0x6B, .w o) := rfl
@[simp] theorem parts_chwait (o : WArgs) : Decode.parts (.chwait o) = some (0x6C, .w o) := rfl
@[simp] theorem parts_chrel (o : WArgs) : Decode.parts (.chrel o) = some (0x6D, .w o) := rfl
@[simp] theorem parts_rowbar (o : WArgs) : Decode.parts (.rowbar o) = some (0x6E, .w o) := rfl
@[simp] theorem parts_moedisp (o : WArgs) : Decode.parts (.moedisp o) = some (0x6F, .w o) := rfl
@[simp] theorem parts_kst (o : WArgs) : Decode.parts (.kst o) = some (0x70, .w o) := rfl
@[simp] theorem parts_qsig (o : WArgs) : Decode.parts (.qsig o) = some (0x71, .w o) := rfl
@[simp] theorem parts_bgather (o : WArgs) : Decode.parts (.bgather o) = some (0x72, .w o) := rfl
@[simp] theorem parts_br (o : JArgs) : Decode.parts (.br o) = some (0x73, .j o) := rfl
@[simp] theorem parts_brc (o : IArgs) : Decode.parts (.brc o) = some (0x74, .i o) := rfl
@[simp] theorem parts_brv (o : IArgs) : Decode.parts (.brv o) = some (0x75, .i o) := rfl
@[simp] theorem parts_join (o : WArgs) : Decode.parts (.join o) = some (0x76, .w o) := rfl
@[simp] theorem parts_loopb (o : IArgs) : Decode.parts (.loopb o) = some (0x77, .i o) := rfl
@[simp] theorem parts_brk (o : IArgs) : Decode.parts (.brk o) = some (0x78, .i o) := rfl
@[simp] theorem parts_loope (o : JArgs) : Decode.parts (.loope o) = some (0x79, .j o) := rfl
@[simp] theorem parts_call (o : JArgs) : Decode.parts (.call o) = some (0x7A, .j o) := rfl
@[simp] theorem parts_calli (o : WArgs) : Decode.parts (.calli o) = some (0x7B, .w o) := rfl
@[simp] theorem parts_ret (o : WArgs) : Decode.parts (.ret o) = some (0x7C, .w o) := rfl
@[simp] theorem parts_exit (o : WArgs) : Decode.parts (.exit o) = some (0x7D, .w o) := rfl
@[simp] theorem parts_nop (o : WArgs) : Decode.parts (.nop o) = some (0x7E, .w o) := rfl
@[simp] theorem parts_brw (o : WArgs) : Decode.parts (.brw o) = some (0x7F, .w o) := rfl
@[simp] theorem parts_wbind (o : WArgs) : Decode.parts (.wbind o) = some (0x7F, .w o) := rfl
@[simp] theorem parts_regang (o : WArgs) : Decode.parts (.regang o) = some (0x7F, .w o) := rfl
@[simp] theorem parts_hand (o : WArgs) : Decode.parts (.hand o) = some (0x7F, .w o) := rfl
@[simp] theorem parts_bara (o : WArgs) : Decode.parts (.bara o) = some (0x7F, .w o) := rfl
@[simp] theorem parts_barw (o : WArgs) : Decode.parts (.barw o) = some (0x7F, .w o) := rfl
@[simp] theorem parts_wbar (o : WArgs) : Decode.parts (.wbar o) = some (0x7F, .w o) := rfl
@[simp] theorem parts_tickw (o : WArgs) : Decode.parts (.tickw o) = some (0x7F, .w o) := rfl
@[simp] theorem parts_setpl (o : WArgs) : Decode.parts (.setpl o) = some (0x7F, .w o) := rfl
@[simp] theorem parts_launch (o : WArgs) : Decode.parts (.launch o) = some (0x7F, .w o) := rfl
@[simp] theorem parts_kand (o : WArgs) : Decode.parts (.kand o) = some (0x7F, .w o) := rfl
@[simp] theorem parts_kor (o : WArgs) : Decode.parts (.kor o) = some (0x7F, .w o) := rfl
@[simp] theorem parts_kxor (o : WArgs) : Decode.parts (.kxor o) = some (0x7F, .w o) := rfl
@[simp] theorem parts_knot (o : WArgs) : Decode.parts (.knot o) = some (0x7F, .w o) := rfl
@[simp] theorem parts_kmov (o : WArgs) : Decode.parts (.kmov o) = some (0x7F, .w o) := rfl
@[simp] theorem parts_kpop (o : WArgs) : Decode.parts (.kpop o) = some (0x7F, .w o) := rfl
@[simp] theorem parts_fdiv (o : PArgs) : Decode.parts (.fdiv o) = some (0x7F, .p o) := rfl
@[simp] theorem parts_vdiv (o : PArgs) : Decode.parts (.vdiv o) = some (0x7F, .p o) := rfl
@[simp] theorem parts_sysr (o : WArgs) : Decode.parts (.sysr o) = some (0x7F, .w o) := rfl
@[simp] theorem parts_sysrCtx (o : WArgs) : Decode.parts (.sysrCtx o) = some (0x7F, .w o) := rfl
@[simp] theorem parts_sysw (o : WArgs) : Decode.parts (.sysw o) = some (0x7F, .w o) := rfl
@[simp] theorem parts_syswCtx (o : WArgs) : Decode.parts (.syswCtx o) = some (0x7F, .w o) := rfl
@[simp] theorem parts_tlbinvPage (o : WArgs) : Decode.parts (.tlbinvPage o) = some (0x7F, .w o) := rfl
@[simp] theorem parts_tlbinvCtx (o : WArgs) : Decode.parts (.tlbinvCtx o) = some (0x7F, .w o) := rfl
@[simp] theorem parts_tlbinvAll (o : WArgs) : Decode.parts (.tlbinvAll o) = some (0x7F, .w o) := rfl
@[simp] theorem parts_ecall (o : WArgs) : Decode.parts (.ecall o) = some (0x7F, .w o) := rfl
@[simp] theorem parts_flushw (o : WArgs) : Decode.parts (.flushw o) = some (0x7F, .w o) := rfl
@[simp] theorem parts_trap (o : WArgs) : Decode.parts (.trap o) = some (0x7F, .w o) := rfl
@[simp] theorem parts_tretNext (o : WArgs) : Decode.parts (.tretNext o) = some (0x7F, .w o) := rfl
@[simp] theorem parts_tretReplay (o : WArgs) : Decode.parts (.tretReplay o) = some (0x7F, .w o) := rfl
@[simp] theorem parts_tretReex (o : WArgs) : Decode.parts (.tretReex o) = some (0x7F, .w o) := rfl
@[simp] theorem parts_laneinfo (o : WArgs) : Decode.parts (.laneinfo o) = some (0x7F, .w o) := rfl
@[simp] theorem parts_laneinfoV (o : WArgs) : Decode.parts (.laneinfoV o) = some (0x7F, .w o) := rfl
@[simp] theorem parts_laneinfoClr (o : WArgs) : Decode.parts (.laneinfoClr o) = some (0x7F, .w o) := rfl
@[simp] theorem parts_vrdn (o : WArgs) : Decode.parts (.vrdn o) = some (0x7F, .w o) := rfl
@[simp] theorem parts_vwrn (o : WArgs) : Decode.parts (.vwrn o) = some (0x7F, .w o) := rfl
@[simp] theorem parts_wmark (o : WArgs) : Decode.parts (.wmark o) = some (0x7F, .w o) := rfl
@[simp] theorem parts_wmarkDrop (o : WArgs) : Decode.parts (.wmarkDrop o) = some (0x7F, .w o) := rfl
@[simp] theorem parts_undo (o : WArgs) : Decode.parts (.undo o) = some (0x7F, .w o) := rfl
@[simp] theorem parts_undoTeam (o : WArgs) : Decode.parts (.undoTeam o) = some (0x7F, .w o) := rfl
@[simp] theorem parts_tbegin (o : WArgs) : Decode.parts (.tbegin o) = some (0x7F, .w o) := rfl
@[simp] theorem parts_tcommit (o : WArgs) : Decode.parts (.tcommit o) = some (0x7F, .w o) := rfl
@[simp] theorem parts_tabort (o : WArgs) : Decode.parts (.tabort o) = some (0x7F, .w o) := rfl
@[simp] theorem parts_brkpt (o : WArgs) : Decode.parts (.brkpt o) = some (0x7F, .w o) := rfl
@[simp] theorem parts_rgne (o : WArgs) : Decode.parts (.rgne o) = some (0x7F, .w o) := rfl
@[simp] theorem parts_rgnl (o : WArgs) : Decode.parts (.rgnl o) = some (0x7F, .w o) := rfl

end Sys2Proof

namespace Sys2Proof.Machine

open WellFormed (wideT wideTy convSrc)

@[simp] theorem sources_sadd (o : WArgs) : sources (.sadd o) = (srcScalar o) := rfl
@[simp] theorem sources_ssub (o : WArgs) : sources (.ssub o) = (srcScalar o) := rfl
@[simp] theorem sources_smul (o : WArgs) : sources (.smul o) = (srcScalar o) := rfl
@[simp] theorem sources_smulh (o : WArgs) : sources (.smulh o) = (srcScalar o) := rfl
@[simp] theorem sources_sdiv (o : WArgs) : sources (.sdiv o) = (srcScalar o) := rfl
@[simp] theorem sources_srem (o : WArgs) : sources (.srem o) = (srcScalar o) := rfl
@[simp] theorem sources_sand (o : WArgs) : sources (.sand o) = (srcScalar o) := rfl
@[simp] theorem sources_sor (o : WArgs) : sources (.sor o) = (srcScalar o) := rfl
@[simp] theorem sources_sxor (o : WArgs) : sources (.sxor o) = (srcScalar o) := rfl
@[simp] theorem sources_sshl (o : WArgs) : sources (.sshl o) = (srcScalar o) := rfl
@[simp] theorem sources_sshr (o : WArgs) : sources (.sshr o) = (srcScalar o) := rfl
@[simp] theorem sources_ssra (o : WArgs) : sources (.ssra o) = (srcScalar o) := rfl
@[simp] theorem sources_smin (o : WArgs) : sources (.smin o) = (srcScalar o) := rfl
@[simp] theorem sources_smax (o : WArgs) : sources (.smax o) = (srcScalar o) := rfl
@[simp] theorem sources_sset (o : WArgs) : sources (.sset o) = (srcScalar o) := rfl
@[simp] theorem sources_sli (o : IArgs) : sources (.sli o) = [] := rfl
@[simp] theorem sources_sliIns (o : IArgs) : sources (.sliIns o) = ([.wait (sEach o.a)]) := rfl
@[simp] theorem sources_vadd (o : PArgs) : sources (.vadd o) = (srcAB o (wideT o.t)) := rfl
@[simp] theorem sources_vsub (o : PArgs) : sources (.vsub o) = (srcAB o (wideT o.t)) := rfl
@[simp] theorem sources_vmul (o : PArgs) : sources (.vmul o) = (srcAB o (wideT o.t)) := rfl
@[simp] theorem sources_vmulh (o : PArgs) : sources (.vmulh o) = (srcAB o (wideT o.t)) := rfl
@[simp] theorem sources_vmad (o : PArgs) : sources (.vmad o) = (srcAB o (wideT o.t) ++ [.wait (.v o.c (wideT o.t))]) := rfl
@[simp] theorem sources_vand (o : PArgs) : sources (.vand o) = (srcAB o (wideT o.t)) := rfl
@[simp] theorem sources_vor (o : PArgs) : sources (.vor o) = (srcAB o (wideT o.t)) := rfl
@[simp] theorem sources_vxor (o : PArgs) : sources (.vxor o) = (srcAB o (wideT o.t)) := rfl
@[simp] theorem sources_vshl (o : PArgs) : sources (.vshl o) = (srcAB o (wideT o.t)) := rfl
@[simp] theorem sources_vshr (o : PArgs) : sources (.vshr o) = (srcAB o (wideT o.t)) := rfl
@[simp] theorem sources_vsra (o : PArgs) : sources (.vsra o) = (srcAB o (wideT o.t)) := rfl
@[simp] theorem sources_vmin (o : PArgs) : sources (.vmin o) = (srcAB o (wideT o.t)) := rfl
@[simp] theorem sources_vmax (o : PArgs) : sources (.vmax o) = (srcAB o (wideT o.t)) := rfl
@[simp] theorem sources_vabs (o : PArgs) : sources (.vabs o) = (srcA o) := rfl
@[simp] theorem sources_vclz (o : PArgs) : sources (.vclz o) = (srcA o) := rfl
@[simp] theorem sources_vpopc (o : PArgs) : sources (.vpopc o) = (srcA o) := rfl
@[simp] theorem sources_vcmp (o : PArgs) : sources (.vcmp o) = (srcAB o (wideT o.t)) := rfl
@[simp] theorem sources_vsel (o : PArgs) : sources (.vsel o) = (srcAB o (wideT o.t)) := rfl
@[simp] theorem sources_fadd (o : PArgs) : sources (.fadd o) = (srcAB o (wideT o.t)) := rfl
@[simp] theorem sources_fsub (o : PArgs) : sources (.fsub o) = (srcAB o (wideT o.t)) := rfl
@[simp] theorem sources_fmul (o : PArgs) : sources (.fmul o) = (srcAB o (wideT o.t)) := rfl
@[simp] theorem sources_ffma (o : PArgs) : sources (.ffma o) = (srcAB o (wideT o.t) ++ [.wait (.v o.c (wideT o.t))]) := rfl
@[simp] theorem sources_fmin (o : PArgs) : sources (.fmin o) = (srcAB o (wideT o.t)) := rfl
@[simp] theorem sources_fmax (o : PArgs) : sources (.fmax o) = (srcAB o (wideT o.t)) := rfl
@[simp] theorem sources_fsgn (o : PArgs) : sources (.fsgn o) = (srcAB o (wideT o.t)) := rfl
@[simp] theorem sources_fcmp (o : PArgs) : sources (.fcmp o) = (srcAB o (wideT o.t)) := rfl
@[simp] theorem sources_fclass (o : PArgs) : sources (.fclass o) = (srcA o) := rfl
@[simp] theorem sources_fscale (o : PArgs) : sources (.fscale o) = (srcAB o false) := rfl
@[simp] theorem sources_frint (o : PArgs) : sources (.frint o) = (srcA o) := rfl
@[simp] theorem sources_fcvt (o : PArgs) : sources (.fcvt o) = ([.a (.v o.a (o.sec != 0x10 && wideT (convSrc o))) o.fa]) := rfl
@[simp] theorem sources_fcvti (o : PArgs) : sources (.fcvti o) = ([.a (.v o.a (o.sec != 0x10 && wideT (convSrc o))) o.fa]) := rfl
@[simp] theorem sources_icvtf (o : PArgs) : sources (.icvtf o) = ([.a (.v o.a (o.sec != 0x10 && wideT (convSrc o))) o.fa]) := rfl
@[simp] theorem sources_bfpack (o : PArgs) : sources (.bfpack o) = ([.a (.v o.a false) o.fa, .b (sLow o.b) o.fb]) := rfl
@[simp] theorem sources_frcp (o : PArgs) : sources (.frcp o) = (srcA o) := rfl
@[simp] theorem sources_frsq (o : PArgs) : sources (.frsq o) = (srcA o) := rfl
@[simp] theorem sources_fsqrt (o : PArgs) : sources (.fsqrt o) = (srcA o) := rfl
@[simp] theorem sources_fexp2 (o : PArgs) : sources (.fexp2 o) = (srcA o) := rfl
@[simp] theorem sources_flog2 (o : PArgs) : sources (.flog2 o) = (srcA o) := rfl
@[simp] theorem sources_fsin (o : PArgs) : sources (.fsin o) = (srcA o) := rfl
@[simp] theorem sources_fcos (o : PArgs) : sources (.fcos o) = (srcA o) := rfl
@[simp] theorem sources_ftanh (o : PArgs) : sources (.ftanh o) = (srcA o) := rfl
@[simp] theorem sources_fsigm (o : PArgs) : sources (.fsigm o) = (srcA o) := rfl
@[simp] theorem sources_ferf (o : PArgs) : sources (.ferf o) = (srcA o) := rfl
@[simp] theorem sources_vshuf (o : PArgs) : sources (.vshuf o) = (srcAB o false) := rfl
@[simp] theorem sources_vbcast (o : PArgs) : sources (.vbcast o) = (srcA o ++ [.b (sEach o.b) o.fb]) := rfl
@[simp] theorem sources_vred (o : PArgs) : sources (.vred o) = (srcA o) := rfl
@[simp] theorem sources_vscan (o : PArgs) : sources (.vscan o) = (srcA o) := rfl
@[simp] theorem sources_vconf (o : PArgs) : sources (.vconf o) = (srcA o) := rfl
@[simp] theorem sources_vcomb (o : PArgs) : sources (.vcomb o) = (srcAB o (wideT o.t)) := rfl
@[simp] theorem sources_vcmprs (o : PArgs) : sources (.vcmprs o) = (srcA o) := rfl
@[simp] theorem sources_vexpnd (o : PArgs) : sources (.vexpnd o) = (srcA o) := rfl
@[simp] theorem sources_vmov (o : WArgs) : sources (.vmov o) = ([.a (.v o.a (o.sec == 2)) o.fa]) := rfl
@[simp] theorem sources_vmovStream (o : WArgs) : sources (.vmovStream o) = [] := rfl
@[simp] theorem sources_vsplat (o : WArgs) : sources (.vsplat o) = (if o.ib then [] else [.a (sEach o.a) o.fa]) := rfl
@[simp] theorem sources_vextr (o : WArgs) : sources (.vextr o) = (.a (.v o.a (o.sec == 2)) o.fa :: (if o.ib then [] else [.b (sEach o.b) o.fb])) := rfl
@[simp] theorem sources_vlane (o : WArgs) : sources (.vlane o) = [] := rfl
@[simp] theorem sources_xv (o : PArgs) : sources (.xv o) = ([.a (.v o.a false) o.fa]) := rfl
@[simp] theorem sources_xpush (o : WArgs) : sources (.xpush o) = ([.a (.v o.a false) o.fa]) := rfl
@[simp] theorem sources_xpop (o : WArgs) : sources (.xpop o) = [] := rfl
@[simp] theorem sources_xpeek (o : WArgs) : sources (.xpeek o) = [] := rfl
@[simp] theorem sources_xdepth (o : WArgs) : sources (.xdepth o) = [] := rfl
@[simp] theorem sources_xclr (o : WArgs) : sources (.xclr o) = [] := rfl
@[simp] theorem sources_tcfg (o : WArgs) : sources (.tcfg o) = (if 2 ≤ o.sec.toNat then [lowA o] else []) := rfl
@[simp] theorem sources_tld (o : WArgs) : sources (.tld o) = ([lowA o]) := rfl
@[simp] theorem sources_tst (o : WArgs) : sources (.tst o) = ([lowA o]) := rfl
@[simp] theorem sources_tzero (o : WArgs) : sources (.tzero o) = [] := rfl
@[simp] theorem sources_mma (o : WArgs) : sources (.mma o) = ((if o.fa then [.a (.t o.a.toNat) true] else []) ++ (if o.fb then [.b (.t o.b.toNat) true] else [])) := rfl
@[simp] theorem sources_mloop (o : WArgs) : sources (.mloop o) = ([lowA o, lowB o]) := rfl
@[simp] theorem sources_mspan (o : WArgs) : sources (.mspan o) = [] := rfl
@[simp] theorem sources_mspanSelf (o : WArgs) : sources (.mspanSelf o) = [] := rfl
@[simp] theorem sources_tbitsNone (o : WArgs) : sources (.tbitsNone o) = [] := rfl
@[simp] theorem sources_tbitsSeed (o : WArgs) : sources (.tbitsSeed o) = ([lowA o, lowB o]) := rfl
@[simp] theorem sources_tbitsTile (o : WArgs) : sources (.tbitsTile o) = [] := rfl
@[simp] theorem sources_tout (o : WArgs) : sources (.tout o) = ([lowA o, lowB o]) := rfl
@[simp] theorem sources_sld (o : IArgs) : sources (.sld o) = ([.wait (sEach o.a)]) := rfl
@[simp] theorem sources_sst (o : IArgs) : sources (.sst o) = ([.wait (sEach o.a), .wait (sEach o.d)]) := rfl
@[simp] theorem sources_vld (o : IArgs) : sources (.vld o) = ([.wait (sEach o.a)]) := rfl
@[simp] theorem sources_vst (o : IArgs) : sources (.vst o) = ([.wait (sEach o.a), .wait (.v o.d (o.wd == 3))]) := rfl
@[simp] theorem sources_vldg (o : WArgs) : sources (.vldg o) = (srcIndexed o) := rfl
@[simp] theorem sources_vstg (o : WArgs) : sources (.vstg o) = (srcIndexed o ++ [.wait (.v o.d (o.wd == 3))]) := rfl
@[simp] theorem sources_vatom (o : WArgs) : sources (.vatom o) = ([.a (sEach o.a) o.fa, .wait (.v o.d (wideTy o.imm))] ++ (if o.isCas then [.b (.v o.b (wideTy o.imm)) o.fb] else [])) := rfl
@[simp] theorem sources_satom (o : WArgs) : sources (.satom o) = ([.a (sEach o.a) o.fa, .b (sEach o.b) o.fb] ++ (if o.isCas then [.wait (sEach o.c)] else [])) := rfl
@[simp] theorem sources_gatom (o : WArgs) : sources (.gatom o) = (srcIndexed o ++ [.wait (.v o.d (wideTy o.imm))]) := rfl
@[simp] theorem sources_phase (o : WArgs) : sources (.phase o) = [] := rfl
@[simp] theorem sources_fence (o : WArgs) : sources (.fence o) = [] := rfl
@[simp] theorem sources_waitc (o : IArgs) : sources (.waitc o) = [] := rfl
@[simp] theorem sources_mwait (o : WArgs) : sources (.mwait o) = ([.a (sEach o.a) o.fa, .b (sEach o.b) o.fb]) := rfl
@[simp] theorem sources_pst (o : WArgs) : sources (.pst o) = ([.a (sEach o.a) o.fa, .wait (sEach o.d)]) := rfl
@[simp] theorem sources_patom (o : WArgs) : sources (.patom o) = ([.a (sEach o.a) o.fa, .b (sEach o.b) o.fb]) := rfl
@[simp] theorem sources_pref (o : IArgs) : sources (.pref o) = ([.wait (sEach o.a)]) := rfl
@[simp] theorem sources_cpLd (o : WArgs) : sources (.cpLd o) = ([lowD o, lowA o, lowB o]) := rfl
@[simp] theorem sources_cpSt (o : WArgs) : sources (.cpSt o) = ([lowD o, lowA o, lowB o]) := rfl
@[simp] theorem sources_cpx (o : WArgs) : sources (.cpx o) = ([lowD o, lowA o, .b (.v o.b false) o.fb]) := rfl
@[simp] theorem sources_cps (o : WArgs) : sources (.cps o) = ([lowD o, lowA o, .b (.v o.b false) o.fb]) := rfl
@[simp] theorem sources_cpred (o : WArgs) : sources (.cpred o) = ([lowD o, lowA o, .b (.v o.b false) o.fb]) := rfl
@[simp] theorem sources_cpconv (o : WArgs) : sources (.cpconv o) = ([lowD o, lowA o, lowB o, .wait (sLow (o.imm.extractLsb' 0 6))]) := rfl
@[simp] theorem sources_cpstage (o : WArgs) : sources (.cpstage o) = [] := rfl
@[simp] theorem sources_chwait (o : WArgs) : sources (.chwait o) = ([lowA o]) := rfl
@[simp] theorem sources_chrel (o : WArgs) : sources (.chrel o) = ([lowA o]) := rfl
@[simp] theorem sources_rowbar (o : WArgs) : sources (.rowbar o) = ([lowA o, lowB o]) := rfl
@[simp] theorem sources_moedisp (o : WArgs) : sources (.moedisp o) = ([lowD o, lowA o, .b (.v o.b false) o.fb]) := rfl
@[simp] theorem sources_kst (o : WArgs) : sources (.kst o) = ([lowA o, lowB o, .wait (.v o.d false)]) := rfl
@[simp] theorem sources_qsig (o : WArgs) : sources (.qsig o) = ([lowA o, .b (.v o.b false) o.fb]) := rfl
@[simp] theorem sources_bgather (o : WArgs) : sources (.bgather o) = ([lowA o, .b (.v o.b false) o.fb, .wait (sLow (o.imm.extractLsb' 0 6))]) := rfl
@[simp] theorem sources_br (o : JArgs) : sources (.br o) = [] := rfl
@[simp] theorem sources_brc (o : IArgs) : sources (.brc o) = ([.wait (sEach o.a)]) := rfl
@[simp] theorem sources_brv (o : IArgs) : sources (.brv o) = [] := rfl
@[simp] theorem sources_join (o : WArgs) : sources (.join o) = [] := rfl
@[simp] theorem sources_loopb (o : IArgs) : sources (.loopb o) = [] := rfl
@[simp] theorem sources_brk (o : IArgs) : sources (.brk o) = [] := rfl
@[simp] theorem sources_loope (o : JArgs) : sources (.loope o) = [] := rfl
@[simp] theorem sources_call (o : JArgs) : sources (.call o) = [] := rfl
@[simp] theorem sources_calli (o : WArgs) : sources (.calli o) = ([.a (.v o.a false) o.fa, .wait (sEach 61)]) := rfl
@[simp] theorem sources_ret (o : WArgs) : sources (.ret o) = ([.a (sEach o.a) o.fa]) := rfl
@[simp] theorem sources_exit (o : WArgs) : sources (.exit o) = [] := rfl
@[simp] theorem sources_nop (o : WArgs) : sources (.nop o) = [] := rfl
@[simp] theorem sources_brw (o : WArgs) : sources (.brw o) = [] := rfl
@[simp] theorem sources_wbind (o : WArgs) : sources (.wbind o) = ([.a (sEach o.a) o.fa]) := rfl
@[simp] theorem sources_regang (o : WArgs) : sources (.regang o) = [] := rfl
@[simp] theorem sources_hand (o : WArgs) : sources (.hand o) = [] := rfl
@[simp] theorem sources_bara (o : WArgs) : sources (.bara o) = [] := rfl
@[simp] theorem sources_barw (o : WArgs) : sources (.barw o) = [] := rfl
@[simp] theorem sources_wbar (o : WArgs) : sources (.wbar o) = [] := rfl
@[simp] theorem sources_tickw (o : WArgs) : sources (.tickw o) = ([.a (sEach o.a) o.fa]) := rfl
@[simp] theorem sources_setpl (o : WArgs) : sources (.setpl o) = ([.a (sEach o.a) o.fa]) := rfl
@[simp] theorem sources_launch (o : WArgs) : sources (.launch o) = ([lowA o]) := rfl
@[simp] theorem sources_kand (o : WArgs) : sources (.kand o) = [] := rfl
@[simp] theorem sources_kor (o : WArgs) : sources (.kor o) = [] := rfl
@[simp] theorem sources_kxor (o : WArgs) : sources (.kxor o) = [] := rfl
@[simp] theorem sources_knot (o : WArgs) : sources (.knot o) = [] := rfl
@[simp] theorem sources_kmov (o : WArgs) : sources (.kmov o) = (if o.xf == 2 then [.a (sEach o.a) o.fa] else []) := rfl
@[simp] theorem sources_kpop (o : WArgs) : sources (.kpop o) = [] := rfl
@[simp] theorem sources_fdiv (o : PArgs) : sources (.fdiv o) = [] := rfl
@[simp] theorem sources_vdiv (o : PArgs) : sources (.vdiv o) = [] := rfl
@[simp] theorem sources_sysr (o : WArgs) : sources (.sysr o) = [] := rfl
@[simp] theorem sources_sysrCtx (o : WArgs) : sources (.sysrCtx o) = ([lowB o]) := rfl
@[simp] theorem sources_sysw (o : WArgs) : sources (.sysw o) = ([if o.imm == 3 || o.imm == 4 then .a (sEach o.a) o.fa else lowA o]) := rfl
@[simp] theorem sources_syswCtx (o : WArgs) : sources (.syswCtx o) = ([lowA o, lowB o]) := rfl
@[simp] theorem sources_tlbinvPage (o : WArgs) : sources (.tlbinvPage o) = ([lowA o, lowB o]) := rfl
@[simp] theorem sources_tlbinvCtx (o : WArgs) : sources (.tlbinvCtx o) = ([lowA o]) := rfl
@[simp] theorem sources_tlbinvAll (o : WArgs) : sources (.tlbinvAll o) = [] := rfl
@[simp] theorem sources_ecall (o : WArgs) : sources (.ecall o) = ((List.range 8).map (fun i => .wait (sLow (BitVec.ofNat 6 i)))) := rfl
@[simp] theorem sources_flushw (o : WArgs) : sources (.flushw o) = [] := rfl
@[simp] theorem sources_trap (o : WArgs) : sources (.trap o) = [] := rfl
@[simp] theorem sources_tretNext (o : WArgs) : sources (.tretNext o) = [] := rfl
@[simp] theorem sources_tretReplay (o : WArgs) : sources (.tretReplay o) = [] := rfl
@[simp] theorem sources_tretReex (o : WArgs) : sources (.tretReex o) = [] := rfl
@[simp] theorem sources_laneinfo (o : WArgs) : sources (.laneinfo o) = [] := rfl
@[simp] theorem sources_laneinfoV (o : WArgs) : sources (.laneinfoV o) = [] := rfl
@[simp] theorem sources_laneinfoClr (o : WArgs) : sources (.laneinfoClr o) = ([lowA o]) := rfl
@[simp] theorem sources_vrdn (o : WArgs) : sources (.vrdn o) = ([.a (sEach o.a) o.fa]) := rfl
@[simp] theorem sources_vwrn (o : WArgs) : sources (.vwrn o) = (.a (sEach o.a) o.fa :: (if o.imm.getLsbD 0 then .b (sEach o.b) o.fb :: (if o.imm.getLsbD 1 then [.b (sEach (o.b + 1)) o.fb] else []) else [.b (.v o.b (o.imm.getLsbD 1)) o.fb])) := rfl
@[simp] theorem sources_wmark (o : WArgs) : sources (.wmark o) = [] := rfl
@[simp] theorem sources_wmarkDrop (o : WArgs) : sources (.wmarkDrop o) = ([lowA o]) := rfl
@[simp] theorem sources_undo (o : WArgs) : sources (.undo o) = ([lowA o, lowB o]) := rfl
@[simp] theorem sources_undoTeam (o : WArgs) : sources (.undoTeam o) = ([lowA o, lowB o]) := rfl
@[simp] theorem sources_tbegin (o : WArgs) : sources (.tbegin o) = [] := rfl
@[simp] theorem sources_tcommit (o : WArgs) : sources (.tcommit o) = [] := rfl
@[simp] theorem sources_tabort (o : WArgs) : sources (.tabort o) = [] := rfl
@[simp] theorem sources_brkpt (o : WArgs) : sources (.brkpt o) = [] := rfl
@[simp] theorem sources_rgne (o : WArgs) : sources (.rgne o) = [] := rfl
@[simp] theorem sources_rgnl (o : WArgs) : sources (.rgnl o) = [] := rfl
@[simp] theorem dests_sadd (o : WArgs) : dests (.sadd o) = ([sEach o.d]) := rfl
@[simp] theorem dests_ssub (o : WArgs) : dests (.ssub o) = ([sEach o.d]) := rfl
@[simp] theorem dests_smul (o : WArgs) : dests (.smul o) = ([sEach o.d]) := rfl
@[simp] theorem dests_smulh (o : WArgs) : dests (.smulh o) = ([sEach o.d]) := rfl
@[simp] theorem dests_sdiv (o : WArgs) : dests (.sdiv o) = ([sEach o.d]) := rfl
@[simp] theorem dests_srem (o : WArgs) : dests (.srem o) = ([sEach o.d]) := rfl
@[simp] theorem dests_sand (o : WArgs) : dests (.sand o) = ([sEach o.d]) := rfl
@[simp] theorem dests_sor (o : WArgs) : dests (.sor o) = ([sEach o.d]) := rfl
@[simp] theorem dests_sxor (o : WArgs) : dests (.sxor o) = ([sEach o.d]) := rfl
@[simp] theorem dests_sshl (o : WArgs) : dests (.sshl o) = ([sEach o.d]) := rfl
@[simp] theorem dests_sshr (o : WArgs) : dests (.sshr o) = ([sEach o.d]) := rfl
@[simp] theorem dests_ssra (o : WArgs) : dests (.ssra o) = ([sEach o.d]) := rfl
@[simp] theorem dests_smin (o : WArgs) : dests (.smin o) = ([sEach o.d]) := rfl
@[simp] theorem dests_smax (o : WArgs) : dests (.smax o) = ([sEach o.d]) := rfl
@[simp] theorem dests_sset (o : WArgs) : dests (.sset o) = ([sEach o.d]) := rfl
@[simp] theorem dests_sli (o : IArgs) : dests (.sli o) = ([sEach o.d]) := rfl
@[simp] theorem dests_sliIns (o : IArgs) : dests (.sliIns o) = ([sEach o.d]) := rfl
@[simp] theorem dests_vadd (o : PArgs) : dests (.vadd o) = ([.v o.d (wideT o.t)]) := rfl
@[simp] theorem dests_vsub (o : PArgs) : dests (.vsub o) = ([.v o.d (wideT o.t)]) := rfl
@[simp] theorem dests_vmul (o : PArgs) : dests (.vmul o) = ([.v o.d (wideT o.t)]) := rfl
@[simp] theorem dests_vmulh (o : PArgs) : dests (.vmulh o) = ([.v o.d (wideT o.t)]) := rfl
@[simp] theorem dests_vmad (o : PArgs) : dests (.vmad o) = ([.v o.d (wideT o.t)]) := rfl
@[simp] theorem dests_vand (o : PArgs) : dests (.vand o) = ([.v o.d (wideT o.t)]) := rfl
@[simp] theorem dests_vor (o : PArgs) : dests (.vor o) = ([.v o.d (wideT o.t)]) := rfl
@[simp] theorem dests_vxor (o : PArgs) : dests (.vxor o) = ([.v o.d (wideT o.t)]) := rfl
@[simp] theorem dests_vshl (o : PArgs) : dests (.vshl o) = ([.v o.d (wideT o.t)]) := rfl
@[simp] theorem dests_vshr (o : PArgs) : dests (.vshr o) = ([.v o.d (wideT o.t)]) := rfl
@[simp] theorem dests_vsra (o : PArgs) : dests (.vsra o) = ([.v o.d (wideT o.t)]) := rfl
@[simp] theorem dests_vmin (o : PArgs) : dests (.vmin o) = ([.v o.d (wideT o.t)]) := rfl
@[simp] theorem dests_vmax (o : PArgs) : dests (.vmax o) = ([.v o.d (wideT o.t)]) := rfl
@[simp] theorem dests_vabs (o : PArgs) : dests (.vabs o) = ([.v o.d (wideT o.t)]) := rfl
@[simp] theorem dests_vclz (o : PArgs) : dests (.vclz o) = ([.v o.d (wideT o.t)]) := rfl
@[simp] theorem dests_vpopc (o : PArgs) : dests (.vpopc o) = ([.v o.d (wideT o.t)]) := rfl
@[simp] theorem dests_vcmp (o : PArgs) : dests (.vcmp o) = [] := rfl
@[simp] theorem dests_vsel (o : PArgs) : dests (.vsel o) = ([.v o.d (wideT o.t)]) := rfl
@[simp] theorem dests_fadd (o : PArgs) : dests (.fadd o) = ([.v o.d (wideT o.t)]) := rfl
@[simp] theorem dests_fsub (o : PArgs) : dests (.fsub o) = ([.v o.d (wideT o.t)]) := rfl
@[simp] theorem dests_fmul (o : PArgs) : dests (.fmul o) = ([.v o.d (wideT o.t)]) := rfl
@[simp] theorem dests_ffma (o : PArgs) : dests (.ffma o) = ([.v o.d (wideT o.t)]) := rfl
@[simp] theorem dests_fmin (o : PArgs) : dests (.fmin o) = ([.v o.d (wideT o.t)]) := rfl
@[simp] theorem dests_fmax (o : PArgs) : dests (.fmax o) = ([.v o.d (wideT o.t)]) := rfl
@[simp] theorem dests_fsgn (o : PArgs) : dests (.fsgn o) = ([.v o.d (wideT o.t)]) := rfl
@[simp] theorem dests_fcmp (o : PArgs) : dests (.fcmp o) = [] := rfl
@[simp] theorem dests_fclass (o : PArgs) : dests (.fclass o) = ([.v o.d false]) := rfl
@[simp] theorem dests_fscale (o : PArgs) : dests (.fscale o) = ([.v o.d (wideT o.t)]) := rfl
@[simp] theorem dests_frint (o : PArgs) : dests (.frint o) = ([.v o.d (wideT o.t)]) := rfl
@[simp] theorem dests_fcvt (o : PArgs) : dests (.fcvt o) = ([.v o.d (wideT o.t)]) := rfl
@[simp] theorem dests_fcvti (o : PArgs) : dests (.fcvti o) = ([.v o.d (wideT o.t)]) := rfl
@[simp] theorem dests_icvtf (o : PArgs) : dests (.icvtf o) = ([.v o.d (wideT o.t)]) := rfl
@[simp] theorem dests_bfpack (o : PArgs) : dests (.bfpack o) = ([.v o.d false]) := rfl
@[simp] theorem dests_frcp (o : PArgs) : dests (.frcp o) = ([.v o.d (wideT o.t)]) := rfl
@[simp] theorem dests_frsq (o : PArgs) : dests (.frsq o) = ([.v o.d (wideT o.t)]) := rfl
@[simp] theorem dests_fsqrt (o : PArgs) : dests (.fsqrt o) = ([.v o.d (wideT o.t)]) := rfl
@[simp] theorem dests_fexp2 (o : PArgs) : dests (.fexp2 o) = ([.v o.d (wideT o.t)]) := rfl
@[simp] theorem dests_flog2 (o : PArgs) : dests (.flog2 o) = ([.v o.d (wideT o.t)]) := rfl
@[simp] theorem dests_fsin (o : PArgs) : dests (.fsin o) = ([.v o.d (wideT o.t)]) := rfl
@[simp] theorem dests_fcos (o : PArgs) : dests (.fcos o) = ([.v o.d (wideT o.t)]) := rfl
@[simp] theorem dests_ftanh (o : PArgs) : dests (.ftanh o) = ([.v o.d (wideT o.t)]) := rfl
@[simp] theorem dests_fsigm (o : PArgs) : dests (.fsigm o) = ([.v o.d (wideT o.t)]) := rfl
@[simp] theorem dests_ferf (o : PArgs) : dests (.ferf o) = ([.v o.d (wideT o.t)]) := rfl
@[simp] theorem dests_vshuf (o : PArgs) : dests (.vshuf o) = ([.v o.d (wideT o.t)]) := rfl
@[simp] theorem dests_vbcast (o : PArgs) : dests (.vbcast o) = ([.v o.d (wideT o.t)]) := rfl
@[simp] theorem dests_vred (o : PArgs) : dests (.vred o) = ([.v o.d (wideT o.t)]) := rfl
@[simp] theorem dests_vscan (o : PArgs) : dests (.vscan o) = ([.v o.d (wideT o.t)]) := rfl
@[simp] theorem dests_vconf (o : PArgs) : dests (.vconf o) = ([.v o.d false]) := rfl
@[simp] theorem dests_vcomb (o : PArgs) : dests (.vcomb o) = ([.v o.d (wideT o.t)]) := rfl
@[simp] theorem dests_vcmprs (o : PArgs) : dests (.vcmprs o) = ([.v o.d (wideT o.t)]) := rfl
@[simp] theorem dests_vexpnd (o : PArgs) : dests (.vexpnd o) = ([.v o.d (wideT o.t)]) := rfl
@[simp] theorem dests_vmov (o : WArgs) : dests (.vmov o) = ([.v o.d (o.sec == 2)]) := rfl
@[simp] theorem dests_vmovStream (o : WArgs) : dests (.vmovStream o) = ([.v o.d false]) := rfl
@[simp] theorem dests_vsplat (o : WArgs) : dests (.vsplat o) = ([.v o.d (o.sec.getLsbD 1)]) := rfl
@[simp] theorem dests_vextr (o : WArgs) : dests (.vextr o) = ([sEach o.d]) := rfl
@[simp] theorem dests_vlane (o : WArgs) : dests (.vlane o) = ([.v o.d false]) := rfl
@[simp] theorem dests_xv (o : PArgs) : dests (.xv o) = ([.v o.d false]) := rfl
@[simp] theorem dests_xpush (o : WArgs) : dests (.xpush o) = [] := rfl
@[simp] theorem dests_xpop (o : WArgs) : dests (.xpop o) = ([.v o.d false]) := rfl
@[simp] theorem dests_xpeek (o : WArgs) : dests (.xpeek o) = ([.v o.d false]) := rfl
@[simp] theorem dests_xdepth (o : WArgs) : dests (.xdepth o) = ([.v o.d false]) := rfl
@[simp] theorem dests_xclr (o : WArgs) : dests (.xclr o) = [] := rfl
@[simp] theorem dests_tcfg (o : WArgs) : dests (.tcfg o) = [] := rfl
@[simp] theorem dests_tld (o : WArgs) : dests (.tld o) = [] := rfl
@[simp] theorem dests_tst (o : WArgs) : dests (.tst o) = [] := rfl
@[simp] theorem dests_tzero (o : WArgs) : dests (.tzero o) = [] := rfl
@[simp] theorem dests_mma (o : WArgs) : dests (.mma o) = [] := rfl
@[simp] theorem dests_mloop (o : WArgs) : dests (.mloop o) = [] := rfl
@[simp] theorem dests_mspan (o : WArgs) : dests (.mspan o) = [] := rfl
@[simp] theorem dests_mspanSelf (o : WArgs) : dests (.mspanSelf o) = [] := rfl
@[simp] theorem dests_tbitsNone (o : WArgs) : dests (.tbitsNone o) = [] := rfl
@[simp] theorem dests_tbitsSeed (o : WArgs) : dests (.tbitsSeed o) = [] := rfl
@[simp] theorem dests_tbitsTile (o : WArgs) : dests (.tbitsTile o) = [] := rfl
@[simp] theorem dests_tout (o : WArgs) : dests (.tout o) = [] := rfl
@[simp] theorem dests_sld (o : IArgs) : dests (.sld o) = ([sEach o.d]) := rfl
@[simp] theorem dests_sst (o : IArgs) : dests (.sst o) = [] := rfl
@[simp] theorem dests_vld (o : IArgs) : dests (.vld o) = ([.v o.d (o.wd == 3)]) := rfl
@[simp] theorem dests_vst (o : IArgs) : dests (.vst o) = [] := rfl
@[simp] theorem dests_vldg (o : WArgs) : dests (.vldg o) = ([.v o.d (o.wd == 3)]) := rfl
@[simp] theorem dests_vstg (o : WArgs) : dests (.vstg o) = [] := rfl
@[simp] theorem dests_vatom (o : WArgs) : dests (.vatom o) = [] := rfl
@[simp] theorem dests_satom (o : WArgs) : dests (.satom o) = ([sEach o.d]) := rfl
@[simp] theorem dests_gatom (o : WArgs) : dests (.gatom o) = [] := rfl
@[simp] theorem dests_phase (o : WArgs) : dests (.phase o) = [] := rfl
@[simp] theorem dests_fence (o : WArgs) : dests (.fence o) = [] := rfl
@[simp] theorem dests_waitc (o : IArgs) : dests (.waitc o) = [] := rfl
@[simp] theorem dests_mwait (o : WArgs) : dests (.mwait o) = ([sEach o.d]) := rfl
@[simp] theorem dests_pst (o : WArgs) : dests (.pst o) = [] := rfl
@[simp] theorem dests_patom (o : WArgs) : dests (.patom o) = [] := rfl
@[simp] theorem dests_pref (o : IArgs) : dests (.pref o) = [] := rfl
@[simp] theorem dests_cpLd (o : WArgs) : dests (.cpLd o) = [] := rfl
@[simp] theorem dests_cpSt (o : WArgs) : dests (.cpSt o) = [] := rfl
@[simp] theorem dests_cpx (o : WArgs) : dests (.cpx o) = [] := rfl
@[simp] theorem dests_cps (o : WArgs) : dests (.cps o) = [] := rfl
@[simp] theorem dests_cpred (o : WArgs) : dests (.cpred o) = [] := rfl
@[simp] theorem dests_cpconv (o : WArgs) : dests (.cpconv o) = [] := rfl
@[simp] theorem dests_cpstage (o : WArgs) : dests (.cpstage o) = [] := rfl
@[simp] theorem dests_chwait (o : WArgs) : dests (.chwait o) = ([sEach o.d]) := rfl
@[simp] theorem dests_chrel (o : WArgs) : dests (.chrel o) = [] := rfl
@[simp] theorem dests_rowbar (o : WArgs) : dests (.rowbar o) = [] := rfl
@[simp] theorem dests_moedisp (o : WArgs) : dests (.moedisp o) = [] := rfl
@[simp] theorem dests_kst (o : WArgs) : dests (.kst o) = [] := rfl
@[simp] theorem dests_qsig (o : WArgs) : dests (.qsig o) = ([.v o.d false]) := rfl
@[simp] theorem dests_bgather (o : WArgs) : dests (.bgather o) = ([sEach o.d]) := rfl
@[simp] theorem dests_br (o : JArgs) : dests (.br o) = [] := rfl
@[simp] theorem dests_brc (o : IArgs) : dests (.brc o) = [] := rfl
@[simp] theorem dests_brv (o : IArgs) : dests (.brv o) = [] := rfl
@[simp] theorem dests_join (o : WArgs) : dests (.join o) = [] := rfl
@[simp] theorem dests_loopb (o : IArgs) : dests (.loopb o) = [] := rfl
@[simp] theorem dests_brk (o : IArgs) : dests (.brk o) = [] := rfl
@[simp] theorem dests_loope (o : JArgs) : dests (.loope o) = [] := rfl
@[simp] theorem dests_call (o : JArgs) : dests (.call o) = ([sEach 60]) := rfl
@[simp] theorem dests_calli (o : WArgs) : dests (.calli o) = ([sEach 60]) := rfl
@[simp] theorem dests_ret (o : WArgs) : dests (.ret o) = [] := rfl
@[simp] theorem dests_exit (o : WArgs) : dests (.exit o) = [] := rfl
@[simp] theorem dests_nop (o : WArgs) : dests (.nop o) = [] := rfl
@[simp] theorem dests_brw (o : WArgs) : dests (.brw o) = [] := rfl
@[simp] theorem dests_wbind (o : WArgs) : dests (.wbind o) = [] := rfl
@[simp] theorem dests_regang (o : WArgs) : dests (.regang o) = [] := rfl
@[simp] theorem dests_hand (o : WArgs) : dests (.hand o) = [] := rfl
@[simp] theorem dests_bara (o : WArgs) : dests (.bara o) = [] := rfl
@[simp] theorem dests_barw (o : WArgs) : dests (.barw o) = [] := rfl
@[simp] theorem dests_wbar (o : WArgs) : dests (.wbar o) = [] := rfl
@[simp] theorem dests_tickw (o : WArgs) : dests (.tickw o) = [] := rfl
@[simp] theorem dests_setpl (o : WArgs) : dests (.setpl o) = [] := rfl
@[simp] theorem dests_launch (o : WArgs) : dests (.launch o) = ([sEach o.d]) := rfl
@[simp] theorem dests_kand (o : WArgs) : dests (.kand o) = [] := rfl
@[simp] theorem dests_kor (o : WArgs) : dests (.kor o) = [] := rfl
@[simp] theorem dests_kxor (o : WArgs) : dests (.kxor o) = [] := rfl
@[simp] theorem dests_knot (o : WArgs) : dests (.knot o) = [] := rfl
@[simp] theorem dests_kmov (o : WArgs) : dests (.kmov o) = (if o.xf == 1 then [sEach o.d] else []) := rfl
@[simp] theorem dests_kpop (o : WArgs) : dests (.kpop o) = ([sEach o.d]) := rfl
@[simp] theorem dests_fdiv (o : PArgs) : dests (.fdiv o) = [] := rfl
@[simp] theorem dests_vdiv (o : PArgs) : dests (.vdiv o) = [] := rfl
@[simp] theorem dests_sysr (o : WArgs) : dests (.sysr o) = ([sEach o.d]) := rfl
@[simp] theorem dests_sysrCtx (o : WArgs) : dests (.sysrCtx o) = ([sEach o.d]) := rfl
@[simp] theorem dests_sysw (o : WArgs) : dests (.sysw o) = [] := rfl
@[simp] theorem dests_syswCtx (o : WArgs) : dests (.syswCtx o) = [] := rfl
@[simp] theorem dests_tlbinvPage (o : WArgs) : dests (.tlbinvPage o) = [] := rfl
@[simp] theorem dests_tlbinvCtx (o : WArgs) : dests (.tlbinvCtx o) = [] := rfl
@[simp] theorem dests_tlbinvAll (o : WArgs) : dests (.tlbinvAll o) = [] := rfl
@[simp] theorem dests_ecall (o : WArgs) : dests (.ecall o) = ([sEach 0, sEach 1]) := rfl
@[simp] theorem dests_flushw (o : WArgs) : dests (.flushw o) = [] := rfl
@[simp] theorem dests_trap (o : WArgs) : dests (.trap o) = [] := rfl
@[simp] theorem dests_tretNext (o : WArgs) : dests (.tretNext o) = [] := rfl
@[simp] theorem dests_tretReplay (o : WArgs) : dests (.tretReplay o) = [] := rfl
@[simp] theorem dests_tretReex (o : WArgs) : dests (.tretReex o) = [] := rfl
@[simp] theorem dests_laneinfo (o : WArgs) : dests (.laneinfo o) = ([sEach o.d]) := rfl
@[simp] theorem dests_laneinfoV (o : WArgs) : dests (.laneinfoV o) = ([.v o.d false]) := rfl
@[simp] theorem dests_laneinfoClr (o : WArgs) : dests (.laneinfoClr o) = [] := rfl
@[simp] theorem dests_vrdn (o : WArgs) : dests (.vrdn o) = (if o.imm.getLsbD 0 then sEach o.d :: (if o.imm.getLsbD 1 then [sEach (o.d + 1)] else []) else [.v o.d (o.imm.getLsbD 1)]) := rfl
@[simp] theorem dests_vwrn (o : WArgs) : dests (.vwrn o) = [] := rfl
@[simp] theorem dests_wmark (o : WArgs) : dests (.wmark o) = [] := rfl
@[simp] theorem dests_wmarkDrop (o : WArgs) : dests (.wmarkDrop o) = [] := rfl
@[simp] theorem dests_undo (o : WArgs) : dests (.undo o) = ([sEach o.d]) := rfl
@[simp] theorem dests_undoTeam (o : WArgs) : dests (.undoTeam o) = ([sEach o.d]) := rfl
@[simp] theorem dests_tbegin (o : WArgs) : dests (.tbegin o) = [] := rfl
@[simp] theorem dests_tcommit (o : WArgs) : dests (.tcommit o) = [] := rfl
@[simp] theorem dests_tabort (o : WArgs) : dests (.tabort o) = [] := rfl
@[simp] theorem dests_brkpt (o : WArgs) : dests (.brkpt o) = [] := rfl
@[simp] theorem dests_rgne (o : WArgs) : dests (.rgne o) = [] := rfl
@[simp] theorem dests_rgnl (o : WArgs) : dests (.rgnl o) = [] := rfl

end Sys2Proof.Machine
end

