-- ==== Sys2Proof/Tests/Slice0.lean ====
section
/-! SUPPORT. Tests: words of the spec, ill-formed terms, the spec's worked results, and witnesses that the hypotheses of the statements can be met. -/

namespace Sys2Proof.Tests

open Sys2Proof.Machine

/-- Fields at zero. -/
def W : WArgs := { d := 0, a := 0, b := 0, fa := false, fb := false, imm := 0, sec := 0, xf := 0 }
def P : PArgs := { d := 0, a := 0, b := 0, fa := false, fb := false, t := .dflt, rm := .dyn, s := false, c := 0, x := 0, sec := 0, xf := 0 }
def I : IArgs := { d := 0, a := 0, imm := 0, sec := 0, xf := 0 }

/-! ### Words (R40 to R55, and the tables of fields of the chapters): a word of every instruction, with its yalas line -/

/-- The words decode to the instruction. -/
def reads (x : W32 × W32 × Instr) : Bool :=
  match Decode.decode x.1 x.2.1 with | .ok d => d.instr == x.2.2 | .error _ => false

def words_scalar : List (W32 × W32 × Instr) :=
  [(0x00010401, 0x00200008, .sadd { W with d := 2, a := 2, imm := 0x20, xf := 8 }) /- SADD s2, s2, 32 -/,
   (0x0020841E, 0x00000000, .ssub { W with d := 1, a := 2, b := 3, fa := true, fb := true }) /- SSUB s1, s2, s3 with FA and FB -/,
   (0x00408419, 0x00003000, .smul { W with d := 1, a := 2, b := 3, sec := 0x30 }) /- SMUL.U.S s1, s2, s3 -/,
   (0x00608418, 0x00000000, .smulh { W with d := 1, a := 2, b := 3 }) /- SMULH s1, s2, s3 -/,
   (0x00808419, 0x00001000, .sdiv { W with d := 1, a := 2, b := 3, sec := 0x10 }) /- SDIV.U s1, s2, s3 -/,
   (0x00BF8418, 0x00000000, .srem { W with d := 63, a := 2, b := 3 }) /- SREM s63, s2, s3 -/,
   (0x00C08401, 0xFFFF0008, .sand { W with d := 1, a := 2, imm := 0xffff, xf := 8 }) /- SAND s1, s2, -1 -/,
   (0x00E08418, 0x00000000, .sor { W with d := 1, a := 2, b := 3 }) /- SOR s1, s2, s3 -/,
   (0x01008418, 0x00000000, .sxor { W with d := 1, a := 2, b := 3 }) /- SXOR s1, s2, s3 -/,
   (0x01208418, 0x00000000, .sshl { W with d := 1, a := 2, b := 3 }) /- SSHL s1, s2, s3 -/,
   (0x01408401, 0x00050008, .sshr { W with d := 1, a := 2, imm := 5, xf := 8 }) /- SSHR s1, s2, 5 -/,
   (0x01608418, 0x00000000, .ssra { W with d := 1, a := 2, b := 3 }) /- SSRA s1, s2, s3 -/,
   (0x01808418, 0x00000000, .smin { W with d := 1, a := 2, b := 3 }) /- SMIN s1, s2, s3 -/,
   (0x01A08418, 0x00000000, .smax { W with d := 1, a := 2, b := 3 }) /- SMAX s1, s2, s3 -/,
   (0x01C08419, 0x00001500, .sset { W with d := 1, a := 2, b := 3, sec := 0x15 }) /- SSET.GE.U s1, s2, s3 -/,
   (0x01E20054, 0x00000000, .sli { I with d := 4, imm := 0x2a }) /- SLI s4, 42 -/,
   (0x01FCF001, 0x00030500, .sliIns { I with d := 57, a := 56, imm := 3, sec := 5 }) /- SLI.I1 s57, s56, 3 -/]

theorem test_words_scalar : words_scalar.all reads = true := by decide

def words_vector : List (W32 × W32 × Instr) :=
  [(0x02018630, 0x00000000, .vadd { P with d := 3, a := 3, b := 6 }) /- VADD v3, v3, v6 -/,
   (0x02208419, 0xA1000000, .vsub { P with d := 1, a := 2, b := 3, t := .n8, s := true }) /- VSUB.N8.S v1, v2, v3 -/,
   (0x02408419, 0x00000004, .vmul { P with d := 1, a := 2, b := 3, xf := 4 }) /- VMUL v1, v2, v3, k4 -/,
   (0x02608418, 0x00000000, .vmulh { P with d := 1, a := 2, b := 3 }) /- VMULH v1, v2, v3 -/,
   (0x02808419, 0x01100000, .vmad { P with d := 1, a := 2, b := 3, s := true, c := 4 }) /- VMAD.S v1, v2, v3, v4 -/,
   (0x02A08418, 0x00000000, .vand { P with d := 1, a := 2, b := 3 }) /- VAND v1, v2, v3 -/,
   (0x02C08418, 0x00000000, .vor { P with d := 1, a := 2, b := 3 }) /- VOR v1, v2, v3 -/,
   (0x02E08418, 0x00000000, .vxor { P with d := 1, a := 2, b := 3 }) /- VXOR v1, v2, v3 -/,
   (0x03008418, 0x00000000, .vshl { P with d := 1, a := 2, b := 3 }) /- VSHL v1, v2, v3 -/,
   (0x03208418, 0x00000000, .vshr { P with d := 1, a := 2, b := 3 }) /- VSHR v1, v2, v3 -/,
   (0x03408418, 0x00000000, .vsra { P with d := 1, a := 2, b := 3 }) /- VSRA v1, v2, v3 -/,
   (0x03608418, 0x00000000, .vmin { P with d := 1, a := 2, b := 3 }) /- VMIN v1, v2, v3 -/,
   (0x03808418, 0x00000000, .vmax { P with d := 1, a := 2, b := 3 }) /- VMAX v1, v2, v3 -/,
   (0x03A08401, 0x70000000, .vabs { P with d := 1, a := 2, t := .i16 }) /- VABS.I16 v1, v2 -/,
   (0x03C08400, 0x00000000, .vclz { P with d := 1, a := 2 }) /- VCLZ v1, v2 -/,
   (0x03E20401, 0xC0000000, .vpopc { P with d := 4, a := 2, t := .n64 }) /- VPOPC.N64 v4, v2 -/,
   (0x04038419, 0x00000500, .vcmp { P with d := 7, a := 2, b := 3, sec := 5 }) /- VCMP.GE k7, v2, v3 -/,
   (0x04208419, 0x00000500, .vsel { P with d := 1, a := 2, b := 3, sec := 5 }) /- VSEL v1, v2, v3, k5 -/]

theorem test_words_vector : words_vector.all reads = true := by decide

def words_float : List (W32 × W32 × Instr) :=
  [(0x04410408, 0x00000000, .fadd { P with d := 2, a := 2, b := 1 }) /- FADD v2, v2, v1 -/,
   (0x04608419, 0x24000000, .fsub { P with d := 1, a := 2, b := 3, t := .f16, rm := .rtz }) /- FSUB.F16.RTZ v1, v2, v3 -/,
   (0x04808210, 0x00000000, .fmul { P with d := 1, a := 1, b := 2 }) /- FMUL v1, v1, v2 -/,
   (0x04A59641, 0x00240000, .ffma { P with d := 11, a := 11, b := 8, c := 9 }) /- FFMA v11, v11, v8, v9 -/,
   (0x04C08419, 0x30000000, .fmin { P with d := 1, a := 2, b := 3, t := .bf16 }) /- FMIN.BF16 v1, v2, v3 -/,
   (0x04E08418, 0x00000000, .fmax { P with d := 1, a := 2, b := 3 }) /- FMAX v1, v2, v3 -/,
   (0x05008419, 0x00000200, .fsgn { P with d := 1, a := 2, b := 3, sec := 2 }) /- FSGN v1, v2, v3 (SEC 2) -/,
   (0x05208229, 0x00000300, .fcmp { P with d := 1, a := 1, b := 5, sec := 3 }) /- FCMP.LE k1, v1, v5 -/,
   (0x05408400, 0x00000000, .fclass { P with d := 1, a := 2 }) /- FCLASS v1, v2 -/,
   (0x05608418, 0x00000000, .fscale { P with d := 1, a := 2, b := 3 }) /- FSCALE v1, v2, v3 -/,
   (0x05808401, 0x06000000, .frint { P with d := 1, a := 2, rm := .rup }) /- FRINT.RUP v1, v2 -/,
   (0x05A08401, 0x2C000100, .fcvt { P with d := 1, a := 2, t := .f16, rm := .sr, sec := 1 }) /- FCVT.F16.F32.SR v1, v2 -/,
   (0x05C08401, 0x90000300, .fcvti { P with d := 1, a := 2, t := .i8, sec := 3 }) /- FCVTI.I8.BF16 v1, v2 -/,
   (0x05E08401, 0x10000800, .icvtf { P with d := 1, a := 2, t := .f32, sec := 8 }) /- ICVTF.F32.N16 v1, v2 -/,
   (0x06008419, 0x10000500, .bfpack { P with d := 1, a := 2, b := 3, t := .f32, sec := 5 }) /- BFPACK.B5.F32 v1, v2, s3 -/,
   (0x06208400, 0x00000000, .frcp { P with d := 1, a := 2 }) /- FRCP v1, v2 -/,
   (0x06408400, 0x00000000, .frsq { P with d := 1, a := 2 }) /- FRSQ v1, v2 -/,
   (0x06608400, 0x00000000, .fsqrt { P with d := 1, a := 2 }) /- FSQRT v1, v2 -/,
   (0x06808400, 0x00000000, .fexp2 { P with d := 1, a := 2 }) /- FEXP2 v1, v2 -/,
   (0x06A08400, 0x00000000, .flog2 { P with d := 1, a := 2 }) /- FLOG2 v1, v2 -/,
   (0x06C08400, 0x00000000, .fsin { P with d := 1, a := 2 }) /- FSIN v1, v2 -/,
   (0x06E08400, 0x00000000, .fcos { P with d := 1, a := 2 }) /- FCOS v1, v2 -/,
   (0x07008400, 0x00000000, .ftanh { P with d := 1, a := 2 }) /- FTANH v1, v2 -/,
   (0x07208400, 0x00000000, .fsigm { P with d := 1, a := 2 }) /- FSIGM v1, v2 -/,
   (0x07408400, 0x00000000, .ferf { P with d := 1, a := 2 }) /- FERF v1, v2 -/]

theorem test_words_float : words_float.all reads = true := by decide

def words_lanes : List (W32 × W32 × Instr) :=
  [(0x07608418, 0x00000000, .vshuf { P with d := 1, a := 2, b := 3 }) /- VSHUF v1, v2, v3 -/,
   (0x07808418, 0x00000000, .vbcast { P with d := 1, a := 2, b := 3 }) /- VBCAST v1, v2, s3 -/,
   (0x07A48201, 0x12000000, .vred { P with d := 9, a := 1, t := .f32, rm := .rne }) /- VRED.ADD.F32.RNE v9, v1 -/,
   (0x07C08401, 0x50001200, .vscan { P with d := 1, a := 2, t := .i32, sec := 0x12 }) /- VSCAN.MAX.EX v1, v2 -/,
   (0x07E18200, 0x00000000, .vconf { P with d := 3, a := 1 }) /- VCONF v3, v1 -/,
   (0x08020211, 0x10000000, .vcomb { P with d := 4, a := 1, b := 2, t := .f32 }) /- VCOMB.ADD.F32 v4, v1, v2 -/,
   (0x08208401, 0x00000003, .vcmprs { P with d := 1, a := 2, xf := 3 }) /- VCMPRS v1, v2, k3 -/,
   (0x08408401, 0x00000003, .vexpnd { P with d := 1, a := 2, xf := 3 }) /- VEXPND v1, v2, k3 -/,
   (0x08608400, 0x00000000, .vmov { W with d := 1, a := 2 }) /- VMOV v1, v2 -/,
   (0x08608001, 0x00000100, .vmovStream { W with d := 1, sec := 1 }) /- VMOV v1, w0 -/,
   (0x08810001, 0x40400108, .vsplat { W with d := 2, imm := 0x4040, sec := 1, xf := 8 }) /- VSPLAT v2, 3.0 -/,
   (0x08A08401, 0x001F0008, .vextr { W with d := 1, a := 2, imm := 0x1f, xf := 8 }) /- VEXTR s1, v2, 31 -/,
   (0x08C08000, 0x00000000, .vlane { W with d := 1 }) /- VLANE v1 -/,
   (0x08E01001, 0x00000001, .xv { P with a := 8, xf := 1 }) /- XV v0, v8, k1 -/,
   (0x09000400, 0x00000000, .xpush { W with a := 2 }) /- XPUSH v2 -/,
   (0x09208000, 0x00000000, .xpop { W with d := 1 }) /- XPOP v1 -/,
   (0x09408038, 0x00000000, .xpeek { W with d := 1, b := 7 }) /- XPEEK v1, 7 -/,
   (0x09608000, 0x00000000, .xdepth { W with d := 1 }) /- XDEPTH v1 -/,
   (0x09800000, 0x00000000, .xclr W) /- XCLR -/]

theorem test_words_lanes : words_lanes.all reads = true := by decide

def words_matrix : List (W32 × W32 × Instr) :=
  [(0x09A00001, 0x80800000, .tcfg { W with imm := 0x8080 }) /- TCFG t0, bf16, 64, 32 -/,
   (0x09C08401, 0xFFC00000, .tld { W with d := 1, a := 2, imm := 0xffc0 }) /- TLD t1, (s2-64) -/,
   (0x09E38401, 0x00400000, .tst { W with d := 7, a := 2, imm := 0x40 }) /- TST t7, (s2+64) -/,
   (0x0A018000, 0x00000000, .tzero { W with d := 3 }) /- TZERO a3 -/,
   (0x0A208419, 0x00000000, .mma { W with d := 1, a := 2, b := 3 }) /- MMA a1, t2, t3 -/,
   (0x0A400211, 0x40200301, .mloop { W with a := 1, b := 2, imm := 0x4020, sec := 3, xf := 1 }) /- MLOOP a0, t0, t1, (s1)+4096, (s2)+2048, 4 -/,
   (0x0A600001, 0x2C030000, .mspan { W with imm := 0x2c03 }) /- MSPAN 2, 4, 3 -/,
   (0x0A600001, 0x00000001, .mspanSelf { W with xf := 1 }) /- MSPAN SELF -/,
   (0x0A800001, 0x00000100, .tbitsNone { W with sec := 1 }) /- TBITS.B.NONE -/,
   (0x0A800211, 0x80000200, .tbitsSeed { W with a := 1, b := 2, imm := 0x8000, sec := 2 }) /- TBITS.A.SEED s1, s2, 0x8000 -/,
   (0x0A828001, 0x00000500, .tbitsTile { W with d := 5, sec := 5 }) /- TBITS.B.TILE t5 -/,
   (0x0AA007F9, 0x10FC1F00, .tout { W with a := 3, b := 63, imm := 0x10fc, sec := 0x1f }) /- TOUT.F32 (s3), a0 -/]

theorem test_words_matrix : words_matrix.all reads = true := by decide

def words_memory : List (W32 × W32 × Instr) :=
  [(0x0AC30650, 0x00000000, .sld { I with d := 6, a := 3, imm := 0x28 }) /- SLD s6, (s3+40) -/,
   (0x0AE28C01, 0xFED40400, .sst { I with d := 5, a := 6, imm := 0xfed4, sec := 4 }) /- SST.n16 s5, (s6-300) -/,
   (0x0B008200, 0x00000000, .vld { I with d := 1, a := 1 }) /- VLD v1, (s1) -/,
   (0x0B200280, 0x00000000, .vst { I with a := 1, imm := 0x40 }) /- VST v0, (s1+64) -/,
   (0x0B408419, 0x10000005, .vldg { W with d := 1, a := 2, b := 3, imm := 0x1000, xf := 5 }) /- VLDG v1, (s2), v3, s4, k5 -/,
   (0x0B608419, 0xFC000000, .vstg { W with d := 1, a := 2, b := 3, imm := 0xfc00 }) /- VSTG v1, (s2), v3 -/,
   (0x0B808419, 0x01001700, .vatom { W with d := 1, a := 2, b := 3, imm := 0x100, sec := 0x17 }) /- VATOM.CAS.N32.RET v1, (s2), v3 -/,
   (0x0BA40421, 0x00002000, .satom { W with d := 8, a := 2, b := 4, sec := 0x20 }) /- SATOM.ADD.REL s8, (s2), s4 -/,
   (0x0BC10609, 0x26800001, .gatom { W with d := 2, a := 3, b := 1, imm := 0x2680, xf := 1 }) /- GATOM.ADD.F32 v2, (s3), v1, s9, k1 -/,
   (0x0BE00000, 0x00000000, .phase W) /- PHASE -/,
   (0x0C000000, 0x00000000, .fence W) /- FENCE -/,
   (0x0C208000, 0x00000000, .waitc { I with d := 1 }) /- WAITC MATRIX, 0 -/,
   (0x0C5F8420, 0x00000000, .mwait { W with d := 63, a := 2, b := 4 }) /- MWAIT.EQ (s2), s4 -/,
   (0x0C608401, 0x00040600, .pst { W with d := 1, a := 2, imm := 4, sec := 6 }) /- PST.n8 s1, (s2+4) -/,
   (0x0C800419, 0x00002600, .patom { W with a := 2, b := 3, sec := 0x26 }) /- PATOM.SWAP.N64.REL (s2), s3 -/,
   (0x0CA005FE, 0x00000000, .pref { I with a := 2, imm := -1 }) /- PREF (s2-1) -/]

theorem test_words_memory : words_memory.all reads = true := by decide

def words_sluice : List (W32 × W32 × Instr) :=
  [(0x0CC08419, 0xFFF30000, .cpLd { W with d := 1, a := 2, b := 3, imm := 0xfff3 }) /- CP.LD (s1), s2, s3, 64, 64, FMTX 3 -/,
   (0x0CC08419, 0x00100100, .cpSt { W with d := 1, a := 2, b := 3, imm := 0x10, sec := 1 }) /- CP.ST (s1), s2, s3, 1, 2 -/,
   (0x0CE18409, 0x00100001, .cpx { W with d := 3, a := 2, b := 1, imm := 0x10, xf := 1 }) /- CPX s3, (s2), v1, k1, 16 -/,
   (0x0D008419, 0x00040000, .cps { W with d := 1, a := 2, b := 3, imm := 4 }) /- CPS (s1), s2, v3, 4 -/,
   (0x0D208419, 0x00084200, .cpred { W with d := 1, a := 2, b := 3, imm := 8, sec := 0x42 }) /- CPRED.MAX.F64 (s1), s2, v3, 8 -/,
   (0x0D408419, 0xFFC40100, .cpconv { W with d := 1, a := 2, b := 3, imm := 0xffc4, sec := 1 }) /- CPCONV.SP s1, s2, s3, s4, 1024 -/,
   (0x0D600001, 0x00000000, .cpstage W) /- CPSTAGE -/,
   (0x0D828600, 0x00000000, .chwait { W with d := 5, a := 3 }) /- CHWAIT s5, s3 -/,
   (0x0DA00600, 0x00000000, .chrel { W with a := 3 }) /- CHREL s3 -/,
   (0x0DC00608, 0x00000000, .rowbar { W with a := 3, b := 1 }) /- ROWBAR s3, s1 -/,
   (0x0DE08419, 0x00000004, .moedisp { W with d := 1, a := 2, b := 3, xf := 4 }) /- MOEDISP s1, s2, v3, k4 -/,
   (0x0E008A41, 0x00000000, .kst { W with d := 1, a := 5, b := 8 }) /- KST s5, s8, v1 -/,
   (0x0E208419, 0x00000000, .qsig { W with d := 1, a := 2, b := 3 }) /- QSIG v1, s2, v3 -/,
   (0x0E448A19, 0x00030000, .bgather { W with d := 9, a := 5, b := 3, imm := 3 }) /- BGATHER s9, s5, v3, s3 -/]

theorem test_words_sluice : words_sluice.all reads = true := by decide

def words_control : List (W32 × W32 × Instr) :=
  [(0x0E600004, 0x00000000, .br { off := 2 }) /- BR +2 -/,
   (0x0E8505FE, 0x00000000, .brc { I with d := 10, a := 2, imm := -1 }) /- BRC.LT.U s2, -1 -/,
   (0x0EA08006, 0x00000000, .brv { I with d := 1, imm := 3 }) /- BRV k1, +3 -/,
   (0x0EC00000, 0x00000000, .join W) /- JOIN -/,
   (0x0EE00008, 0x00000000, .loopb { I with imm := 4 }) /- LOOPB +4 -/,
   (0x0F000000, 0x00000000, .brk I) /- BRK k0 -/,
   (0x0F200001, 0xFFFF0000, .loope { off := -1048576 }) /- LOOPE, 2^20 words back -/,
   (0x0F5FFFEC, 0x00000000, .call { off := -10 }) /- CALL -10 -/,
   (0x0F600A00, 0x00000000, .calli { W with a := 5 }) /- CALLI v5 -/,
   (0x0F807800, 0x00000000, .ret { W with a := 60 }) /- RET -/,
   (0x0FA00000, 0x00000000, .exit W) /- EXIT -/,
   (0x0FC00000, 0x00000000, .nop W) /- NOP -/,
   (0x0FE07FF5, 0x00000000, .brw { W with a := 63, b := 62, fa := true }) /- BRW w0, 0, -6 -/,
   (0x0FE00201, 0x00000100, .wbind { W with a := 1, sec := 1 }) /- WBIND w0, (s1) -/,
   (0x0FE00001, 0x00000200, .regang { W with sec := 2 }) /- REGANG -/,
   (0x0FE20001, 0x00110300, .hand { W with d := 4, imm := 0x11, sec := 3 }) /- HAND 1, 2, s4 -/,
   (0x0FE00001, 0x00FF0400, .bara { W with imm := 0xff, sec := 4 }) /- BARA 255 -/,
   (0x0FE00001, 0x00030500, .barw { W with imm := 3, sec := 5 }) /- BARW 3 -/,
   (0x0FE00001, 0x00000600, .wbar { W with sec := 6 }) /- WBAR -/,
   (0x0FE00401, 0x00000700, .tickw { W with a := 2, sec := 7 }) /- TICKW s2 -/,
   (0x0FE00401, 0x00000800, .setpl { W with a := 2, sec := 8 }) /- SETPL s2 -/,
   (0x0FE08401, 0x003F0900, .launch { W with d := 1, a := 2, imm := 0x3f, sec := 9 }) /- LAUNCH s1, s2, 63 -/]

theorem test_words_control : words_control.all reads = true := by decide

def words_masks : List (W32 × W32 × Instr) :=
  [(0x0FE08419, 0x00000A00, .kand { W with d := 1, a := 2, b := 3, sec := 0xa }) /- KAND k1, k2, k3 -/,
   (0x0FE08419, 0x00000B00, .kor { W with d := 1, a := 2, b := 3, sec := 0xb }) /- KOR k1, k2, k3 -/,
   (0x0FE08419, 0x00000C00, .kxor { W with d := 1, a := 2, b := 3, sec := 0xc }) /- KXOR k1, k2, k3 -/,
   (0x0FE08401, 0x00000D00, .knot { W with d := 1, a := 2, sec := 0xd }) /- KNOT k1, k2 -/,
   (0x0FE08001, 0x000F0E08, .kmov { W with d := 1, imm := 0xf, sec := 0xe, xf := 8 }) /- KMOV k1, 0x000F -/,
   (0x0FE48401, 0x00000F00, .kpop { W with d := 9, a := 2, sec := 0xf }) /- KPOP s9, k2 -/]

theorem test_words_masks : words_masks.all reads = true := by decide

def words_system : List (W32 × W32 × Instr) :=
  [(0x0FE08419, 0x00001000, .fdiv { P with d := 1, a := 2, b := 3, sec := 0x10 }) /- FDIV v1, v2, v3 -/,
   (0x0FE18211, 0x00001101, .vdiv { P with d := 3, a := 1, b := 2, sec := 0x11, xf := 1 }) /- VDIV v3, v1, v2, k1 -/,
   (0x0FE28001, 0x00031200, .sysr { W with d := 5, imm := 3, sec := 0x12 }) /- SYSR s5, FPCTL -/,
   (0x0FE28031, 0x00511201, .sysrCtx { W with d := 5, b := 6, imm := 0x51, sec := 0x12, xf := 1 }) /- SYSR.CTX s5, DELEG, s6 -/,
   (0x0FE00801, 0x00031300, .sysw { W with a := 4, imm := 3, sec := 0x13 }) /- SYSW FPCTL, s4 -/,
   (0x0FE00831, 0x00511301, .syswCtx { W with a := 4, b := 6, imm := 0x51, sec := 0x13, xf := 1 }) /- SYSW.CTX DELEG, s4, s6 -/,
   (0x0FE00211, 0x00001400, .tlbinvPage { W with a := 1, b := 2, sec := 0x14 }) /- TLBINV.PAGE s1, s2 -/,
   (0x0FE00201, 0x00011400, .tlbinvCtx { W with a := 1, imm := 1, sec := 0x14 }) /- TLBINV.CTX s1 -/,
   (0x0FE00001, 0x00021400, .tlbinvAll { W with imm := 2, sec := 0x14 }) /- TLBINV.ALL -/,
   (0x0FE00001, 0x00071500, .ecall { W with imm := 7, sec := 0x15 }) /- ECALL 7 -/,
   (0x0FE00001, 0x00001600, .flushw { W with sec := 0x16 }) /- FLUSHW -/,
   (0x0FE00001, 0x00051700, .trap { W with imm := 5, sec := 0x17 }) /- TRAP 5 -/,
   (0x0FE00001, 0x00001800, .tretNext { W with sec := 0x18 }) /- TRET.NEXT -/,
   (0x0FE00001, 0x00011800, .tretReplay { W with imm := 1, sec := 0x18 }) /- TRET.REPLAY -/,
   (0x0FE00001, 0x00021800, .tretReex { W with imm := 2, sec := 0x18 }) /- TRET.REEX -/,
   (0x0FE28001, 0x00001900, .laneinfo { W with d := 5, sec := 0x19 }) /- LANEINFO s5, 0 -/,
   (0x0FE08001, 0x00101902, .laneinfoV { W with d := 1, imm := 0x10, sec := 0x19, xf := 2 }) /- LANEINFO.V v1, k2 -/,
   (0x0FE00401, 0x00201900, .laneinfoClr { W with a := 2, imm := 0x20, sec := 0x19 }) /- LANEINFO.CLR s2 -/,
   (0x0FE08601, 0x00001A00, .vrdn { W with d := 1, a := 3, sec := 0x1a }) /- VRDN v1, s3 -/,
   (0x0FE075D9, 0x00001B00, .vwrn { W with a := 58, b := 59, sec := 0x1b }) /- VWRN s58, v59 -/,
   (0x0FE00001, 0x00001C00, .wmark { W with sec := 0x1c }) /- WMARK -/,
   (0x0FE00401, 0x00011C00, .wmarkDrop { W with a := 2, imm := 1, sec := 0x1c }) /- WMARK.DROP s2 -/,
   (0x0FE08419, 0x00001D00, .undo { W with d := 1, a := 2, b := 3, sec := 0x1d }) /- UNDO s1, s2, s3 -/,
   (0x0FE08419, 0x00011D00, .undoTeam { W with d := 1, a := 2, b := 3, imm := 1, sec := 0x1d }) /- UNDO.TEAM s1, s2, s3 -/,
   (0x0FE00001, 0x00061E00, .tbegin { W with imm := 6, sec := 0x1e }) /- TBEGIN +6 -/,
   (0x0FE00001, 0x00001F00, .tcommit { W with sec := 0x1f }) /- TCOMMIT -/,
   (0x0FE00001, 0xFFFF2000, .tabort { W with imm := 0xffff, sec := 0x20 }) /- TABORT 65535 -/,
   (0x0FE00001, 0x00FF2100, .brkpt { W with imm := 0xff, sec := 0x21 }) /- BRKPT 255 -/,
   (0x0FE00001, 0x01022200, .rgne { W with imm := 0x102, sec := 0x22 }) /- RGNE 0x0102 -/,
   (0x0FE00001, 0x00002300, .rgnl { W with sec := 0x23 }) /- RGNL -/]

theorem test_words_system : words_system.all reads = true := by decide

/-! ### Ill-formed terms: each is refused by the check named -/

/-- One term for each entry, SEC and XF out of range. -/
def ill_1 : List Instr :=
  [.sadd { W with sec := 0xFF, xf := 0xF }, .ssub { W with sec := 0xFF, xf := 0xF }, .smul { W with sec := 0xFF, xf := 0xF },
   .smulh { W with sec := 0xFF, xf := 0xF }, .sdiv { W with sec := 0xFF, xf := 0xF }, .srem { W with sec := 0xFF, xf := 0xF },
   .sand { W with sec := 0xFF, xf := 0xF }, .sor { W with sec := 0xFF, xf := 0xF }, .sxor { W with sec := 0xFF, xf := 0xF },
   .sshl { W with sec := 0xFF, xf := 0xF }, .sshr { W with sec := 0xFF, xf := 0xF }, .ssra { W with sec := 0xFF, xf := 0xF },
   .smin { W with sec := 0xFF, xf := 0xF }, .smax { W with sec := 0xFF, xf := 0xF }, .sset { W with sec := 0xFF, xf := 0xF },
   .sli { I with sec := 0xFF, xf := 0xF }, .sliIns { I with sec := 0xFF, xf := 0xF }, .vadd { P with sec := 0xFF, xf := 0xF },
   .vsub { P with sec := 0xFF, xf := 0xF }, .vmul { P with sec := 0xFF, xf := 0xF }, .vmulh { P with sec := 0xFF, xf := 0xF },
   .vmad { P with sec := 0xFF, xf := 0xF }, .vand { P with sec := 0xFF, xf := 0xF }, .vor { P with sec := 0xFF, xf := 0xF },
   .vxor { P with sec := 0xFF, xf := 0xF }, .vshl { P with sec := 0xFF, xf := 0xF }, .vshr { P with sec := 0xFF, xf := 0xF },
   .vsra { P with sec := 0xFF, xf := 0xF }, .vmin { P with sec := 0xFF, xf := 0xF }, .vmax { P with sec := 0xFF, xf := 0xF },
   .vabs { P with sec := 0xFF, xf := 0xF }, .vclz { P with sec := 0xFF, xf := 0xF }, .vpopc { P with sec := 0xFF, xf := 0xF },
   .vcmp { P with sec := 0xFF, xf := 0xF }, .vsel { P with sec := 0xFF, xf := 0xF }, .fadd { P with sec := 0xFF, xf := 0xF },
   .fsub { P with sec := 0xFF, xf := 0xF }, .fmul { P with sec := 0xFF, xf := 0xF }, .ffma { P with sec := 0xFF, xf := 0xF },
   .fmin { P with sec := 0xFF, xf := 0xF }]

def ill_2 : List Instr :=
  [.fmax { P with sec := 0xFF, xf := 0xF }, .fsgn { P with sec := 0xFF, xf := 0xF }, .fcmp { P with sec := 0xFF, xf := 0xF },
   .fclass { P with sec := 0xFF, xf := 0xF }, .fscale { P with sec := 0xFF, xf := 0xF }, .frint { P with sec := 0xFF, xf := 0xF },
   .fcvt { P with sec := 0xFF, xf := 0xF }, .fcvti { P with sec := 0xFF, xf := 0xF }, .icvtf { P with sec := 0xFF, xf := 0xF },
   .bfpack { P with sec := 0xFF, xf := 0xF }, .frcp { P with sec := 0xFF, xf := 0xF }, .frsq { P with sec := 0xFF, xf := 0xF },
   .fsqrt { P with sec := 0xFF, xf := 0xF }, .fexp2 { P with sec := 0xFF, xf := 0xF }, .flog2 { P with sec := 0xFF, xf := 0xF },
   .fsin { P with sec := 0xFF, xf := 0xF }, .fcos { P with sec := 0xFF, xf := 0xF }, .ftanh { P with sec := 0xFF, xf := 0xF },
   .fsigm { P with sec := 0xFF, xf := 0xF }, .ferf { P with sec := 0xFF, xf := 0xF }, .vshuf { P with sec := 0xFF, xf := 0xF },
   .vbcast { P with sec := 0xFF, xf := 0xF }, .vred { P with sec := 0xFF, xf := 0xF }, .vscan { P with sec := 0xFF, xf := 0xF },
   .vconf { P with sec := 0xFF, xf := 0xF }, .vcomb { P with sec := 0xFF, xf := 0xF }, .vcmprs { P with sec := 0xFF, xf := 0xF },
   .vexpnd { P with sec := 0xFF, xf := 0xF }, .vmov { W with sec := 0xFF, xf := 0xF }, .vmovStream { W with sec := 0xFF, xf := 0xF },
   .vsplat { W with sec := 0xFF, xf := 0xF }, .vextr { W with sec := 0xFF, xf := 0xF }, .vlane { W with sec := 0xFF, xf := 0xF },
   .xv { P with sec := 0xFF, xf := 0xF }, .xpush { W with sec := 0xFF, xf := 0xF }, .xpop { W with sec := 0xFF, xf := 0xF },
   .xpeek { W with sec := 0xFF, xf := 0xF }, .xdepth { W with sec := 0xFF, xf := 0xF }, .xclr { W with sec := 0xFF, xf := 0xF },
   .tcfg { W with sec := 0xFF, xf := 0xF }]

def ill_3 : List Instr :=
  [.tld { W with sec := 0xFF, xf := 0xF }, .tst { W with sec := 0xFF, xf := 0xF }, .tzero { W with sec := 0xFF, xf := 0xF },
   .mma { W with sec := 0xFF, xf := 0xF }, .mloop { W with sec := 0xFF, xf := 0xF }, .mspan { W with sec := 0xFF, xf := 0xF },
   .mspanSelf { W with sec := 0xFF, xf := 0xF }, .tbitsNone { W with sec := 0xFF, xf := 0xF }, .tbitsSeed { W with sec := 0xFF, xf := 0xF },
   .tbitsTile { W with sec := 0xFF, xf := 0xF }, .tout { W with sec := 0xFF, xf := 0xF }, .sld { I with sec := 0xFF, xf := 0xF },
   .sst { I with sec := 0xFF, xf := 0xF }, .vld { I with sec := 0xFF, xf := 0xF }, .vst { I with sec := 0xFF, xf := 0xF },
   .vldg { W with sec := 0xFF, xf := 0xF }, .vstg { W with sec := 0xFF, xf := 0xF }, .vatom { W with sec := 0xFF, xf := 0xF },
   .satom { W with sec := 0xFF, xf := 0xF }, .gatom { W with sec := 0xFF, xf := 0xF }, .phase { W with sec := 0xFF, xf := 0xF },
   .fence { W with sec := 0xFF, xf := 0xF }, .waitc { I with sec := 0xFF, xf := 0xF }, .mwait { W with sec := 0xFF, xf := 0xF },
   .pst { W with sec := 0xFF, xf := 0xF }, .patom { W with sec := 0xFF, xf := 0xF }, .pref { I with sec := 0xFF, xf := 0xF },
   .cpLd { W with sec := 0xFF, xf := 0xF }, .cpSt { W with sec := 0xFF, xf := 0xF }, .cpx { W with sec := 0xFF, xf := 0xF },
   .cps { W with sec := 0xFF, xf := 0xF }, .cpred { W with sec := 0xFF, xf := 0xF }, .cpconv { W with sec := 0xFF, xf := 0xF },
   .cpstage { W with sec := 0xFF, xf := 0xF }, .chwait { W with sec := 0xFF, xf := 0xF }, .chrel { W with sec := 0xFF, xf := 0xF },
   .rowbar { W with sec := 0xFF, xf := 0xF }, .moedisp { W with sec := 0xFF, xf := 0xF }, .kst { W with sec := 0xFF, xf := 0xF },
   .qsig { W with sec := 0xFF, xf := 0xF }]

def ill_4 : List Instr :=
  [.bgather { W with sec := 0xFF, xf := 0xF }, .brc { I with sec := 0xFF, xf := 0xF }, .brv { I with sec := 0xFF, xf := 0xF },
   .join { W with sec := 0xFF, xf := 0xF }, .loopb { I with sec := 0xFF, xf := 0xF }, .brk { I with sec := 0xFF, xf := 0xF },
   .calli { W with sec := 0xFF, xf := 0xF }, .ret { W with sec := 0xFF, xf := 0xF }, .exit { W with sec := 0xFF, xf := 0xF },
   .nop { W with sec := 0xFF, xf := 0xF }, .brw { W with sec := 0xFF, xf := 0xF }, .wbind { W with sec := 0xFF, xf := 0xF },
   .regang { W with sec := 0xFF, xf := 0xF }, .hand { W with sec := 0xFF, xf := 0xF }, .bara { W with sec := 0xFF, xf := 0xF },
   .barw { W with sec := 0xFF, xf := 0xF }, .wbar { W with sec := 0xFF, xf := 0xF }, .tickw { W with sec := 0xFF, xf := 0xF },
   .setpl { W with sec := 0xFF, xf := 0xF }, .launch { W with sec := 0xFF, xf := 0xF }, .kand { W with sec := 0xFF, xf := 0xF },
   .kor { W with sec := 0xFF, xf := 0xF }, .kxor { W with sec := 0xFF, xf := 0xF }, .knot { W with sec := 0xFF, xf := 0xF },
   .kmov { W with sec := 0xFF, xf := 0xF }, .kpop { W with sec := 0xFF, xf := 0xF }, .fdiv { P with sec := 0xFF, xf := 0xF },
   .vdiv { P with sec := 0xFF, xf := 0xF }, .sysr { W with sec := 0xFF, xf := 0xF }, .sysrCtx { W with sec := 0xFF, xf := 0xF },
   .sysw { W with sec := 0xFF, xf := 0xF }, .syswCtx { W with sec := 0xFF, xf := 0xF }, .tlbinvPage { W with sec := 0xFF, xf := 0xF },
   .tlbinvCtx { W with sec := 0xFF, xf := 0xF }, .tlbinvAll { W with sec := 0xFF, xf := 0xF }, .ecall { W with sec := 0xFF, xf := 0xF },
   .flushw { W with sec := 0xFF, xf := 0xF }, .trap { W with sec := 0xFF, xf := 0xF }, .tretNext { W with sec := 0xFF, xf := 0xF },
   .tretReplay { W with sec := 0xFF, xf := 0xF }]

def ill_5 : List Instr :=
  [.tretReex { W with sec := 0xFF, xf := 0xF }, .laneinfo { W with sec := 0xFF, xf := 0xF }, .laneinfoV { W with sec := 0xFF, xf := 0xF },
   .laneinfoClr { W with sec := 0xFF, xf := 0xF }, .vrdn { W with sec := 0xFF, xf := 0xF }, .vwrn { W with sec := 0xFF, xf := 0xF },
   .wmark { W with sec := 0xFF, xf := 0xF }, .wmarkDrop { W with sec := 0xFF, xf := 0xF }, .undo { W with sec := 0xFF, xf := 0xF },
   .undoTeam { W with sec := 0xFF, xf := 0xF }, .tbegin { W with sec := 0xFF, xf := 0xF }, .tcommit { W with sec := 0xFF, xf := 0xF },
   .tabort { W with sec := 0xFF, xf := 0xF }, .brkpt { W with sec := 0xFF, xf := 0xF }, .rgne { W with sec := 0xFF, xf := 0xF },
   .rgnl { W with sec := 0xFF, xf := 0xF }]

theorem test_ill_entries : ill_1.all (fun i => !WellFormed.fieldsOk i) = true
    ∧ ill_2.all (fun i => !WellFormed.fieldsOk i) = true
    ∧ ill_3.all (fun i => !WellFormed.fieldsOk i) = true
    ∧ ill_4.all (fun i => !WellFormed.fieldsOk i) = true
    ∧ ill_5.all (fun i => !WellFormed.fieldsOk i) = true := by decide

/-- Scalar and vector integers: COND 6, U where there is none, S of a division, an immediate beside sB, IB beside B, XF 1, a float T, S of VMIN, C, X, VCMP 6 and k8, VSEL 8. -/
def ill_scalar : List Instr :=
  [.sset { W with sec := 6 }, .sand { W with sec := 0x10 }, .sdiv { W with sec := 0x20 },
   .sadd { W with imm := 1 }, .sadd { W with b := 1, xf := 8 }, .sadd { W with xf := 1 },
   .sadd { W with sec := 1 }, .sli { I with sec := 4 }, .sli { I with a := 1 },
   .sliIns { I with sec := 3 }, .sliIns { I with sec := 8 }, .vadd { P with t := .f32 },
   .vmin { P with s := true }, .vadd { P with c := 1 }, .vadd { P with x := 1 },
   .vadd { P with xf := 8 }, .vadd { P with rm := .rtz }, .vabs { P with b := 1 },
   .vclz { P with fb := true }, .vcmp { P with sec := 6 }, .vcmp { P with d := 8 },
   .vsel { P with sec := 8 }, .vadd { P with t := .e4m3 }]

theorem test_ill_scalar : ill_scalar.all (fun i => !WellFormed.fieldsOk i) = true := by decide

/-- Floats and conversions: an integer or 8-bit T, SR and a reserved RM, C of FMUL, S of FSGN, FSGN 3, FCMP 8 and k8, FCVT of i32 and to i8, SEC 0x11, FCVTI of i8 and under SR, ICVTF of f32, BFPACK 1 and 9, an SFU f64. -/
def ill_float : List Instr :=
  [.fadd { P with t := .i32 }, .fadd { P with rm := .sr }, .fadd { P with rm := .reserved },
   .fmul { P with c := 1 }, .ffma { P with t := .e5m2 }, .fmin { P with s := true },
   .fsgn { P with s := true }, .fsgn { P with sec := 3 }, .fcmp { P with sec := 8 },
   .fcmp { P with d := 8 }, .fclass { P with b := 1 }, .frint { P with s := true },
   .fcvt { P with t := .f32, sec := 5 }, .fcvt { P with t := .i8, sec := 1 }, .fcvt { P with t := .f32, sec := 0x11 },
   .fcvt { P with t := .f32, sec := 1, rm := .reserved }, .fcvti { P with t := .i8, sec := 9 }, .fcvti { P with t := .i8, sec := 1, rm := .sr },
   .fcvti { P with sec := 1 }, .icvtf { P with t := .f32, sec := 1 }, .icvtf { P with t := .f32 },
   .bfpack { P with t := .f32, sec := 1 }, .bfpack { P with t := .f32, sec := 9 }, .bfpack { P with t := .f64, sec := 4 },
   .frcp { P with t := .f64 }, .ferf { P with b := 1 }, .fdiv { P with t := .i32, sec := 0x10 },
   .vdiv { P with sec := 0x11, x := 2 }]

theorem test_ill_float : ill_float.all (fun i => !WellFormed.fieldsOk i) = true := by decide

/-- Lanes and XV: RM of VSHUF, a float op 3, an integer op 6, S of a minimum, SEC[5], SEC[4] of VRED, VMOV of 16-bit and of w16, VSPLAT.H without IB, VEXTR 1, an i16 XV, XPEEK 8. -/
def ill_lanes : List Instr :=
  [.vshuf { P with rm := .rne }, .vconf { P with b := 1 }, .vred { P with t := .f32, sec := 3 },
   .vred { P with sec := 6 }, .vred { P with s := true, sec := 1 }, .vscan { P with sec := 0x20 },
   .vred { P with sec := 0x10 }, .vred { P with rm := .rne }, .vmov { W with sec := 3 },
   .vmov { W with xf := 8 }, .vmovStream { W with sec := 1, a := 16 }, .vsplat { W with sec := 1 },
   .vsplat { W with sec := 4 }, .vextr { W with sec := 1 }, .vlane { W with imm := 1 },
   .xv { P with t := .i16 }, .xv { P with sec := 1 }, .xpeek { W with b := 8 },
   .xpush { W with d := 1 }, .xclr { W with a := 1 }]

theorem test_ill_lanes : ill_lanes.all (fun i => !WellFormed.fieldsOk i) = true := by decide

/-- Matrix: TCFG with no rows, 65 rows, 65 columns, reserved bits, format 9, too many bytes, an A of bf16; tile 8; accumulator 4; MLOOP with D[2] and XF[3]; MSPAN bits 9:7; SEED and TILE forms; TOUT type 4, RM 6, 33 columns. -/
def ill_matrix : List Instr :=
  [.tcfg { W with imm := 0x0040 }, .tcfg { W with imm := 0x8240 }, .tcfg { W with imm := 0x2104 },
   .tcfg { W with imm := 0x2041 }, .tcfg { W with imm := 0x2040, sec := 9 }, .tcfg { W with imm := 0x8204 },
   .tcfg { W with imm := 0x2040, a := 1 }, .tld { W with d := 8 }, .tzero { W with d := 4 },
   .mma { W with a := 8 }, .mma { W with d := 4 }, .mloop { W with d := 4 },
   .mloop { W with xf := 8 }, .mspan { W with imm := 0x80 }, .mspanSelf { W with xf := 1, imm := 1 },
   .tbitsNone { W with sec := 2 }, .tbitsSeed { W with sec := 4 }, .tbitsTile { W with sec := 4, d := 8 },
   .tout { W with imm := 0x4000 }, .tout { W with imm := 0x0C00 }, .tout { W with sec := 32 },
   .tout { W with imm := 1 }]

theorem test_ill_matrix : ill_matrix.all (fun i => !WellFormed.fieldsOk i) = true := by decide

/-- Memory: SW 7, SW 1 of a store, SX of WD 0 and 3, a bound beside bits of VLDG, an atomic OP 8, TY 7, AND of a float, CAS of a GATOM, RET of a SATOM, WAITC class 4 and 256, MWAIT 6, PST by an SX width, ACQ of PATOM. -/
def ill_memory : List Instr :=
  [.sld { I with sec := 7 }, .sst { I with sec := 1 }, .vld { W with sec := 4 },
   .vld { W with sec := 7 }, .vst { W with sec := 4 }, .vldg { W with imm := 1 },
   .vldg { W with imm := 0x80 }, .vstg { W with imm := 0x80 }, .vatom { W with sec := 8 },
   .vatom { W with imm := 0x380 }, .vatom { W with imm := 0x200, sec := 3 }, .vatom { W with b := 1 },
   .vatom { W with imm := 0x400 }, .satom { W with sec := 0x10 }, .gatom { W with sec := 7 },
   .patom { W with sec := 7 }, .patom { W with sec := 0x40 }, .patom { W with d := 1 },
   .waitc { I with d := 4 }, .waitc { I with imm := 256 }, .mwait { W with sec := 6 },
   .mwait { W with sec := 0x40 }, .pst { W with sec := 3 }, .phase { W with d := 1 },
   .fence { W with imm := 1 }, .pref { W with d := 1 }]

theorem test_ill_memory : ill_memory.all (fun i => !WellFormed.fieldsOk i) = true := by decide

/-- Sluice: FMTX 4, FMTX of a store, XF below ORD, 0 and 6 bytes, 4 bytes of f64, op 3, CPCONV 2, CHWAIT 4,096, BGATHER 64 and SEC 4, MOEDISP and KST with an immediate. -/
def ill_sluice : List Instr :=
  [.cpLd { W with imm := 4 }, .cpSt { W with sec := 1, imm := 1 }, .cpLd { W with xf := 1 },
   .cpx { W with imm := 0 }, .cpx { W with imm := 6 }, .cps { W with imm := 2 },
   .cpred { W with imm := 4, sec := 0x40 }, .cpred { W with imm := 8, sec := 3 }, .cpred { W with imm := 8, sec := 0x70 },
   .cpconv { W with sec := 2 }, .cpstage { W with d := 1 }, .chwait { W with imm := 4096 },
   .chrel { W with imm := 4096 }, .rowbar { W with imm := 1 }, .moedisp { W with imm := 1 },
   .kst { W with sec := 1 }, .qsig { W with xf := 4 }, .bgather { W with imm := 64 },
   .bgather { W with sec := 4 }]

theorem test_ill_sluice : ill_sluice.all (fun i => !WellFormed.fieldsOk i) = true := by decide

/-- Control: BRC 6 and 16, BRV k8, a target of BRK, BRW walk 16 and flag 3, HAND to role 0, from role 0 and to its own role, groups 256, LAUNCH on queue 64. -/
def ill_control : List Instr :=
  [.brc { I with d := 6 }, .brc { I with d := 16 }, .brv { I with d := 8 },
   .brk { I with imm := 1 }, .loopb { I with d := 1 }, .join { W with a := 1 },
   .calli { W with d := 1 }, .ret { W with imm := 1 }, .exit { W with b := 1 },
   .nop { W with xf := 1 }, .brw { W with d := 16 }, .brw { W with imm := 3 },
   .wbind { W with sec := 1, d := 16 }, .regang { W with sec := 2, d := 1 }, .hand { W with sec := 3, imm := 1 },
   .hand { W with sec := 3, imm := 8 }, .hand { W with sec := 3, imm := 9 }, .hand { W with sec := 3, imm := 0x8A },
   .bara { W with sec := 4, imm := 256 }, .barw { W with sec := 5, imm := 256 }, .wbar { W with sec := 6, imm := 1 },
   .tickw { W with sec := 7, d := 1 }, .setpl { W with sec := 8, b := 1 }, .launch { W with sec := 9, imm := 64 }]

theorem test_ill_control : ill_control.all (fun i => !WellFormed.fieldsOk i) = true := by decide

/-- Masks and the system: k8 operands, FA of a mask, IMM and FROMS of KMOV together, HI without IMM, system registers 7 and 0x22, a CTX form of FPCTL, TLBINV kind 3, TRAP 256, LANEINFO 7, 17 and 33, VRDN 4, k1 of a scalar VRDN, WMARK 2, UNDO 2, BRKPT 256. -/
def ill_system : List Instr :=
  [.kand { W with sec := 0x0A, b := 8 }, .kor { W with sec := 0x0B, fa := true }, .knot { W with sec := 0x0D, b := 1 },
   .kmov { W with sec := 0x0E, xf := 10 }, .kmov { W with sec := 0x0E, xf := 4 }, .kmov { W with sec := 0x0E, xf := 3 },
   .kpop { W with sec := 0x0F, fa := true }, .sysr { W with sec := 0x12, imm := 7 }, .sysw { W with sec := 0x13, imm := 0x22 },
   .sysrCtx { W with sec := 0x12, xf := 1, imm := 3 }, .tlbinvAll { W with sec := 0x14, imm := 3 }, .tlbinvCtx { W with sec := 0x14, imm := 1, b := 1 },
   .trap { W with sec := 0x17, imm := 256 }, .tretReex { W with sec := 0x18, imm := 3 }, .laneinfo { W with sec := 0x19, imm := 7 },
   .laneinfoV { W with sec := 0x19, imm := 17 }, .laneinfoClr { W with sec := 0x19, imm := 33 }, .vrdn { W with sec := 0x1A, imm := 4 },
   .vrdn { W with sec := 0x1A, imm := 1, xf := 1 }, .wmarkDrop { W with sec := 0x1C, imm := 2 }, .undoTeam { W with sec := 0x1D, imm := 2 },
   .tbegin { W with sec := 0x1E, d := 1 }, .tabort { W with sec := 0x20, a := 1 }, .brkpt { W with sec := 0x21, imm := 256 },
   .rgnl { W with sec := 0x23, imm := 1 }]

theorem test_ill_system : ill_system.all (fun i => !WellFormed.fieldsOk i) = true := by decide

/-- Odd registers where R19 wants a pair, one term for each group of entries. -/
def odd_pairs : List Instr :=
  [.vadd { P with t := .n64, d := 1 }, .vmad { P with t := .i64, c := 1 }, .fsub { P with t := .f64, b := 1 },
   .vcmp { P with t := .i64, a := 1 }, .fcmp { P with t := .f64, b := 1 }, .fclass { P with t := .f64, a := 1 },
   .vconf { P with t := .n64, a := 1 }, .fscale { P with t := .f64, d := 1 }, .vshuf { P with t := .n64, a := 1 },
   .vred { P with t := .i64, d := 1 }, .vcomb { P with t := .f64, b := 1 }, .fcvt { P with t := .f64, sec := 1, d := 1 },
   .fcvti { P with t := .i8, sec := 4, a := 1 }, .icvtf { P with t := .f32, sec := 11, a := 1 }, .vmov { W with sec := 2, a := 1 },
   .vsplat { W with sec := 2, d := 1 }, .vextr { W with sec := 2, a := 1 }, .vld { W with sec := 3, d := 1 },
   .vst { W with sec := 3, d := 1 }, .vldg { W with imm := 0x300, d := 1 }, .vstg { W with imm := 0x300, d := 1 },
   .vatom { W with b := 1 }, .gatom { W with d := 1 }, .vrdn { W with imm := 2, d := 1 },
   .vwrn { W with imm := 2, b := 1 }, .fdiv { P with t := .f64, a := 1 }, .vdiv { P with t := .i64, d := 1 }]

theorem test_odd_pairs : odd_pairs.all (fun i => !WellFormed.pairsOk i) = true := by decide

/-- The form and the role: short forms of entries that need the long word, fields or hints that a short form cannot carry, and
ROLE 1 of HAND and the barriers. -/
def illDecoded (role : BitVec 3) (xh : BitVec 4) (long : Bool) (i : Instr) : Bool :=
  !Decode.wellFormed { role := role, h := false, xh := xh, long := long, instr := i }
theorem test_ill_forms :
    (∀ i ∈ [Instr.vmad P, .fcvt { P with t := .f32, sec := 1 }, .tcfg { W with imm := 0x2040 }, .tld W, .vldg W, .vatom W, .pst W, .cpLd W, .cps { W with imm := 4 }, .kand { W with sec := 0x0A },
        .tickw { W with sec := 7 }, .sysr { W with sec := 0x12 }, .sliIns { I with sec := 4 }, .sadd { W with xf := 8 }, .vadd { P with t := .n8 }, .sld { I with sec := 1 }],
      illDecoded 0 0 false i = true ∧ illDecoded 0 0 true i = false)
    ∧ illDecoded 0 1 false (.sadd W) = true ∧ illDecoded 0 1 true (.sadd W) = false
    ∧ (∀ i ∈ [Instr.hand { W with sec := 3, imm := 0x11 }, .bara { W with sec := 4 }, .barw { W with sec := 5 }, .wbar { W with sec := 6 }],
      illDecoded 1 0 true i = true ∧ illDecoded 0 0 true i = false)
    ∧ illDecoded 0 0 true (.launchAccept 0) = true := by decide

/-- Words that R52 and R54 refuse: an unassigned major and SEC, bits of a J format's long word, nonzero reserved fields. -/
theorem test_illegal_words :
    ([(0x0E600001, 0x00000100), (0x0FE00001, 0x00002400), (0x0E600005, 0x00000001), (0x00010401, 0x00200009), (0x0E000001, 0x00000100)] : List (W32 × W32)).all
      (fun w => match Decode.decode w.1 w.2 with | .error .illegal => true | _ => false) = true := by decide

/-! ### Witnesses: states in which the hypotheses of the statements hold together, clause by clause -/

/-- Whether the issuing group stands free at `i` and something more holds. -/
def check (i : Instr) (s : State) (P : Issue → Prop) [DecidablePred P] : Bool :=
  match s.issuer with
  | none => false
  | some x => !(x.unit.txn.isSome && abortsTxn i) && holdBack (s.coreAt x.unit.id.core) x.slices i == .free && decide (P x)

/-- The hypotheses of a statement about an issue. -/
def Meets (i : Instr) (s : State) (P : Issue → Prop) : Prop := ∃ x, Issues i s x ∧ P x

theorem meets {i : Instr} {s : State} {P : Issue → Prop} [DecidablePred P] (h : check i s P = true) : Meets i s P := by
  unfold check at h
  split at h
  · cases h
  · simp only [Bool.and_eq_true, Bool.not_eq_true', beq_iff_eq, decide_eq_true_eq] at h
    exact ⟨_, ⟨‹_›, h.1.1, h.1.2⟩, h.2⟩

/-- A gang of two slices at 0x1000 on core 0, its group in focus; its pages: scratchpad at 0, device memory at 0x20000 and 0x30000, host
memory at 0x50000, a read-only page at 0x60000, a peer's at 0x70000, the log ring at 0x80000. -/
def gang (f : Slice → Slice) (g : Machine.Unit → Machine.Unit) : State :=
  let s := State.reset.withFetchWord 64 0
  { s with
    tlb := s.tlb ++ [(.l1 0, { ctx := 0, va := 0x20000, size := 0x20000, frame := 0x4000000, attrs := 0x06B }),
      (.l1 0, { ctx := 0, va := 0x50000, size := 0x10000, frame := 0x8000000000000, attrs := 0x08B }),
      (.l1 0, { ctx := 0, va := 0x60000, size := 0x8000, frame := 0x9000000, attrs := 0x069 }),
      (.l1 0, { ctx := 0, va := 0x70000, size := 0x10000, frame := 0xC000000000000, attrs := 0x08B }),
      (.l1 0, { ctx := 0, va := 0x80000, size := 0x8000, frame := 0xA000000, attrs := 0x07B }),
      (.l1 0, { ctx := 0, va := 0x100000, size := 0x10000, frame := scratchPa 0 0, attrs := 0x00B })]
    focus := s.focus.map (fun x => { x with slices := [0, 1] })
    units := s.units.map (fun u =>
      g { u with logbase := 0x80000, logsz := 0x100000000, slices := [0, 1].map (fun j => f { startSlice 0x1000 0 0 0 0 0 with idx := j, grp := 0 }) }) }

def base : State := gang id id
def me : UnitId := { core := 0, kind := .gang, slot := 0 }
/-- The same group in a handler, in a transaction, at level S, as a sluice member. -/
def handling : State := gang id (fun u => { u with handler := some [0, 1] })
def txn0 (doomed : Bool) (ts : List Slice) : Txn :=
  { label := 0x1100, win := 1, reads := [], writes := [], own := [], doomed := doomed, slices := ts, pages := [] }
def inTxn (doomed : Bool) : State := gang id (fun u => { u with txn := some (txn0 doomed u.slices) })
def kindOf (k : UnitKind) : State :=
  let s := base
  { s with units := s.units.map (fun u => { u with id := { u.id with kind := k } })
           focus := s.focus.map (fun x => { x with unit := { x.unit with kind := k } }) }
/-- A register of every slice set. -/
def setS (r : Reg) (v : W64) (t : Slice) : Slice := t.putS r v
def setV (r : Reg) (v : W32) (t : Slice) : Slice := (List.finRange 4).foldl (fun t l => t.putV r l v) t

/-- Every instruction of the words above stands free in the gang with full registers. -/
def free (p : W32 × W32 × Instr) : Bool := check p.2.2 base (fun _ => True)

theorem test_meets_issues : words_scalar.all free = true ∧ words_vector.all free = true ∧ words_float.all free = true
    ∧ words_lanes.all free = true ∧ words_matrix.all free = true ∧ words_memory.all free = true ∧ words_sluice.all free = true
    ∧ words_control.all free = true ∧ words_masks.all free = true ∧ words_system.all free = true := by
  refine ⟨?_, ?_, ?_, ?_, ?_, ?_, ?_, ?_, ?_, ?_⟩ <;> decide

/-- The hypotheses of a statement about a group in focus that need not issue. -/
def Stands (s : State) (P : Issue → Prop) : Prop := ∃ x, s.issuer = some x ∧ P x

theorem stands {s : State} {P : Issue → Prop} [DecidablePred P]
    (h : (match s.issuer with | none => false | some x => decide (P x)) = true) : Stands s P := by
  split at h
  · cases h
  · exact ⟨_, ‹_›, of_decide_eq_true h⟩

def isOk {ε α : Type} (e : Except ε α) : Bool := match e with | .ok _ => true | .error _ => false
def read? {ε α : Type} (e : Except ε α) : Option α := match e with | .ok a => some a | .error _ => none
def err? {ε α : Type} (e : Except ε α) : Option ε := match e with | .ok _ => none | .error e => some e
theorem isOk_ok {ε α : Type} {e : Except ε α} (h : isOk e = true) : ∃ a, e = .ok a := by
  cases e with | ok a => exact ⟨a, rfl⟩ | error e => cases h

theorem test_meets_DecodeOfEncode :
    (words_vector ++ words_float).all (fun w => match Decode.decode w.1 w.2.1 with
      | .ok d => Decode.wellFormed d && (Decode.encode d).isSome | .error _ => false) = true := by decide

theorem test_meets_StepKeepsInv : Machine.Inv State.reset ∧ ∃ s', step State.reset = .next s' :=
  ⟨⟨by decide, by decide, by decide, by decide, by simp [State.reset], by simp [State.reset], by decide, by decide, by decide, by decide, by decide, by decide⟩, _, rfl⟩

/-- Word 0 of the focus group: SADD for all roles, SLI of role 1, BR. -/
def fetched (w : Nat) (s : State) : State := { s with mem := s.mem.writeBytes 0x1000 (leBytes w 8) }
/-- A code object at 0x1000 whose blocks hold the roles of `b`. -/
def roled (b : Byte) (s : State) : State :=
  { s with objects := [{ handle := 1, image := [], textPa := 0x1000, size := 64, rolemap := [b], imports := 0, safe := [], spad := [], stack := 0 }]
           refs := [{ ctx := 0, handle := 1, textVa := 0x1000, retiring := false, importBase := 0, spadVa := 0x100000, spad := [] }] }
/-- What the statement's group in focus meets at its PC, where all that the statement asks of the state holds: class 5, a block passed,
words passed over, or an instruction. -/
inductive Met | between | block | words | instr | nothing
  deriving DecidableEq
def meetsAt (s : State) : Met :=
  match s.agenda, s.focus with
  | [], some f =>
    match s.unit? f.unit with
    | none => .nothing
    | some u =>
      let v := if groupHandles u f.slices then u else u.mapSlices f.slices Slice.entered
      match v.pick f.slices with
      | [] => .nothing
      | t :: _ =>
        let w0 := wordAt s 0x1000
        let w1 := if w0.getLsbD 0 then wordAt s 0x1004 else 0
        if !mayIssue u f.slices || leaving s u || driftStalls s u f.slices then .nothing
        else if t.pc.toNat % 4 ≠ 0 then .between
        else if skipsBlock s v t then .block
        else if read? (translate s (requester v .fetch .plain) t.pc) ≠ some (0x1000, 0x06D) || inRefresh s 0x1000 || poisoned s 0x1000 4 then .nothing
        else if !holdsRole s v (Decode.roleOf w0).toNat then .words
        else if passesOver s v w0 w1 || decide (w0.getLsbD 0 = true ∧ t.pc.toNat % 64 = 60) || !isOk (Decode.decode w0 w1) || isEngine v then .nothing
        else .instr
  | _, _ => .nothing

theorem test_meets_StepRunsDecoded : State.reset.agenda = [.resetRelease] ∧ meetsAt (fetched 0x0020000800010401 base) = .instr
    ∧ meetsAt (fetched 0x0E600004 base) = .instr ∧ meetsAt (fetched 0x0E600004 handling) = .instr ∧ meetsAt (fetched 0x21E20054 base) = .words
    ∧ meetsAt (gang (fun t => { t with pc := 0x1002 }) id) = .between
    ∧ meetsAt (roled 2 (gang (fun t => { t with seqF := true }) id)) = .block ∧ meetsAt (roled 3 (fetched 0x0E600004 (gang (fun t => { t with seqF := true }) id))) = .instr := by
  decide

theorem test_meets_ConstantRegisters :
    ∃ t : Slice, t.replay = none ∧ (1 : Reg) ≠ 63 ∧ (2 : Reg) ≠ 1 ∧ 0 < (7 : Nat) ∧ (7 : Nat) < 8 ∧ (6 : Nat) ≠ 7 :=
  ⟨startSlice 0 0 0 0 0 0, by decide⟩

/-- Register 2 of every slice is empty. -/
def s2Empty : State := gang (fun t => t.emptyS 2) id
theorem test_meets_EmptyRegisters :
    Stands s2Empty (fun x => levelAllows (.sadd { W with a := 2, fa := true }) x.unit = true ∧ (x.unit.txn.isSome && abortsTxn (.sadd W)) = false
      ∧ ∃ r ∈ sources (.sadd { W with a := 2, fa := true }), r.policy = true ∧ isFull (s2Empty.coreAt x.unit.id.core) (x.slices.map Slice.replayable) r.ref = false)
    ∧ Stands s2Empty (fun x => (∀ r ∈ sources (.sadd { W with a := 2 }), r.policy = true → isFull (s2Empty.coreAt 0) (x.slices.map Slice.replayable) r.ref = true)
      ∧ ∃ r ∈ sources (.sadd { W with a := 2 }), isFull (s2Empty.coreAt x.unit.id.core) (x.slices.map Slice.replayable) r.ref = false)
    ∧ Stands s2Empty (fun x => (∀ r ∈ sources (.sadd { W with d := 2 }), r.policy = true → isFull (s2Empty.coreAt 0) (x.slices.map Slice.replayable) r.ref = true)
      ∧ ∃ r ∈ dests (.sadd { W with d := 2 }), isFull (s2Empty.coreAt x.unit.id.core) (x.slices.map Slice.replayable) r = false)
    ∧ (Decode.parts (.sadd W)).isSome = true :=
  ⟨stands (by decide), stands (by decide), stands (by decide), by decide⟩

theorem test_meets_LevelTraps :
    Stands base (fun x => ∀ i ∈ [Instr.sysr { W with imm := 0x50 }, .sysw { W with imm := 0x20 }, .sysw { W with imm := 2 }, .sysrCtx W, .syswCtx W,
      .tlbinvPage W, .tlbinvCtx W, .tlbinvAll W, .undo W, .undoTeam W], levelAllows i x.unit = false)
    ∧ Stands (kindOf .mgmt) (fun x => ∀ i ∈ [Instr.sysw { W with imm := 2 }, .ecall W], levelAllows i x.unit = false) :=
  ⟨stands (by decide), stands (by decide)⟩

theorem test_meets_ListedAborts : Stands (inTxn false) (fun x =>
    levelAllows (.phase W) x.unit = true ∧ x.unit.txn.isSome = true ∧ abortsTxn (.phase W) = true
    ∧ ∀ y ∈ x.unit.slices, (x.unit.slices.find? (fun o => o.idx == y.idx)).isSome = true) := stands (by decide)

theorem test_meets_TrapTaken : ∀ p ∈ [(base, 0), (base, 4), (gang id (fun u => { u with ctx := 1 }), 9), (handling, 8)],
    Stands p.1 (fun x => p.1.mem.wf = true ∧ x.unit.id.kind = .gang ∧ x.unit.txn = none ∧ p.2 ≠ 3
      ∧ (∀ y ∈ x.unit.slices, y.idx < 8) ∧ (x.unit.slices.map (fun y => y.idx)).Nodup) := by
  simp only [List.forall_mem_cons]
  exact ⟨stands (by decide), stands (by decide), stands (by decide), stands (by decide), by simp⟩

/-- Class 8 delegated; another team member, one in its handler; in a transaction; a member of the harrow; a management unit. -/
theorem test_meets_TrapTaken_forms :
    (let s := { base with contexts := base.contexts.set 0 { base.ctx 0 with deleg := 0x100, trapbase := 0x3000 } }
     Stands s (fun x => (delegable 8 && (s.ctx x.unit.ctx).deleg.getLsbD 8) = true ∧ x.unit.handler = none))
    ∧ (let s := { base with units := base.units ++ base.units.map (fun u => { u with id := { u.id with core := 1 } }) }
       Stands s (fun x => ∃ y ∈ s.units, y.id ≠ x.unit.id ∧ s.unit? y.id = some y ∧ y.team = x.unit.team ∧ y.handler = none))
    ∧ Stands (inTxn false) (fun x => (inTxn false).mem.wf = true ∧ x.unit.id.kind = .gang ∧ x.unit.txn.isSome = true)
    ∧ Stands base (fun x => x.unit.txn = none ∧ x.unit.handler = none) ∧ Stands handling (fun x => x.unit.txn = none ∧ x.unit.handler ≠ none)
    ∧ Stands (kindOf .harrow) (fun x => x.unit.id.kind ≠ .gang) ∧ Stands (kindOf .mgmt) (fun x => x.unit.id.kind ≠ .gang) := by
  refine ⟨?_, ?_, ?_, ?_, ?_, ?_, ?_⟩ <;> exact stands (by decide)

theorem test_meets_ScalarResults : ∀ i ∈ [Instr.sadd { W with d := 63, sec := 0x30, imm := 0xFFFF, xf := 8 }, .smulh W, .sset { W with sec := 0x15 },
    .sand { W with imm := 0x8000, xf := 8 }, .ssra W, .sli { I with imm := 0x8000, sec := 3 }, .sliIns { I with sec := 7 }],
    Meets i base (fun _ => WellFormed.fieldsOk i = true) := by
  simp only [List.forall_mem_cons]
  exact ⟨meets (by decide), meets (by decide), meets (by decide), meets (by decide), meets (by decide), meets (by decide), meets (by decide), by simp⟩

theorem test_meets_ScalarFrame : ∀ i ∈ [Instr.sadd { W with d := 63 }, .kpop W, .vextr W, .sli I], Meets i base (fun _ => True) := by
  simp only [List.forall_mem_cons]
  exact ⟨meets (by decide), meets (by decide), meets (by decide), meets (by decide), by simp⟩

theorem test_meets_MaskInstructions : ∀ i ∈ [Instr.kand W, .kmov { W with imm := 0xFFFF, xf := 12 }, .kmov { W with xf := 2 }, .kmov { W with xf := 1 },
    .kmov { W with d := 7 }, .kpop W, .vcmp { P with d := 7 }], Meets i base (fun _ => True) := by
  simp only [List.forall_mem_cons]
  exact ⟨meets (by decide), meets (by decide), meets (by decide), meets (by decide), meets (by decide), meets (by decide), meets (by decide), by simp⟩

theorem test_meets_VectorIntegers : ∀ i ∈ [Instr.vadd { P with t := .n8, s := true }, .vmad { P with d := 62, t := .n64 }, .vmulh P, .vshl P, .vclz P],
    Meets i base (fun _ => WellFormed.fieldsOk i = true) := by
  simp only [List.forall_mem_cons]
  exact ⟨meets (by decide), meets (by decide), meets (by decide), meets (by decide), meets (by decide), by simp⟩

theorem test_meets_VectorCompareSelect : ∀ i ∈ [Instr.vcmp { P with d := 7, sec := 5 }, .vsel { P with sec := 7 }, .vsel P],
    Meets i base (fun _ => WellFormed.fieldsOk i = true) := by
  simp only [List.forall_mem_cons]
  exact ⟨meets (by decide), meets (by decide), meets (by decide), by simp⟩

/-- Every lane of v2 holds +∞ and v3 −∞; FPCTL enables every exception. -/
def infinities (ctl : W32) : State := gang (fun t => { setV 3 0xFF800000 (setV 2 0x7F800000 t) with fpctl := ctl }) id
/-- Every lane of v1 holds a signalling NaN. -/
def signals (ctl : W32) : State := gang (fun t => { setV 1 0x7F800001 t with fpctl := ctl }) id
/-- FSCALE of v1 or v2 by v3. -/
def scaled (ty : TCode) (t : Slice) (l : Fin 4) : Nat × Flags :=
  (formatOf ty).flushOut (t.fpctl.getLsbD 3) ((formatOf ty).deliver (rmFor t.fpctl .dyn) false
    (match (formatOf ty).decode ((formatOf ty).flushIn (t.fpctl.getLsbD 3) (t.elem ty (if t.elem ty 1 l = 0 then 2 else 1) l)) with
      | .num n m e st => .num n m (e + (t.getV 3 l).toInt) st
      | v => v))
/-- The flags of an ordering of v1 and v3. -/
def ordered (t : Slice) (l : Fin 4) : Nat × Flags :=
  let a := (formatOf .f32).decode (t.elem .f32 1 l)
  let b := (formatOf .f32).decode (t.elem .f32 3 l)
  (0, if sigOf a || sigOf b || isNan a || isNan b then Flags.nv else 0)
/-- FCVT of v1 from f32 to f16, to nearest. -/
def toF16 (t : Slice) (l : Fin 4) : Nat × Flags := (formatOf .f16).deliver .rne false ((formatOf .f32).decode (t.elem .f32 1 l))
/-- FCVTI of v1 to an integer, for a NaN or 0. -/
def toInt8 (t : Slice) (l : Fin 4) : Nat × Flags :=
  match (formatOf .f32).decode (t.elem .f32 1 l) with | .nan _ => (0, Flags.nv) | _ => (0, 0)
/-- ICVTF of v1 from n16 to f16. -/
def fromN16 (t : Slice) (l : Fin 4) : Nat × Flags :=
  (formatOf .f16).deliver .rne false (.num (decide (intElem .n16 t 1 l < 0)) (intElem .n16 t 1 l).natAbs 0 false)
/-- BFPACK of 4 bits of v1 at the exponent in s0. -/
def packed (x : Issue) (t : Slice) (l : Fin 4) : Nat × Flags :=
  let o : PArgs := { P with a := 1, t := .f32, sec := 4 }
  let vals := packValues o x.slices
  packLane 4 0 (packExponent o vals (t.idx / 4)) (packSmallest o vals 0) ((formatOf .f32).decode (t.elem .f32 1 l))
/-- The flags of the sum of v1 over the tree, as VRED gathers them. -/
def summed (x : Issue) : Flags :=
  let o : PArgs := { P with a := 1, t := .f32 }
  ((treeValue (treeNode o x.low.fpctl) (fun i =>
    ((groupLanes x.slices 0).find? (fun p => laneNo p.1 p.2 == i)).map (fun p => (p.1.elem .f32 1 p.2, 0))) 5 0).getD (0, 0)).2
theorem test_meets_FloatArithmetic :
    Meets (.fadd { P with a := 2, b := 3 }) (infinities 0) (fun x => Quiet x 0 (fun t l =>
      (formatOf .f32).deliver (rmFor t.fpctl .dyn) false
        (Val.add .rne ((formatOf .f32).decode (t.elem .f32 2 l)) ((formatOf .f32).decode (t.elem .f32 3 l)))))
    ∧ Meets (.fadd { P with a := 2, b := 3 }) (infinities 0x10) (fun x => ¬Quiet x 0 (fun t l =>
      (formatOf .f32).deliver (rmFor t.fpctl .dyn) false
        (Val.add .rne ((formatOf .f32).decode (t.elem .f32 2 l)) ((formatOf .f32).decode (t.elem .f32 3 l)))))
    ∧ Meets (.fscale { P with a := 2, b := 3 }) (infinities 0x1F0) (fun x => WellFormed.fieldsOk (.fscale { P with a := 2, b := 3 }) = true ∧ Quiet x 0 (scaled .f32))
    ∧ Meets (.fscale { P with a := 1, b := 3 }) (signals 0x10) (fun x => ¬Quiet x 0 (scaled .f32)) :=
  ⟨meets (by decide), meets (by decide), meets (by decide), meets (by decide)⟩

theorem test_meets_FloatCompareClass :
    Meets (.fcmp { P with d := 7, a := 1, b := 3, sec := 5 }) base (fun x =>
      WellFormed.fieldsOk (.fcmp { P with d := 7, a := 1, b := 3, sec := 7 }) = true ∧ Quiet x 0 ordered)
    ∧ Meets (.fcmp { P with a := 1, b := 3, sec := 2 }) (signals 0x10) (fun x => ¬Quiet x 0 ordered)
    ∧ Meets (.fclass P) base (fun _ => True) := ⟨meets (by decide), meets (by decide), meets (by decide)⟩

/-- The largest finite f32, the smallest subnormal one and a value between two neighbours, under every mode. -/
theorem test_meets_Rounding :
    (formatOf .f32).place .rne false 0xFFFFFF 104 false = (some 0x7F7FFFFF, 0) ∧ (formatOf .f32).place .rup false 1 (-149) false = (some 1, 0)
    ∧ (formatOf .f32).place .rtz false 0x1FFFFFF 0 false = (some 0x4BFFFFFF, 0x10) ∧ (formatOf .f32).place .rup false 0x1FFFFFF 0 false = (some 0x4C000000, 0x10)
    ∧ (formatOf .e2m1).decode 7 = .num false 3 1 false := by decide

/-- Operands at the ends of a format, a NaN and a finite one; blocks of products with a NaN, with both infinities and with one; a zero
factor; a sum that needs no power below its operands'. -/
theorem test_meets_Rounding_exact :
    (2 ^ 64 - 1 < 2 ^ (formatOf .f64).width) ∧ isNan ((formatOf .f64).decode (2 ^ 64 - 1)) = true ∧ isNan ((formatOf .f16).decode 0xFFFF) = true
    ∧ (formatOf .f32).decode 0x80000001 = .num true 1 (-149) false ∧ isNan ((formatOf .bf16).decode 0xFF80) = false
    ∧ (isNan (.nan true) || isNan (.inf false)) = true ∧ (∃ v ∈ [Val.inf true, .nan false], isNan v = true)
    ∧ Val.inf false ∈ [Val.inf true, .inf false] ∧ Val.inf true ∈ [Val.inf true, .inf false]
    ∧ Val.inf true ∈ [Val.num false 1 0 false, .inf true] ∧ Val.inf false ∉ [Val.num false 1 0 false, .inf true]
    ∧ (∀ v ∈ [Val.num false 1 0 false, .inf true], isNan v = false)
    ∧ Val.add .rdn (.num false 1 3 false) (.num true 1 3 false) = .num true 0 0 false ∧ ((3 : Int) ≤ 3 ∧ (-4 : Int) ≤ 3) ∧ (1 : Nat) ≠ 0 := by decide

theorem test_meets_Conversions :
    Meets (.fcvt { P with a := 1, t := .f16, rm := .sr, sec := 1 }) base (fun x => Quiet x 0 toF16)
    ∧ Meets (.fcvt { P with a := 1, t := .f16, rm := .rne, sec := 1 }) (signals 0x10) (fun x => ¬Quiet x 0 toF16)
    ∧ Meets (.fcvti { P with a := 1, t := .i8, sec := 1 }) base (fun x => Quiet x 0 toInt8)
    ∧ Meets (.fcvti { P with a := 1, t := .i8, sec := 1 }) (signals 0x10) (fun x => ¬Quiet x 0 toInt8)
    ∧ Meets (.icvtf { P with a := 1, t := .f16, rm := .rne, sec := 8 }) base (fun x => Quiet x 0 fromN16)
    ∧ Meets (.icvtf { P with a := 1, t := .f16, rm := .rne, sec := 8 })
      (gang (fun t => { setV 1 0xFFFF t with fpctl := 0x40 }) id) (fun x => ¬Quiet x 0 fromN16)
    ∧ Meets (.bfpack { P with a := 1, t := .f32, sec := 4 }) base (fun x => Quiet x 0 (packed x))
    ∧ Meets (.bfpack { P with a := 1, t := .f32, sec := 4 }) (signals 0x10) (fun x => ¬Quiet x 0 (packed x)) := by
  refine ⟨?_, ?_, ?_, ?_, ?_, ?_, ?_, ?_⟩ <;> exact meets (by decide)

theorem test_meets_SpecialFunctions :
    Meets (.frcp { P with a := 1 }) base (fun x => Quiet x 0 (fun t l => sfuOp .rcp .f32 false (t.elem .f32 1 l)))
    ∧ Meets (.frcp { P with a := 1 }) (infinities 0x20) (fun x => ¬Quiet x 0 (fun t l => sfuOp .rcp .f32 false (t.elem .f32 1 l)))
    ∧ (formatOf .f32).decode 0x7FC00001 = .nan false ∧ (formatOf .f32).decode 0x7F800001 = .nan true :=
  ⟨meets (by decide), meets (by decide), by decide, by decide⟩

theorem test_meets_VectorFrame :
    ∀ i ∈ [Instr.vadd { P with t := .n64, d := 62 }, .fcvt { P with t := .f16, rm := .sr, sec := 1 }, .fclass P, .bfpack { P with t := .f32, sec := 2 }, .vcmprs P, .vmov { W with sec := 2 },
      .vsplat { W with sec := 3, xf := 8 }, .vlane W, .fcmp P, .ferf P], Meets i base (fun x => NoEnables x) := by
  simp only [List.forall_mem_cons]
  refine ⟨?_, ?_, ?_, ?_, ?_, ?_, ?_, ?_, ?_, ?_, by simp⟩ <;> exact meets (by decide)

theorem test_meets_LaneMoves :
    ∀ i ∈ [Instr.vshuf P, .vbcast P, .vconf P, .vcmprs P, .vexpnd P, .vmov { W with sec := 2 }, .vsplat { W with sec := 3, xf := 8 },
      .vextr { W with sec := 2 }, .vlane W], Meets i base (fun _ => True) := by
  simp only [List.forall_mem_cons]
  refine ⟨?_, ?_, ?_, ?_, ?_, ?_, ?_, ?_, ?_, by simp⟩ <;> exact meets (by decide)

theorem test_meets_TreeInstructions :
    (∀ i ∈ [Instr.vscan { P with sec := 0x12 }, .vcomb { P with sec := 5 }], Meets i base (fun _ => WellFormed.fieldsOk i = true))
    ∧ Meets (.vred { P with a := 1, t := .f32 }) base (fun x => x.low.fpctl.extractLsb' 4 5 &&& (summed x).setWidth 5 = 0)
    ∧ Meets (.vred { P with a := 1, t := .f32 }) (signals 0x10) (fun x => x.low.fpctl.extractLsb' 4 5 &&& (summed x).setWidth 5 ≠ 0) := by
  simp only [List.forall_mem_cons]
  refine ⟨⟨?_, ?_, by simp⟩, ?_, ?_⟩ <;> exact meets (by decide)

/-- Descriptors of FADD v0, v0 in v8; a queued XV; no lane under k1; v0 empty. -/
def xvIn (f : Slice → Slice) : State := gang (fun t => f ((setV 8 0x00000E00 t).putK 1 0)) id
def xvWord : PArgs := { P with d := 1, a := 8 }
theorem test_meets_ExecuteVector :
    Meets (.xv xvWord) (xvIn (fun t => { t with results := [.vector 1 false 0xF 0 (Vector.replicate 4 0) (Vector.replicate 4 0) true] }))
      (fun x => xvBusy x.slices = true)
    ∧ Meets (.xv { xvWord with xf := 1 }) (xvIn id) (fun x => xvBusy x.slices = false ∧ groupLanes x.slices 1 = [])
    ∧ Meets (.xv xvWord) (xvIn (fun t => t.emptyV 0 false)) (fun x =>
      groupLanes x.slices 0 ≠ [] ∧ (xvRegs xvWord x.slices).any (fun r => x.slices.any (fun t => !t.fullV r false)) = true)
    ∧ Meets (.xv xvWord) (xvIn (setV 0 0x7F800001)) (fun x => (xvRegs xvWord x.slices).all (fun r => x.slices.all (fun t => t.fullV r false)) = true
      ∧ xvBusy x.slices = false ∧ groupLanes x.slices 0 ≠ [] ∧ Quiet x 0 (fun t l => (0, (xvLane (xvIn id) 0 xvWord t l (t.getV 8 l)).flags))
      ∧ ∀ t ∈ x.slices, ∀ l ∈ lanesOf (actOf t 0), xvCause x.unit.isS false (t.getV 8 l) (t.stack l).length = 0)
    ∧ Meets (.xv xvWord) (xvIn (fun t => { setV 0 0x7F800001 t with fpctl := 0x10 })) (fun x =>
      ¬Quiet x 0 (fun t l => (0, (xvLane (xvIn id) 0 xvWord t l (t.getV 8 l)).flags)))
    ∧ Meets (.xv xvWord) (xvIn (fun t => t.putV 8 2 0x0F000000)) (fun x =>
      ∃ t ∈ x.slices, ∃ l ∈ lanesOf (actOf t 0), xvCause x.unit.isS false (t.getV 8 l) (t.stack l).length ≠ 0)
    ∧ Meets (.xpush W) base (fun x => xvBusy x.slices = false ∧ ∀ t ∈ x.slices, ∀ l : Fin 4, (t.stack l).length < 8)
    ∧ Meets (.xpop W) base (fun x => ∃ t ∈ x.slices, ∃ l ∈ lanesOf (actOf t 0), t.stack l = [])
    ∧ Meets (.xpush W) (gang (fun t => t.putStack 0 (List.replicate 8 1)) id) (fun x => ∃ t ∈ x.slices, ∃ l ∈ lanesOf (actOf t 0), (t.stack l).length = 8)
    ∧ Meets (.xpeek { W with b := 7 }) (gang (fun t => t.putStack 0 (List.replicate 8 1)) id) (fun x => ∀ t ∈ x.slices, 7 < (t.stack 0).length) := by
  refine ⟨?_, ?_, ?_, ?_, ?_, ?_, ?_, ?_, ?_, ?_⟩ <;> exact meets (by decide)

/-- Core 0 with tiles of 16 by 16 f16 elements, full but those of `e`. -/
def tiled (e : Byte) (f : Slice → Slice) : State :=
  let s := gang (fun t => f (setS 2 0x100000 t)) id
  s.setCore { s.coreAt 0 with tctl := Vector.replicate 8 (tileControl 0 16 16 0), tFull := ~~~e, tLost := 0, aFull := 0xF }
/-- Descriptors of the lowest and the highest code of each list, the stack codes on a stack that holds them, and each type. -/
def coded (c : Nat) : W32 := BitVec.ofNat 32 (c * 2 ^ 24 + 56 * (2 ^ 18 + 2 ^ 12 + 2 ^ 6))
theorem test_meets_ExecuteVector_lanes :
    (∀ c ∈ [0x00, 0x3B, 0x2B, 0x20, 0x29, 0xE3, 0x50, 0x53], ((coded c).extractLsb' 24 8).toNat = c)
    ∧ (∀ p ∈ [(0x50, 1), (0x50, 7), (0x51, 2), (0x51, 8), (0x52, 1), (0x52, 8), (0x53, 2), (0x53, 7)], xvCause false true (coded p.1) p.2 = 0)
    ∧ ({ P with t := .i32 } : PArgs).t = .i32 ∧ ({ P with t := .f16 } : PArgs).t ≠ .i32 ∧ P.t ≠ .i32 := by decide

theorem test_meets_MatrixSettings :
    Meets (.tcfg { W with d := 7, sec := 8, imm := 0xFFFC }) (tiled 0x80 id) (fun x => ((tiled 0x80 id).coreAt x.unit.id.core).fullT 7 = false
      ∧ WellFormed.fieldsOk (.tcfg { W with d := 7, sec := 1, imm := 0x2040 }) = true)
    ∧ Meets (.tcfg { W with d := 7 }) (tiled 0 id) (fun x => ((tiled 0 id).coreAt x.unit.id.core).fullT 7 = true)
    ∧ Meets (.mspan W) base (fun x => 0 + 1 * 1 ≤ ((base.team? x.unit.team).map (fun t => t.cores.length)).getD 1)
    ∧ Meets (.mspan { W with imm := 1 }) base (fun x => ((base.team? x.unit.team).map (fun t => t.cores.length)).getD 1 < 1 + 1 * 1)
    ∧ Meets (.mspanSelf W) base (fun _ => True) ∧ Meets (.tbitsNone W) base (fun _ => True) ∧ Meets (.tbitsSeed W) base (fun _ => True)
    ∧ Meets (.tbitsTile W) base (fun _ => True) := by
  refine ⟨?_, ?_, ?_, ?_, ?_, ?_, ?_, ?_⟩ <;> exact meets (by decide)

def fourQueued : List HarrowCommand :=
  List.replicate 4 { unit := me, op := .tzero 0, step := 0, blk := 0, win := 0, retireId := none, satSlice := 0, pc := 0x1000, room := 0, withheld := none }
theorem test_meets_MatrixCommands :
    Meets (.tld { W with a := 2 }) base (fun x => configured ((base.coreAt x.unit.id.core).ctl 0) = false)
    ∧ Meets (.tst { W with a := 2, imm := 1 }) (tiled 0 id) (fun x => configured (((tiled 0 id).coreAt 0).ctl 0) = true
      ∧ (x.low.getS 2 + 1).toNat % 64 ≠ 0)
    ∧ Meets (.tld { W with a := 2 }) (tiled 0 id) (fun x => isOk (matrixOffset (tiled 0 id) x.unit .read (x.low.getS 2) (tileBytes (((tiled 0 id).coreAt 0).ctl 0))) = true
      ∧ (tiled 0 id).poison = [] ∧ ((tiled 0 id).coreAt 0).fullT 0 = true ∧ ((tiled 0 id).coreAt 0).harrow.length < 4 ∧ x.unit.count 1 < 255)
    ∧ Meets (.tld { W with a := 2 }) (tiled 1 id) (fun x => isOk (matrixOffset (tiled 1 id) x.unit .read (x.low.getS 2) (tileBytes (((tiled 1 id).coreAt 0).ctl 0))) = true
      ∧ ((tiled 1 id).coreAt 0).fullT 0 = false)
    ∧ Meets (.tzero W) ((tiled 0 id).setCore { (tiled 0 id).coreAt 0 with harrow := fourQueued }) (fun x =>
      ∃ n ∈ spanCores base x.unit x.low.span, ¬(((tiled 0 id).setCore { (tiled 0 id).coreAt 0 with harrow := fourQueued }).coreAt n).harrow.length < 4)
    ∧ Meets (.tzero W) (tiled 0 id) (fun x => ∀ n ∈ spanCores (tiled 0 id) x.unit x.low.span, ((tiled 0 id).coreAt n).fullA 0 = true)
    ∧ Meets (.mma { W with a := 1, b := 2 }) base (fun x =>
      matrixCause (base.coreAt 0) 1 2 x.low.bitsA x.low.bitsB (tileCols ((base.coreAt 0).ctl 1)) false = some 1)
    ∧ Meets (.mma { W with a := 1, b := 2 }) (tiled 0 id) (fun x =>
      matrixCause ((tiled 0 id).coreAt 0) 1 2 x.low.bitsA x.low.bitsB (tileCols (((tiled 0 id).coreAt 0).ctl 1)) false = none
      ∧ ((tiled 0 id).coreAt 0).lostT 1 = false ∧ ((tiled 0 id).coreAt 0).lostA 0 = false)
    ∧ Meets (.mloop { W with d := 0, a := 2, b := 2, xf := 1, sec := 1, imm := 0x0808 }) (tiled 0 id) (fun x =>
      matrixCause ((tiled 0 id).coreAt 0) 0 1 x.low.bitsA x.low.bitsB (2 * tileCols (((tiled 0 id).coreAt 0).ctl 0)) true = none
      ∧ (tiled 0 id).poison = [] ∧ (x.low.getS 2).toNat % 64 = 0
      ∧ isOk (matrixOffsets (tiled 0 id) x.unit .read (tileBytes (((tiled 0 id).coreAt 0).ctl 0)) [x.low.getS 2, x.low.getS 2 + BitVec.ofNat 64 (8 * 64)]) = true)
    ∧ Meets (.mloop { W with d := 0, a := 2, b := 2, xf := 1, sec := 255 }) base (fun x =>
      matrixCause (base.coreAt 0) 0 1 x.low.bitsA x.low.bitsB (256 * tileCols ((base.coreAt 0).ctl 0)) true = some 1)
    ∧ Meets (.tout { W with a := 2, b := 63, imm := 0xFC, sec := 15 }) (tiled 0 id) (fun x => (x.low.getS 2).toNat % 4 = 0
      ∧ isOk (matrixOffsets (tiled 0 id) x.unit .write (16 * 4) ((List.range 64).map (fun i => x.low.getS 2 + BitVec.ofNat 64 i * BitVec.ofNat 64 64))) = true)
    ∧ Meets (.tout { W with a := 3, b := 63 }) (tiled 0 (setS 3 2)) (fun x => (x.low.getS 3).toNat % 4 ≠ 0) := by
  refine ⟨?_, ?_, ?_, ?_, ?_, ?_, ?_, ?_, ?_, ?_, ?_, ?_⟩ <;> exact meets (by decide)

/-- `tiled` with registers 3 to 5 at the addresses given, and a second scratchpad page that does not lie behind the first: 0x120000 is its
end, 0x130000 its start. -/
def stepped (a b c : W64) : State :=
  let s := tiled 0 (fun t => setS 5 c (setS 4 b (setS 3 a t)))
  { s with tlb := s.tlb ++ [(.l1 0, { ctx := 0, va := 0x120000, size := 0x10000, frame := scratchPa 0 (Config.scratchBytes - 0x10000), attrs := 0x00B }),
      (.l1 0, { ctx := 0, va := 0x130000, size := 0x10000, frame := scratchPa 0 0, attrs := 0x00B })] }
def spoilt (ps : List Nat) (lost : Byte) : State :=
  let s := { tiled 0 id with poison := ps }
  s.setCore { s.coreAt 0 with tLost := lost }
/-- Where an operand of `n` bytes at a register lies, and whether that of a second step, 8 × 64 bytes on, overruns the scratchpad. -/
def overruns (s : State) (x : Issue) (r : Reg) : Bool :=
  match matrixOffsets s x.unit .read 512 [x.low.getS r, x.low.getS r + BitVec.ofNat 64 512] with
  | .ok os => decide (os.headD 0 + 512 ≤ Config.scratchBytes ∧ Config.scratchBytes < os.headD 0 + 512 + 512) | .error _ => false
def mloop2 (a b : Reg) : Instr := .mloop { W with d := 0, a := a, b := b, xf := 1, sec := 1, imm := 0x0808 }
theorem test_meets_MatrixCommands_faults :
    Meets (.tld { W with a := 4 }) (stepped 0 0x900000 0) (fun x => (x.low.getS 4).toNat % 64 = 0
      ∧ (err? (matrixOffset (stepped 0 0x900000 0) x.unit .read (x.low.getS 4) 512)).isSome = true)
    ∧ Meets (.tld { W with a := 2 }) (spoilt [scratchPa 0 64] 0) (fun _ => poisoned (spoilt [scratchPa 0 64] 0) (scratchPa 0 0) 512 = true)
    ∧ Meets (.tst { W with a := 2 }) (spoilt [] 1) (fun _ => ((spoilt [] 1).coreAt 0).lostT 0 = true ∧ ((spoilt [] 1).coreAt 0).fullT 0 = true)
    ∧ Meets (.tst { W with a := 2 }) (spoilt [] 0) (fun x => isOk (matrixOffset (spoilt [] 0) x.unit .write (x.low.getS 2) 512) = true
      ∧ ((spoilt [] 0).coreAt 0).lostT 0 = false)
    ∧ Meets (.mma { W with a := 1, b := 2 }) (spoilt [] 2) (fun _ => ((spoilt [] 2).coreAt 0).lostT 1 = true)
    ∧ Meets (.mma { W with a := 1, b := 2 }) (tiled 2 id) (fun _ => ((tiled 2 id).coreAt 0).fullT 1 = false)
    ∧ Meets (mloop2 3 2) (stepped 0x100020 0 0) (fun x => (x.low.getS 3).toNat % 64 ≠ 0)
    ∧ Meets (mloop2 2 3) (stepped 0x100020 0 0) (fun x => (x.low.getS 2).toNat % 64 = 0 ∧ (x.low.getS 3).toNat % 64 ≠ 0)
    ∧ Meets (mloop2 4 2) (stepped 0 0x900000 0) (fun x => (err? (matrixOffsets (stepped 0 0x900000 0) x.unit .read 512 [x.low.getS 4])).isSome = true)
    ∧ Meets (mloop2 2 4) (stepped 0 0x900000 0) (fun x => isOk (matrixOffsets (stepped 0 0x900000 0) x.unit .read 512 [x.low.getS 2, x.low.getS 2 + 512]) = true
      ∧ (err? (matrixOffsets (stepped 0 0x900000 0) x.unit .read 512 [x.low.getS 4])).isSome = true)
    ∧ Meets (mloop2 5 2) (stepped 0 0 0x12FE00) (fun x => overruns (stepped 0 0 0x12FE00) x 5 = true)
    ∧ Meets (mloop2 2 5) (stepped 0 0 0x12FE00) (fun x => overruns (stepped 0 0 0x12FE00) x 5 = true)
    ∧ Meets (mloop2 2 2) (spoilt [scratchPa 0 0] 0) (fun _ => poisoned (spoilt [scratchPa 0 0] 0) (scratchPa 0 0) 512 = true)
    ∧ Meets (mloop2 2 2) (tiled 4 id) (fun _ => ((tiled 4 id).coreAt 0).fullT 2 = false)
    ∧ Meets (.tout { W with a := 4, b := 63 }) (stepped 0 0x900000 0) (fun x => (x.low.getS 4).toNat % 4 = 0
      ∧ (err? (matrixOffsets (stepped 0 0x900000 0) x.unit .write 4 [x.low.getS 4])).isSome = true)
    ∧ Meets (.tout { W with a := 2, b := 3 }) (stepped 2 0 0) (fun x => (x.low.getS 2).toNat % 4 = 0 ∧ (x.low.getS 3).toNat % 4 ≠ 0) := by
  refine ⟨?_, ?_, ?_, ?_, ?_, ?_, ?_, ?_, ?_, ?_, ?_, ?_, ?_, ?_, ?_, ?_⟩ <;> exact meets (by decide)

/-! Addresses: s2 scratchpad, s3 device memory, s4 nowhere, s5 odd, s6 host, s7 read-only, s8 a peer; v1 an index; a walk record at s2. -/
def places (f : Slice → Slice) (g : Machine.Unit → Machine.Unit) : State :=
  let s := gang (fun t => f (setV 1 1 ((((((((setS 2 0x100000 t).putS 3 0x20000).putS 4 0x900000).putS 5 0x20001).putS 6 0x50000).putS 7 0x60000).putS 8 0x70000).putS 9 1))) g
  { s with mem := s.mem.writeBytes (scratchPa 0 0) (leBytes 0x20000 8 ++ leBytes 0x11 4 ++ leBytes 8 4 ++ leBytes 1 4) }
def there : State := places id id
/-- The scalar accesses of register `r`, all in place, readable and clean. -/
def clean (s : State) (x : Issue) (acc : Access) (op : AccessOp) (vas : List (Slice × W64)) (n : Nat) : Bool :=
  match scalarPlaces s x.unit acc op vas with
  | .error _ => false
  | .ok ps => !readsHeld s x.unit (ps.map (fun p => (p.1.idx, p.2.2.1))) && ps.all (fun p => !poisoned s p.2.2.1 n)
      && (joinReads x.unit (snapshotLines (ps.map (fun p => p.2.2)))).isSome
      && writesFit x.unit (snapshotLines (ps.map (fun p => (p.2.2.1, p.2.2.2)))) && decide (x.unit.count 2 + ps.length ≤ 255)
      && logFits s x.unit (entriesFor x.unit ps.length 2)
def at_ (r : Reg) (x : Issue) : List (Slice × W64) := x.slices.map (fun t => (t, t.getS r))
def sixWords (r : Reg) (off : W64) (x : Issue) : List (Slice × W64) :=
  (at_ r x).flatMap (fun v => (List.range 6).map (fun k => (v.1, v.2 + off + BitVec.ofNat 64 (8 * k))))
def laneClean (s : State) (x : Issue) (acc : Access) (op : AccessOp) (n : Nat) (addr : Slice → Fin 4 → Option W64) : Bool :=
  let oks := laneOks (laneAccesses s x 0 acc op addr)
  !readsHeld s x.unit (oks.map (fun p => (p.1.t.idx, p.2.1))) && oks.all (fun p => !poisoned s p.2.1 n)
    && (joinReads x.unit (snapshotLines (oks.map (fun p => p.2)))).isSome && writesFit x.unit (snapshotLines (oks.map (fun p => p.2)))
    && decide (x.unit.count 2 + oks.length ≤ 255) && logFits s x.unit (entriesFor x.unit oks.length 2)
def alongS (r : Reg) (n : Nat) (t : Slice) (l : Fin 4) : Option W64 := some (t.getS r + BitVec.ofNat 64 ((4 * t.idx + l.val) * n))
/-- Indexed by v1 under the bound s9, which is 1: every lane is beyond it. -/
def beyond (_ : Slice) (_ : Fin 4) : Option W64 := none

theorem test_meets_Loads :
    Meets (.sld { I with a := 5 }) there (fun x => misaligned 8 ((at_ 5 x).map (fun v => v.2)) ≠ none)
    ∧ Meets (.sld { I with a := 3 }) there (fun x => clean there x .read .plain (at_ 3 x) 8 = true)
    ∧ Meets (.sld { I with a := 4 }) there (fun x => (err? (scalarPlaces there x.unit .read .plain (at_ 4 x))).isSome = true)
    ∧ Meets (.vld { W with a := 5 }) there (fun x => laneMisaligned x 0 4 (fun t => t.getS 5) ≠ none)
    ∧ Meets (.vld { W with a := 3 }) there (fun x => laneMisaligned x 0 4 (fun t => t.getS 3) = none ∧ laneClean there x .read .plain 4 (alongS 3 4) = true
      ∧ laneBad (laneAccesses there x 0 .read .plain (alongS 3 4)) = [])
    ∧ Meets (.vld { W with a := 4 }) there (fun x =>
      (laneFault .read (laneBad (laneAccesses there x 0 .read .plain (alongS 4 4)))).isSome = true)
    ∧ Meets (.vldg { W with a := 3, b := 1, sec := 63 }) there (fun x => laneMisaligned x 0 4 (fun t => t.getS 3) = none)
    ∧ Meets (.vldg { W with a := 3, b := 1, imm := 0x240 }) there (fun x => (laneFault .read (laneBad (laneAccesses there x 0 .read .plain beyond))).isSome = true)
    ∧ Meets (.wbind { W with a := 5 }) there (fun x => misaligned 16 ((at_ 5 x).map (fun v => v.2)) ≠ none)
    ∧ Meets (.wbind { W with a := 2 }) there (fun x => misaligned 16 ((at_ 2 x).map (fun v => v.2)) = none ∧ clean there x .read .plain (sixWords 2 0 x) 8 = true
      ∧ walkForm (fromLe (there.mem.readBytes (scratchPa 0 0) 48)) = true)
    ∧ Meets (.wbind { W with a := 2, imm := 0x100 }) there (fun x => clean there x .read .plain (sixWords 2 0 x) 8 = true
      ∧ walkForm (fromLe (there.mem.readBytes (scratchPa 0 0x100) 48)) = false)
    ∧ Meets (.vmovStream W) there (fun x => ∃ t ∈ x.slices, t.stream 0 = none)
    ∧ Meets (.vmovStream W) (places (fun t => t.putStream 0 (some { walk := walkOf (0x20000 + 0x11 * 2 ^ 64 + 8 * 2 ^ 96 + 2 ^ 128), pos := 0, flags := 0 })) id) (fun x =>
      (∀ t ∈ x.slices, t.stream 0 ≠ none) ∧ laneBad (laneAccesses there x 0 .read .plain (alongS 3 4)) = []) := by
  refine ⟨?_, ?_, ?_, ?_, ?_, ?_, ?_, ?_, ?_, ?_, ?_, ?_, ?_⟩ <;> exact meets (by decide)

theorem test_meets_Stores :
    Meets (.sst { I with a := 5 }) there (fun x => misaligned 8 ((at_ 5 x).map (fun v => v.2)) ≠ none)
    ∧ Meets (.sst { I with a := 3 }) there (fun x => clean there x .write .plain (at_ 3 x) 8 = true)
    ∧ Meets (.sst { I with a := 7 }) there (fun x => (err? (scalarPlaces there x.unit .write .plain (at_ 7 x))).isSome = true)
    ∧ Meets (.vst { W with a := 5 }) there (fun x => laneMisaligned x 0 4 (fun t => t.getS 5) ≠ none)
    ∧ Meets (.vst { W with a := 2 }) there (fun x => laneMisaligned x 0 4 (fun t => t.getS 2) = none ∧ laneClean there x .write .plain 4 (alongS 2 4) = true
      ∧ laneBad (laneAccesses there x 0 .write .plain (alongS 2 4)) = [])
    ∧ Meets (.vst { W with a := 7 }) there (fun x =>
      (laneFault .write (laneBad (laneAccesses there x 0 .write .plain (alongS 7 4)))).isSome = true)
    ∧ Meets (.vstg { W with a := 3, b := 1 }) there (fun x => laneMisaligned x 0 4 (fun t => t.getS 3) = none) := by
  refine ⟨?_, ?_, ?_, ?_, ?_, ?_, ?_⟩ <;> exact meets (by decide)

theorem test_meets_StoreSeen : (placedUnit State.reset).id.kind = .gang ∧ ([1] : List Byte) ≠ [] ∧ isDirect 0x00B = true ∧ isDirect 0x06B = false
    ∧ placeOf 0x4000000 ≠ .host ∧ placeOf 0x8000000000000 = .host := by decide

theorem test_meets_StoreFrame :
    Meets (.sst { I with a := 3 }) there (fun x => x.unit.id.kind = .gang ∧ clean there x .write .plain (at_ 3 x) 8 = true)
    ∧ Meets (.vst { W with a := 3 }) there (fun x => x.unit.id.kind = .gang ∧ laneClean there x .write .plain 4 (alongS 3 4) = true
      ∧ laneMisaligned x 0 4 (fun t => t.getS 3) = none ∧ laneBad (laneAccesses there x 0 .write .plain (alongS 3 4)) = [])
    ∧ Meets (.vstg { W with a := 3, b := 1 }) there (fun x =>
      laneBad (laneAccesses there x 0 .write .plain (indexedAddr { W with a := 3, b := 1, imm := 0xFC0 } 4)) = []) := by
  refine ⟨?_, ?_, ?_⟩ <;> exact meets (by decide)

theorem test_meets_AtomicValues : (0 : BitVec 3).toNat < 4 ∧ (3 : BitVec 3).toNat < 4 ∧ 0xFFFFFFFF < 2 ^ (if (3 : BitVec 3).toNat < 2 then 64 else 32)
    ∧ 4 ≤ (4 : BitVec 3).toNat ∧ (6 : BitVec 3).toNat < 7 := by decide

/-- A unit with an atomic still to be performed is not quiet. -/
def pendingAtomic : PendingAtomic :=
  { slice := 0, lane := none, ret := none, pa := 0x4000000, va := 0, op := 0, ty := 0, data := 1, cmp := 0, win := 1, pc := 0, retireId := none, frame := false, page := (0, 4096) }
def unquiet (u : Machine.Unit) : Machine.Unit := { u with atomics := [pendingAtomic] }
theorem test_meets_Atomics :
    Meets (.satom { W with a := 5 }) there (fun x => misaligned 8 ((at_ 5 x).map (fun v => v.2)) ≠ none)
    ∧ Meets (.satom { W with a := 3, sec := 0x20 }) (places id unquiet) (fun x => misaligned 8 ((at_ 3 x).map (fun v => v.2)) = none ∧ x.unit.quiet = false)
    ∧ Meets (.satom { W with a := 3, sec := 0x60 }) there (fun x => x.unit.quiet = true ∧ clean there x .write (.atomic 0 0) (at_ 3 x) 8 = true)
    ∧ Meets (.satom { W with a := 7, d := 63 }) there (fun x => (err? (scalarPlaces there x.unit .write (.atomic 0 0) (at_ 7 x))).isSome = true)
    ∧ Meets (.vatom { W with a := 5 }) there (fun x => laneMisaligned x 0 4 (fun t => t.getS 5) ≠ none)
    ∧ Meets (.vatom { W with a := 3, sec := 0x20 }) (places id unquiet) (fun x => laneMisaligned x 0 8 (fun t => t.getS 3) = none ∧ x.unit.quiet = false)
    ∧ Meets (.vatom { W with a := 3 }) there (fun x => laneMisaligned x 0 8 (fun t => t.getS 3) = none ∧ laneClean there x .write (.atomic 0 0) 8 (alongS 3 8) = true
      ∧ laneBad (laneAccesses there x 0 .write (.atomic 0 0) (alongS 3 8)) = [])
    ∧ Meets (.gatom { W with a := 3, b := 1 }) there (fun x => (laneFault .write (laneBad (laneAccesses there x 0 .write (.atomic 0 0) beyond))).isSome = true) := by
  refine ⟨?_, ?_, ?_, ?_, ?_, ?_, ?_, ?_⟩ <;> exact meets (by decide)

theorem test_meets_PhaseTakesPlace : (base.unit? me).isSome = true ∧ (base.unit? me).map (fun u => u.txn) = some none ∧ base.mem.wf = true
    ∧ Mem.risingFrom 0 (Overlay.putBytes [] 0x4000000 [1, 2]) = true := by decide

def mwaits (r : Reg) (x : Issue) : Bool := clean there x .read .plain (at_ r x) 8
theorem test_meets_Synchronisation :
    Meets (.phase W) base (fun x => logFits base x.unit (entriesFor x.unit 0 1) = true ∧ x.unit.quiet = true)
    ∧ Meets (.phase W) (places id unquiet) (fun x => x.unit.quiet = false)
    ∧ Meets (.fence W) base (fun _ => True)
    ∧ Meets (.waitc I) base (fun x => x.unit.count 0 ≤ 0)
    ∧ Meets (.waitc { I with d := 3 }) (gang id (fun u => addOp u 3 7 1 false)) (fun x => 0 < x.unit.count 3)
    ∧ Meets (.mwait { W with a := 5 }) there (fun x => misaligned 8 ((at_ 5 x).map (fun v => v.2)) ≠ none)
    ∧ Meets (.mwait { W with a := 4 }) there (fun x => (err? (scalarPlaces there x.unit .read .plain (at_ 4 x))).isSome = true)
    ∧ Meets (.mwait { W with a := 3 }) there (fun x => mwaits 3 x = true ∧ ∀ t ∈ x.slices, condition 0 0 (t.getS 0).toInt = true)
    ∧ Meets (.mwait { W with a := 3, b := 9, d := 63, sec := 0x20 }) there (fun x => mwaits 3 x = true ∧ ∃ t ∈ x.slices, condition 0 0 (t.getS 9).toInt = false) := by
  refine ⟨?_, ?_, ?_, ?_, ?_, ?_, ?_, ?_, ?_⟩ <;> exact meets (by decide)

theorem test_meets_PeerAndNothing :
    Meets (.pst { W with a := 5 }) there (fun x => misaligned 8 ((at_ 5 x).map (fun v => v.2)) ≠ none)
    ∧ Meets (.pst { W with a := 8 }) there (fun x => isOk (scalarPlaces there x.unit .write .peer (at_ 8 x)) = true ∧ x.unit.count 3 + 2 ≤ 255
      ∧ logFits there x.unit (entriesFor x.unit 2 0) = true)
    ∧ Meets (.pst { W with a := 3 }) there (fun x => (err? (scalarPlaces there x.unit .write .peer (at_ 3 x))).isSome = true)
    ∧ Meets (.patom { W with a := 8, sec := 0x20 }) there (fun x => x.unit.quiet = true ∧ isOk (scalarPlaces there x.unit .write .peer (at_ 8 x)) = true)
    ∧ Meets (.patom { W with a := 5 }) there (fun x => misaligned 8 ((at_ 5 x).map (fun v => v.2)) ≠ none)
    ∧ Meets (.pref { W with a := 4 }) there (fun _ => True) ∧ Meets (.nop W) base (fun _ => True) := by
  refine ⟨?_, ?_, ?_, ?_, ?_, ?_, ?_⟩ <;> exact meets (by decide)

/-! Poison, the unit's own atomic in its scratchpad, a weight store in its window, full sets of lines and full counters. -/
def poisonedAt (pa : Nat) : State := { there with poison := [pa] }
def withOps (cls n : Nat) (u : Machine.Unit) : Machine.Unit := { u with ops := List.replicate n { cls := cls, id := 0, left := 1, store := false } }
def txnOf (reads writes : List Nat) (u : Machine.Unit) : Machine.Unit :=
  { u with txn := some { txn0 false u.slices with reads := reads, writes := writes } }
def weighing : State :=
  let s := places (setS 10 0x200000) id
  { s with refresh := [(0, 9)], tlb := s.tlb ++ [(.l1 0, { ctx := 0, va := 0x200000, size := 0x10000, frame := 0x10000000000, attrs := 0x249 })] }
theorem test_meets_Loads_held :
    Meets (.sld { I with a := 3 }) (poisonedAt 0x4000000) (fun x => isOk (scalarPlaces (poisonedAt 0x4000000) x.unit .read .plain (at_ 3 x)) = true
      ∧ poisoned (poisonedAt 0x4000000) 0x4000000 8 = true)
    ∧ Meets (.sld { I with a := 2 }) (places id (fun u => { u with atomics := [{ pendingAtomic with pa := scratchPa 0 0 }] })) (fun x =>
      readsHeld there x.unit [(0, scratchPa 0 0)] = true)
    ∧ Meets (.sld { I with a := 10 }) weighing (fun x => readsHeld weighing x.unit [(0, 0x10000000000)] = true
      ∧ isOk (scalarPlaces weighing x.unit .read .plain (at_ 10 x)) = true)
    ∧ Meets (.sld { I with a := 3 }) (places id (txnOf (List.range 64) [])) (fun x => joinReads x.unit (snapshotLines [(0x4000000, 0x06B)]) = none)
    ∧ Meets (.sld { I with a := 3 }) (places id (txnOf (List.range 63) [])) (fun x => (joinReads x.unit (snapshotLines [(0x4000000, 0x06B)])).isSome = true)
    ∧ Meets (.vld { W with a := 3 }) (poisonedAt 0x4000000) (fun x =>
      (laneFault .read (laneBad (markLost (poisonedAt 0x4000000) (fun _ => 4) (laneAccesses there x 0 .read .plain (alongS 3 4))))).map (fun t => t.cls) = some 14)
    ∧ Meets (.vld { W with a := 3 }) (places id (txnOf (List.range 64) [])) (fun x => joinReads x.unit (snapshotLines [(0x4000000, 0x06B)]) = none)
    ∧ Meets (.mwait { W with a := 10 }) weighing (fun x => isOk (scalarPlaces weighing x.unit .read .plain (at_ 10 x)) = true ∧ inRefresh weighing (0x10000000000) = true)
    ∧ Meets (.mwait { W with a := 3 }) (poisonedAt 0x4000000) (fun _ => poisoned (poisonedAt 0x4000000) 0x4000000 8 = true) := by
  refine ⟨?_, ?_, ?_, ?_, ?_, ?_, ?_, ?_, ?_⟩ <;> exact meets (by decide)

theorem test_meets_Stores_held :
    (∀ r ∈ [6, 8], ∀ i ∈ [Instr.sst { I with a := r }, .vst { W with a := r }], Meets i (places id (txnOf [] [])) (fun x =>
      peerAborts there x.unit [x.low.getS r] = decide (r = 8) ∧ x.unit.txn.isSome = true))
    ∧ Meets (.sst { I with a := 3 }) (places id (txnOf [] (List.range 64))) (fun x => writesFit x.unit (snapshotLines [(0x4000000, 0x06B)]) = false)
    ∧ Meets (.sst { I with a := 3 }) (places id (withOps 2 253)) (fun x => x.unit.count 2 + 2 = 255)
    ∧ Meets (.sst { I with a := 3 }) (places id (withOps 2 254)) (fun x => 255 < x.unit.count 2 + 2)
    ∧ Meets (.satom { W with a := 3, d := 63 }) (places id (withOps 2 254)) (fun x => 255 < x.unit.count 2 + 2)
    ∧ Meets (.vatom { W with a := 3 }) (places id (withOps 2 250)) (fun x => 255 < x.unit.count 2 + 8)
    ∧ Meets (.satom { W with a := 3, d := 10 }) (places id (withOps 2 255)) (fun x => x.unit.count 2 + 0 = 255)
    ∧ (∀ r ∈ [6, 8], Meets (.pst { W with a := r }) (places id (txnOf [] [])) (fun x =>
      (peerAborts there x.unit [x.low.getS r] || hostAborts there x.unit [x.low.getS r]) = true))
    ∧ Meets (.pst { W with a := 8 }) (places id (withOps 3 254)) (fun x => 255 < x.unit.count 3 + 2)
    ∧ Meets (.pst { W with a := 8 }) (places id (withOps 3 253)) (fun x => x.unit.count 3 + 2 = 255)
    ∧ Meets (.patom { W with a := 8 }) (places id (withOps 3 254)) (fun x => 255 < x.unit.count 3 + 2)
    ∧ Meets (.patom { W with a := 8, sec := 0x20 }) (places id unquiet) (fun x => x.unit.quiet = false) := by
  simp only [List.forall_mem_cons]
  refine ⟨⟨⟨?_, ?_, by simp⟩, ⟨?_, ?_, by simp⟩, by simp⟩, ?_, ?_, ?_, ?_, ?_, ?_, ⟨?_, ?_, by simp⟩, ?_, ?_, ?_, ?_⟩ <;> exact meets (by decide +kernel)

/-- Whether core 0 has room for a further sluice command of the group. -/
def room (s : State) (x : Issue) : Bool := decide ((s.coreAt x.unit.id.core).sluice.length < 32 ∧ x.unit.count 0 < 255)
/-- A command of unit `me`, waiting in the queue. -/
def command (op : SluiceOp) (phase : SluicePhase) : SluiceCommand := newCommand (placedUnit State.reset) 0 0x66 op true 0 0x1000 phase
def copies (n : Nat) : List SluiceCommand := List.replicate n (command (.cps 0 0 [] 4) .queued)
def crowded : State := there.setCore { there.coreAt 0 with sluice := copies 32 }
/-- A team with a static copy schedule of one entry, its next entry the `n`th. -/
def scheduled (lrec : W64) (n : Nat) : State :=
  { there with
    teams := there.teams.map (fun t => { t with cursor := n })
    launches := there.launches.map (fun l =>
      { l with sched := [{ lrec := lrec, spad := 0x100000, origin := 0, shape := 0, st := false, ord := 0, reservedOk := true }] }) }
theorem test_meets_SluiceCommands :
    (∀ i ∈ [Instr.cpLd { W with d := 2, a := 2 }, .cpSt { W with d := 2, a := 2 }, .cpx { W with d := 2, a := 3, imm := 4 }, .cps { W with d := 2, a := 3, imm := 4 },
      .cpred { W with d := 2, a := 3, imm := 4, sec := 0x10 }, .cpconv { W with d := 2, a := 2 }, .moedisp { W with d := 2, a := 2 }],
      Meets i there (fun x => ([(x.low.getS 2, 64), (x.low.getS 3, 4)].find? (fun (b : W64 × Nat) => b.1.toNat % b.2 != 0)) = none ∧ room there x = true))
    ∧ Meets (.cps { W with d := 2, a := 5, imm := 4 }) there (fun x => (x.low.getS 5).toNat % 4 ≠ 0)
    ∧ Meets (.cps { W with d := 2, a := 3, imm := 4 }) crowded (fun x => 32 ≤ (crowded.coreAt x.unit.id.core).sluice.length)
    ∧ Meets (.cpstage W) there (fun x => (there.team? x.unit.team).isSome = true ∧ (launchOf there x.unit).map (fun l => l.sched.length) = some 0)
    ∧ Meets (.cpstage W) (scheduled 0x100000 0) (fun x => ((launchOf (scheduled 0x100000 0) x.unit).bind (fun l => l.sched[0]?)).isSome = true
      ∧ room (scheduled 0x100000 0) x = true)
    ∧ Meets (.cpstage W) (scheduled 0x100001 0) (fun x => ((launchOf (scheduled 0x100001 0) x.unit).bind (fun l => l.sched[0]?)).map (fun e => e.lrec) = some 0x100001)
    ∧ Meets (.cpstage W) (scheduled 0x100000 1) (fun x => (launchOf (scheduled 0x100000 1) x.unit).map (fun l => l.sched.length) = some 1) := by
  simp only [List.forall_mem_cons]
  refine ⟨⟨?_, ?_, ?_, ?_, ?_, ?_, ?_, by simp⟩, ?_, ?_, ?_, ?_, ?_, ?_⟩ <;> exact meets (by decide)

/-- A head at s3 whose keys have `b + 1` dimensions. -/
def head (b : Nat) : State := { there with mem := there.mem.writeBytes (0x4000000 + 50) [BitVec.ofNat 8 b] }
def headRead (b : Nat) (x : Issue) : Bool :=
  decide (read? (cmdRead (head b) x.unit { held := x.unit.fenced, may := x.unit.own } x.unit.id.core false (x.low.getS 3 + 50) 1) = some [BitVec.ofNat 8 b])
theorem test_meets_MemoryCommands :
    Meets (.kst { W with a := 5, d := 1 }) there (fun x => (x.low.getS 5).toNat % 128 ≠ 0)
    ∧ Meets (.kst { W with a := 3, d := 1 }) (head 7) (fun x => (x.low.getS 3).toNat % 128 = 0 ∧ headRead 7 x = true ∧ room (head 7) x = true)
    ∧ Meets (.kst { W with a := 3, d := 63 }) (head 8) (fun x => headRead 8 x = true ∧ 4 * x.unit.slices.length = 8)
    ∧ Meets (.qsig { W with a := 3, b := 1 }) { head 7 with focus := base.focus.map (fun f => { f with slices := [0] }) } (fun x =>
      headRead 7 x = true ∧ x.slices.find? (fun t => t.idx == 1) = none)
    ∧ Meets (.qsig { W with a := 3, b := 1 }) (head 7) (fun x => headRead 7 x = true)
    ∧ Meets (.bgather { W with a := 5, imm := 2 }) there (fun x => (x.low.getS 5).toNat % 128 ≠ 0)
    ∧ Meets (.bgather { W with a := 3, imm := 2, b := 1 }) there (fun x => room there x = true ∧ (x.low.getS 2).toNat % 32 = 0) := by
  refine ⟨?_, ?_, ?_, ?_, ?_, ?_, ?_⟩ <;> exact meets (by decide)

/-- A channel of two slots at s2, with `w` slots written; s9 = 1, s10 = 3. -/
def channel (w : Nat) : State :=
  let s := places (setS 10 3) id
  { s with mem := s.mem.writeBytes (scratchPa 0 0) (leBytes 0x101000 8 ++ leBytes 64 4 ++ leBytes 2 2 ++ leBytes 0 2 ++ leBytes w 4 ++ leBytes 0 12) }
def chan (w : Nat) (acc : Access) (x : Issue) : Option Nat := (read? (readChan (channel w) x.unit x.unit.id.core acc .plain (x.low.getS 2))).map (fun c => c.full)
theorem test_meets_ChannelInstructions :
    Meets (.chwait { W with a := 5 }) there (fun x => (x.low.getS 5).toNat % 32 ≠ 0)
    ∧ Meets (.chwait { W with a := 2, imm := 1 }) (channel 2) (fun x => chan 2 .read x = some 2)
    ∧ Meets (.chwait { W with a := 2, imm := 2 }) (channel 2) (fun x => chan 2 .read x = some 2)
    ∧ Meets (.chwait { W with a := 2, d := 63 }) (channel 0) (fun x => chan 0 .read x = some 0)
    ∧ Meets (.chwait { W with a := 3 }) there (fun x => (match readChan there x.unit 0 .read .plain (x.low.getS 3) with | .error (.stop n) => n == 18 | _ => false) = true)
    ∧ Meets (.chrel { W with a := 2, imm := 1 }) (channel 2) (fun x => chan 2 .write x = some 2 ∧ logFits (channel 2) x.unit (entriesFor x.unit 1 0) = true)
    ∧ Meets (.chrel { W with a := 2, imm := 2 }) (channel 2) (fun x => chan 2 .write x = some 2)
    ∧ Meets (.rowbar { W with a := 2, b := 9 }) (channel 1) (fun x => chan 1 .read x = some 1 ∧ (x.low.getS 9).toNat = 1)
    ∧ Meets (.rowbar { W with a := 2, b := 9 }) (channel 0) (fun x => chan 0 .read x = some 0)
    ∧ Meets (.rowbar { W with a := 2, b := 10 }) (channel 0) (fun x => chan 0 .read x = some 0 ∧ 2 < (x.low.getS 10).toNat) := by
  refine ⟨?_, ?_, ?_, ?_, ?_, ?_, ?_, ?_, ?_, ?_⟩ <;> exact meets (by decide)

theorem test_meets_Branches : Meets (.br { off := -1 }) base (fun _ => True) ∧ Meets (.call { off := 1 }) base (fun _ => True)
    ∧ Meets (.brc { I with imm := 0x8000 }) base (fun x => condition 0 (x.low.getS 0).toInt 0 = true)
    ∧ Meets (.brc { I with d := 13 }) base (fun x => condition 5 (x.low.getS 0).toNat 0 = true) := by
  refine ⟨?_, ?_, ?_, ?_⟩ <;> exact meets (by decide)

/-- Slices with the tokens given. -/
def tokens (ts : List Token) : State := gang (fun t => { t with tokens := ts }) id
def aBranch : Token := .branch 0xF 3 0 0x1100 0x1200
def aLoop : Token := .loop 0xF 0x1200
def aCall (calling : Bool) (todo : BitVec 4) : Token := .call 0xF todo (Vector.replicate 4 0x1400) 0x1000 0x1004 calling
theorem test_meets_Divergence :
    Meets (.brv { I with d := 1 }) (tokens (List.replicate 15 aBranch)) (fun x => ∀ t ∈ x.slices, t.tokens.length < 16)
    ∧ Meets (.brv { I with d := 7 }) (tokens (List.replicate 16 aBranch)) (fun x => ∀ t ∈ x.slices, 16 ≤ t.tokens.length)
    ∧ Meets (.join W) (tokens [aBranch]) (fun x => ∀ t ∈ x.slices, t.tokens = [aBranch])
    ∧ Meets (.join W) base (fun x => ∀ t ∈ x.slices, t.tokens = []) ∧ Meets (.join W) (tokens [aLoop]) (fun x => ∀ t ∈ x.slices, t.tokens = [aLoop])
    ∧ Meets (.loopb I) base (fun x => ∀ t ∈ x.slices, t.mask ≠ 0) ∧ Meets (.loopb I) (gang (fun t => { t with mask := 0 }) id) (fun x => ∀ t ∈ x.slices, t.mask = 0)
    ∧ Meets (.loope { off := -4 }) (tokens [aLoop]) (fun x => ∀ t ∈ x.slices, t.tokens = [aLoop])
    ∧ Meets (.loope { off := -4 }) (tokens [aBranch]) (fun x => ∀ t ∈ x.slices, t.tokens = [aBranch])
    ∧ Meets (.brk { I with d := 0 }) (tokens [aBranch, aLoop]) (fun x => ∀ t ∈ x.slices, t.tokens = [aBranch, aLoop])
    ∧ Meets (.brk { I with d := 0 }) (tokens [aBranch]) (fun x => ∀ t ∈ x.slices, t.tokens = [aBranch]) ∧ Meets (.brk I) base (fun x => ∀ t ∈ x.slices, t.tokens = []) := by
  refine ⟨?_, ?_, ?_, ?_, ?_, ?_, ?_, ?_, ?_, ?_, ?_, ?_⟩ <;> exact meets (by decide)

/-- A link table at s61 whose entries hold `e`. -/
def linked (e : Nat) (f : Slice → Slice) : State :=
  let s := gang (fun t => f (setS 61 0x20000 t)) id
  { s with mem := s.mem.writeBytes 0x4000000 (leBytes e 8) }
def entries (t : Slice) (l : Fin 4) : Option W64 := some (t.getS 61 + BitVec.ofNat 64 (8 * (t.getV 1 l).toNat))
theorem test_meets_Calls :
    Meets (.calli { W with a := 1 }) (linked 0x1401 id) (fun x => laneMisaligned x 0 8 (fun t => t.getS 61) = none
      ∧ laneClean (linked 0x1401 id) x .read .plain 8 entries = true ∧ laneBad (laneAccesses (linked 0x1401 id) x 0 .read .plain entries) = []
      ∧ ∀ t ∈ x.slices, t.tokens.length < 16)
    ∧ Meets (.calli { W with a := 1 }) (linked 0x1400 id) (fun x => laneClean (linked 0x1400 id) x .read .plain 8 entries = true)
    ∧ Meets (.calli { W with a := 1 }) (linked 0x1401 (fun t => { t with tokens := [aCall false 1] })) (fun x => ∀ t ∈ x.slices, resolving t = true)
    ∧ Meets (.calli { W with a := 1 }) (linked 0x1401 (fun t => { t with tokens := List.replicate 16 aLoop })) (fun x =>
      ∃ t ∈ x.slices, resolving t = false ∧ actOf t 0 ≠ 0 ∧ 16 ≤ t.tokens.length)
    ∧ Meets (.calli { W with a := 1 }) (linked 0x1401 (setS 61 0x20001)) (fun x => laneMisaligned x 0 8 (fun t => t.getS 61) ≠ none)
    ∧ Meets (.ret { W with a := 60 }) (gang (setS 60 0x1002) id) (fun x => ((x.slices.map (fun t => t.getS 60)).find? (fun va => va.toNat % 4 != 0)).isSome = true)
    ∧ Meets (.ret { W with a := 9 }) (gang (fun t => (setS 9 0x1004 { t with tokens := [aCall true 2] }).emptyS 60) id) (fun x =>
      ∃ t ∈ x.slices, retCalls 9 t = true ∧ t.fullS 60 = false)
    ∧ Meets (.ret { W with a := 60 }) (gang (fun t => setS 60 0x1004 { t with tokens := [aCall true 2] }) id) (fun x => ∀ t ∈ x.slices, retCalls 60 t = true)
    ∧ Meets (.ret { W with a := 60 }) base (fun x => ∀ t ∈ x.slices, retCalls 60 t = false) := by
  refine ⟨?_, ?_, ?_, ?_, ?_, ?_, ?_, ?_, ?_⟩ <;> exact meets (by decide)

def parted (u : Machine.Unit) : Machine.Unit := { u with slices := u.slices.map (fun t => { t with grp := t.idx }) }
theorem test_meets_StreamsAndTime :
    Meets (.brw W) base (fun x => ∃ t ∈ x.slices, t.stream 0 = none)
    ∧ Meets (.brw { W with imm := 2 }) (gang (fun t => t.putStream 0 (some { walk := walkOf 0, pos := 0, flags := 4 })) id) (fun x => ∀ t ∈ x.slices, t.stream 0 ≠ none)
    ∧ Meets (.regang W) base (fun x => x.unit.joined = true)
    ∧ Meets (.regang W) { gang id parted with focus := base.focus.map (fun f => { f with slices := [0] }) } (fun x => x.unit.joined = false)
    ∧ Meets (.tickw W) base (fun x => ∀ t ∈ x.slices, (t.getS 0).toNat ≤ base.gtick.toNat)
    ∧ Meets (.tickw { W with a := 9 }) there (fun x => (∃ t ∈ x.slices, t.getS 9 = 1) ∧ (∀ t ∈ x.slices, (t.getS 9).toNat ≤ 1) ∧ there.gtick.toNat < 1)
    ∧ Meets (.setpl { W with a := 2 }) there (fun x => 4 < (x.low.getS 2).toNat) ∧ Meets (.setpl { W with a := 9 }) there (fun x => (x.low.getS 9).toNat ≤ 4) := by
  refine ⟨?_, ?_, ?_, ?_, ?_, ?_, ?_, ?_⟩ <;> exact meets (by decide)

theorem test_meets_ExitAndRound :
    ∀ i ∈ [Instr.exit W, .wbar W], Meets i (kindOf .sluice) (fun x => x.unit.id.kind = .sluice) ∧ Meets i (kindOf .harrow) (fun x => x.unit.id.kind = .harrow)
      ∧ Meets i base (fun x => x.unit.id.kind ≠ .sluice ∧ x.unit.id.kind ≠ .harrow ∧ logFits base x.unit (entriesFor x.unit 0 2) = true ∧ x.unit.quiet = true)
      ∧ Meets i (places id unquiet) (fun x => x.unit.quiet = false) := by
  simp only [List.forall_mem_cons]
  refine ⟨⟨?_, ?_, ?_, ?_⟩, ⟨?_, ?_, ?_, ?_⟩, by simp⟩ <;> exact meets (by decide)

/-- Roles 1 and 2 with the members given, a group barrier 0 of `gs`, and payloads `hs`. -/
def bound (r1 r2 : List UnitId) (gs : List GroupState) (hs : List Handover) : State :=
  { base with teams := base.teams.map (fun t => { t with roles := [(1, r1), (2, r2)], groups := gs, hand := hs }) }
def other : UnitId := { core := 1, kind := .gang, slot := 0 }
def payload (pass : Nat) : Handover := { off := 0x1000, pass := pass, scalar := 7, vec := [], toRole := 2, taken := [], slices := [] }
def hand12 : WArgs := { W with imm := 0x11 }
/-- What the statement asks for: whether the unit sends, takes, whether the roles are sound, whether a payload of the pass is there, and whether every payload of the offset is taken. -/
def hands (s : State) (x : Issue) : Bool × Bool × Bool × Bool × Bool :=
  match s.team? x.unit.team with
  | none => (false, false, false, false, false)
  | some t =>
    let m (r : Nat) : List UnitId := ((t.roles.find? (fun e => e.1 == r)).map (fun e => e.2)).getD []
    ((m 1).contains x.unit.id, (m 2).contains x.unit.id, (m 1).length == 1 && m 2 != [],
      t.hand.any (fun h => h.off == 0x1000 && h.pass == 1), t.hand.all (fun h => h.off != 0x1000 || payloadTaken s t h))
def barrier0 (gen : Nat) : GroupState := { num := 0, members := [me, other], gen := gen, arrived := [] }
theorem test_meets_HandOver :
    Meets (.hand hand12) (bound [other] [other] [] []) (fun x => hands (bound [other] [other] [] []) x = (false, false, true, false, true))
    ∧ Meets (.hand hand12) (bound [me, other] [other] [] []) (fun x => hands (bound [me, other] [other] [] []) x = (true, false, false, false, true))
    ∧ Meets (.hand hand12) (bound [me] [other] [] []) (fun x => hands (bound [me] [other] [] []) x = (true, false, true, false, true) ∧ x.slices.all (fun y => y.fullS 0) = true)
    ∧ Meets (.hand hand12) (bound [other] [me] [] []) (fun x => hands (bound [other] [me] [] []) x = (false, true, true, false, true))
    ∧ Meets (.hand hand12) (bound [other] [me] [] [payload 1]) (fun x => hands (bound [other] [me] [] [payload 1]) x = (false, true, true, true, false))
    ∧ Meets (.hand hand12) (bound [me] [me] [] [payload 0]) (fun x => hands (bound [me] [me] [] [payload 0]) x = (true, true, true, false, false))
    ∧ Meets (.hand hand12) { base with teams := [] } (fun x => ({ base with teams := [] } : State).team? x.unit.team = none)
    ∧ Meets (.bara W) base (fun x => barrierOf base x.unit 0 = none)
    ∧ Meets (.bara W) (bound [] [] [barrier0 0] []) (fun x => (barrierOf (bound [] [] [barrier0 0] []) x.unit 0).isSome = true ∧ countOf x.unit.arrived 0 ≤ 0)
    ∧ Meets (.barw W) base (fun x => barrierOf base x.unit 0 = none)
    ∧ Meets (.barw W) (bound [] [] [barrier0 0] []) (fun x => (barrierOf (bound [] [] [barrier0 0] []) x.unit 0).map (fun b => b.2.gen) = some 0)
    ∧ (∀ i ∈ [Instr.bara W, .barw W], Meets i { bound [] [] [barrier0 0] [] with units := (gang id (fun u => { u with arrived := [(0, 1)] })).units } (fun x =>
      (barrierOf (bound [] [] [barrier0 0] []) x.unit 0).isSome = true ∧ 0 < countOf x.unit.arrived 0)) := by
  simp only [List.forall_mem_cons]
  refine ⟨?_, ?_, ?_, ?_, ?_, ?_, ?_, ?_, ?_, ?_, ?_, ?_, ?_, by simp⟩ <;> exact meets (by decide)

/-- Queue 5 of one slot, fed by launches of context 0, with `w` records in it. -/
def fed (w : W32) : State :=
  { there with queues := there.queues.set 5 { there.queue 5 with opened := true, dev := true, nslot := 1, rbase := 0xA000000, cbase := 0xB000000, ncomp := 1, wptr := w }
               contexts := there.contexts.set 0 { there.ctx 0 with qmask := 0x20 } }
def record192 (s : State) (x : Issue) : Bool :=
  isOk (scalarPlaces s x.unit .read .plain ((List.range 24).map (fun k => (x.low, x.low.getS 3 + BitVec.ofNat 64 (8 * k))))) && logFits s x.unit (entriesFor x.unit 1 0)
theorem test_meets_LaunchInstruction :
    Meets (.launch { W with a := 5, imm := 63 }) there (fun x => (x.low.getS 5).toNat % 64 ≠ 0)
    ∧ Meets (.launch { W with a := 3, imm := 5 }) (fed 0) (fun x => record192 (fed 0) x = true ∧ ((fed 0).queue 5).serves = true
      ∧ ((fed 0).ctx x.unit.ctx).qmask.getLsbD 5 = true)
    ∧ Meets (.launch { W with a := 3, imm := 5 }) (fed 1) (fun x => record192 (fed 1) x = true ∧ ((fed 1).queue 5).nslot.toNat ≤ (((fed 1).queue 5).wptr - ((fed 1).queue 5).rptr).toNat)
    ∧ Meets (.launch { W with a := 3, imm := 63 }) there (fun x => record192 there x = true ∧ (there.queue 63).dev = false) := by
  refine ⟨?_, ?_, ?_, ?_⟩ <;> exact meets (by decide)

/-- A management core's gang; context 0 is live; s9 = 1, s10 = all ones. -/
def managing : State :=
  let s := kindOf .mgmt
  { s with contexts := s.contexts.set 0 { s.ctx 0 with live := true }
           units := s.units.map (fun u => { u with slices := u.slices.map (fun t => (setS 10 (-1) (setS 9 1 t))) }) }
theorem test_meets_SystemRegisters :
    Meets (.sysr { W with imm := 0x52 }) base (fun x => x.unit.isS = false) ∧ Meets (.sysr { W with imm := 0x52 }) managing (fun x => x.unit.isS = true)
    ∧ Meets (.sysr { W with imm := 0x42 }) base (fun x => x.unit.isS = false)
    ∧ Meets (.sysw { W with imm := 0x30 }) managing (fun _ => True) ∧ Meets (.sysw { W with imm := 0x20 }) base (fun x => x.unit.isS = false)
    ∧ Meets (.sysw { W with imm := 3, a := 10 }) managing (fun x => ∃ t ∈ x.slices, registerForm 3 (t.getS 10) = false)
    ∧ Meets (.sysw { W with imm := 3, a := 9 }) managing (fun x => ∀ t ∈ x.slices, registerForm 3 (t.getS 9) = true)
    ∧ Meets (.sysw { W with imm := 4, a := 10 }) managing (fun x => ∃ t ∈ x.slices, registerForm 4 (t.getS 10) = false)
    ∧ Meets (.sysw { W with imm := 4, a := 9 }) managing (fun x => ∀ t ∈ x.slices, registerForm 4 (t.getS 9) = true)
    ∧ Meets (.sysw { W with imm := 5 }) base (fun _ => True)
    ∧ Meets (.sysw { W with imm := 0x31, a := 10 }) managing (fun x => x.unit.isS = true ∧ registerForm 0x31 (x.low.getS 10) = false)
    ∧ Meets (.sysw { W with imm := 0x52, a := 9 }) managing (fun x => x.unit.isS = true ∧ registerForm 0x52 (x.low.getS 9) = true)
    ∧ (∀ i ∈ [Instr.sysrCtx W, .syswCtx { W with imm := 0x31 }], Meets i base (fun x => x.unit.isS = false)
      ∧ Meets i managing (fun x => x.unit.isS = true ∧ (x.low.getS 0).toNat < 64 ∧ (managing.ctx 0).live = true ∧ registerForm 0x31 (x.low.getS 0) = true
        ∧ (managing.unit? x.unit.id).isSome = true))
    ∧ (∀ i ∈ [Instr.sysrCtx { W with b := 10 }, .syswCtx { W with b := 10 }], Meets i managing (fun x => x.unit.isS = true ∧ 64 ≤ (x.low.getS 10).toNat))
    ∧ Meets (.sysrCtx { W with b := 9 }) managing (fun _ => (managing.ctx 1).live = false) := by
  simp only [List.forall_mem_cons]
  refine ⟨?_, ?_, ?_, ?_, ?_, ?_, ?_, ?_, ?_, ?_, ?_, ?_, ⟨⟨?_, ?_⟩, ⟨?_, ?_⟩, by simp⟩, ⟨?_, ?_, by simp⟩, ?_⟩ <;> exact meets (by decide)

theorem test_meets_SupervisorCalls :
    (∀ i ∈ [Instr.tlbinvPage W, .tlbinvCtx W, .tlbinvAll W], Meets i base (fun x => x.unit.isS = false) ∧ Meets i managing (fun x => x.unit.isS = true))
    ∧ Meets (.ecall W) managing (fun x => x.unit.isS = true)
    ∧ Meets (.ecall { W with imm := 0xFFFF }) base (fun x => x.unit.isS = false ∧ (base.ecalls.filter (fun r => r.die == coreDie x.unit.id.core)).length < Config.ecallRequestsPerDie
      ∧ logFits base x.unit (entriesFor x.unit 1 0) = true)
    ∧ Meets (.flushw W) base (fun x => base.log.filter (fun e => e.of x.unit && e.spilled == none) = []) := by
  simp only [List.forall_mem_cons]
  refine ⟨⟨⟨?_, ?_⟩, ⟨?_, ?_⟩, ⟨?_, ?_⟩, by simp⟩, ?_, ?_, ?_⟩ <;> exact meets (by decide)

/-- A log that holds one entry of the gang, with room in its ring. -/
def logged : State :=
  match base.unit? me with | some u => logMark base u 3 0x1000 | none => base
theorem test_meets_SupervisorCalls_flush : Meets (.flushw W) logged (fun x =>
    let mine := logged.log.filter (fun e => e.of x.unit && e.spilled == none)
    let ring := ringState logged x.unit.ctx x.unit.id.core x.unit.logbase x.unit.logsz
    mine ≠ [] ∧ mine.length ≤ ring.2.2 - (ring.1 - ring.2.1) / 32 ∧ ((spill logged mine).unit? x.unit.id).isSome = true) := meets (by decide)

theorem test_meets_TrapsAndReturns :
    Stands base (fun _ => True) ∧ Meets (.trap { W with imm := 255 }) base (fun _ => True) ∧ Meets (.brkpt { W with imm := 255 }) base (fun _ => True)
    ∧ (∀ i ∈ [Instr.tretNext W, .tretReplay W, .tretReex W], Meets i base (fun x => x.unit.handler = none)
      ∧ Meets i handling (fun x => x.unit.handler.map (fun hs => x.js.all (fun j => hs.contains j)) = some true ∧ x.unit.direct = [])
      ∧ Meets i (gang id (fun u => { u with handler := some [0, 1], direct := [{ slice := 0, dest := 0, pa := 0, va := 0, bytes := [1], win := 1, after := 0, page := (0x100000, 4096) }] })) (fun x =>
        ∃ d ∈ x.unit.direct, d.slice ∈ x.js)) := by
  refine ⟨stands (by decide), ?_, ?_, ?_⟩
  · exact meets (by decide)
  · exact meets (by decide)
  · simp only [List.forall_mem_cons]
    refine ⟨⟨?_, ?_, ?_⟩, ⟨?_, ?_, ?_⟩, ⟨?_, ?_, ?_⟩, by simp⟩ <;> exact meets (by decide)

theorem test_meets_ReturnPoints : (0xF : LaneSet) ≠ 0 ∧ (startSlice 0 0 0 0 0 0).tokens = []
    ∧ ({ startSlice 0x1000 0 0 0 0 0 with tokens := [aCall false 1] } : Slice).tokens = [.call 0xF 1 (Vector.replicate 4 0x1400) 0x1000 0x1004 false]
    ∧ TretMode.next ≠ .replay := by decide

/-- Numbers in s9: 1 and in s10: 62 and in s11: 56; v1 empty in `e`. -/
def numbered (e : Bool) (g : Machine.Unit → Machine.Unit) : State :=
  gang (fun t => let t := (setS 11 56 (setS 10 62 (setS 9 1 t))); if e then (t.emptyV 1 false).emptyV 62 true else t) g
theorem test_meets_LaneAccess :
    Meets (.laneinfo { W with imm := 6 }) base (fun _ => True) ∧ Meets (.laneinfoV W) base (fun _ => True) ∧ Meets (.laneinfoClr W) base (fun _ => True)
    ∧ (∀ i ∈ [Instr.vrdn { W with a := 9, imm := 2 }, .vwrn { W with a := 9, imm := 2 }], Meets i (numbered false id) (fun x => ∃ t ∈ x.slices, (t.getS 9).getLsbD 0 = true))
    ∧ (∀ i ∈ [Instr.vrdn { W with a := 9 }, .vwrn { W with a := 9 }], Meets i (numbered true id) (fun x => ∃ t ∈ x.slices, t.fullV 1 false = false)
      ∧ Meets i (numbered false id) (fun x => ∀ t ∈ x.slices, t.fullV 1 false = true))
    ∧ (∀ i ∈ [Instr.vrdn { W with a := 10, imm := 3 }, .vwrn { W with a := 10, imm := 3 }], Meets i (numbered false id) (fun x =>
      (∀ t ∈ x.slices, (t.getS 10).getLsbD 0 = false) ∧ ∀ t ∈ x.slices, t.fullS 62 = true ∧ t.fullS 63 = true))
    ∧ (∀ i ∈ [Instr.vrdn { W with d := 2, a := 11, imm := 2 }, .vwrn { W with b := 2, a := 11, imm := 2 }], Meets i (numbered true (fun u => { u with handler := some [0, 1] })) (fun x =>
      x.unit.handler.map (fun hs => x.js.all (fun j => hs.contains j)) = some true ∧ ∀ t ∈ x.slices, t.getS 11 = 56)) := by
  simp only [List.forall_mem_cons]
  refine ⟨?_, ?_, ?_, ⟨?_, ?_, by simp⟩, ⟨⟨?_, ?_⟩, ⟨?_, ?_⟩, by simp⟩, ⟨?_, ?_, by simp⟩, ⟨?_, ?_, by simp⟩⟩ <;> exact meets (by decide)

/-- Context 0 with DBGCTL `d` and a stop at region 7. -/
def debugged (d : W32) (rs : List (BitVec 16)) : State :=
  let s := gang (fun t => { t with regions := rs }) id
  { s with contexts := s.contexts.set 0 { s.ctx 0 with dbgctl := d, regions := Vector.replicate 16 (some 7) } }
def lastWindow : State := gang id (fun u => { u with winno := 0xFFFFFFFF })

/-- Under DROP-OLDEST, outside transactions, the log makes room for any number of entries. -/
theorem room_of_drop {s : State} {u : Machine.Unit} (k : Nat) (ht : u.txn = none) (hp : u.logpol.getLsbD 0 = false)
    (hs : ∀ x ∈ s.units, x.txn = none) : ∃ r, makeRoom s u k = .room r := by
  unfold makeRoom
  split
  · exact ⟨_, rfl⟩
  · simp only [ht, hp, Option.isSome_none, Bool.false_eq_true, if_false]
    split
    · rename_i h
      obtain ⟨x, hx, hh⟩ := List.any_eq_true.mp h
      simp [hs x hx] at hh
    · split <;> exact ⟨_, rfl⟩

theorem test_meets_checkpoint : ∀ i ∈ [Instr.wmark W, .tbegin W, .rgne { W with imm := 7 }], ∀ s ∈ [base, debugged 2 []],
    ∃ x, Issues i s x ∧ x.unit.joined = true ∧ x.unit.winno ≠ 0xFFFFFFFF ∧ ∃ r, makeRoom s x.unit (checkpointSize x.unit allLive allLive) = .room r := by
  have h : ∀ i ∈ [Instr.wmark W, .tbegin W, .rgne { W with imm := 7 }], ∀ s ∈ [base, debugged 2 []], Meets i s (fun x =>
      x.unit.joined = true ∧ x.unit.winno ≠ 0xFFFFFFFF ∧ x.unit.txn = none ∧ x.unit.logpol.getLsbD 0 = false ∧ ∀ y ∈ s.units, y.txn = none) := by
    simp only [List.forall_mem_cons]
    refine ⟨⟨?_, ?_, by simp⟩, ⟨?_, ?_, by simp⟩, ⟨?_, ?_, by simp⟩, by simp⟩ <;> exact meets (by decide)
  intro i hi s hs
  obtain ⟨x, hx, hj, hw, ht, hp, hy⟩ := h i hi s hs
  exact ⟨x, hx, hj, hw, room_of_drop _ ht hp hy⟩

theorem test_meets_RecoveryInstructions :
    Meets (.wmark W) { base with focus := base.focus.map (fun f => { f with slices := [0] }) } (fun x =>
      ∃ t ∈ x.unit.slices.filter (fun t => t.run != .exited && !x.js.contains t.idx), atWmark t = false)
    ∧ Meets (.wmark W) lastWindow (fun x => x.unit.slices.filter (fun t => t.run != .exited && !x.js.contains t.idx) = []
      ∧ x.unit.winno = 0xFFFFFFFF ∧ logFits lastWindow x.unit 0 = true)
    ∧ Meets (.wmarkDrop W) base (fun _ => True)
    ∧ (∀ i ∈ [Instr.undo { W with a := 9 }, .undoTeam { W with a := 9 }], Meets i base (fun x => x.unit.isS = false)
      ∧ Meets i managing (fun x => x.unit.isS = true ∧ (x.low.getS 9).toNat < 2 ^ 24 ∧ (x.low.getS 0).toNat < 2 ^ 48
        ∧ (match reverseStep managing 1 0 0 0 false true with | .status n s' => n == 6 && (s'.unit? x.unit.id).isSome | _ => false) = true))
    ∧ (∀ i ∈ [Instr.undo { W with a := 10 }, .undoTeam { W with a := 10 }], Meets i managing (fun x => x.unit.isS = true ∧ 2 ^ 24 ≤ (x.low.getS 10).toNat))
    ∧ Meets (.tbegin W) lastWindow (fun x => x.unit.joined = true ∧ x.unit.winno = 0xFFFFFFFF)
    ∧ Meets (.tbegin W) { gang id parted with focus := base.focus.map (fun f => { f with slices := [0] }) } (fun x => x.unit.joined = false)
    ∧ Meets (.tcommit W) base (fun x => x.unit.txn = none) ∧ Meets (.tabort W) base (fun x => x.unit.txn = none)
    ∧ Meets (.tcommit W) (inTxn false) (fun x => x.unit.txn.map (fun t => t.doomed) = some false ∧ x.unit.count 2 = 0 ∧ logFits (inTxn false) x.unit 1 = true)
    ∧ Meets (.tcommit W) (inTxn true) (fun x => x.unit.txn.map (fun t => t.doomed) = some true ∧ x.unit.count 2 = 0)
    ∧ Meets (.tcommit W) (gang id (fun u => { addOp u 2 9 1 false with txn := some (txn0 false u.slices) })) (fun x => x.unit.txn.isSome = true ∧ x.unit.count 2 ≠ 0)
    ∧ Meets (.tabort { W with imm := 0xFFFF }) (inTxn false) (fun x => x.unit.txn ≠ none) := by
  simp only [List.forall_mem_cons]
  refine ⟨?_, ?_, ?_, ⟨⟨?_, ?_⟩, ⟨?_, ?_⟩, by simp⟩, ⟨?_, ?_, by simp⟩, ?_, ?_, ?_, ?_, ?_, ?_, ?_, ?_⟩ <;> exact meets (by decide)

theorem test_meets_RecoveryInstructions_regions :
    Meets (.rgne { W with imm := 7 }) (debugged 0 []) (fun x => ((debugged 0 []).ctx x.unit.ctx).dbgctl = 0 ∧ ∀ t ∈ x.slices, t.regions.length < 16)
    ∧ Meets (.rgne { W with imm := 7 }) (debugged 1 []) (fun x => ((debugged 1 []).ctx x.unit.ctx).regions.toList.contains (some 7) = true)
    ∧ Meets (.rgne { W with imm := 7 }) (debugged 3 (List.replicate 15 7)) (fun x => ∀ t ∈ x.slices, t.regions.length = 15)
    ∧ Meets (.rgne W) (debugged 2 (List.replicate 16 7)) (fun x => ∃ t ∈ x.slices, 16 ≤ t.regions.length)
    ∧ Meets (.rgnl W) (debugged 0 []) (fun x => ∃ t ∈ x.slices, t.regions = []) ∧ Meets (.rgnl W) (debugged 1 [7]) (fun x => ∀ t ∈ x.slices, t.regions = [7])
    ∧ Meets (.rgnl W) (debugged 0 [7]) (fun x => ∀ t ∈ x.slices, t.regions = [7]) := by
  refine ⟨?_, ?_, ?_, ?_, ?_, ?_, ?_⟩ <;> exact meets (by decide)

/-! Windows beyond the scratchpad, registers that are not full, full queues, places and rings, a frame between words, direct stores to the frame. -/
def placed (s : State) (x : Issue) (acc : Access) (r : Reg) : Bool := isOk (cmdPlace s x.unit x.unit.id.core acc .matrix true (x.low.getS r))
def crookedFrame : State :=
  let s := handling
  { s with mem := (s.mem.writeBytes (scratchPa 0 0 + Config.frameBase) (leBytes 0x1002 8)).writeBytes (scratchPa 0 0 + Config.frameBase + 40) [3] }
def storingFrame (u : Machine.Unit) : Machine.Unit :=
  { u with handler := some [0, 1], direct := [{ slice := 0, dest := 0, pa := scratchPa 0 0 + Config.frameBase + 256, va := 0, bytes := [1], win := 1, after := 0, page := (0x100000, 4096) }] }
def asking (n : Nat) : State :=
  { base with ecalls := List.replicate n { unit := me, team := 0, slice := 1, ctx := 0, pc := 0x1000, n := 0, args := [], die := 0 } }
theorem test_meets_commands_held :
    (∀ i ∈ [Instr.cpLd { W with d := 2, a := 2 }, .cpSt { W with d := 2, a := 2 }], Meets i there (fun x => placed there x .write 2 = true ∧ placed there x .read 2 = true))
    ∧ Meets (.cpLd { W with d := 4, a := 2 }) (stepped 0 0x900000 0) (fun x => placed (stepped 0 0x900000 0) x .write 4 = false ∧ (x.low.getS 4).toNat % 64 = 0)
    ∧ Meets (.cpSt { W with d := 5, a := 2, imm := 0xFFF1 }) (stepped 0 0 0x12FFC0) (fun x => placed (stepped 0 0 0x12FFC0) x .read 5 = true
      ∧ (read? (cmdPlace (stepped 0 0 0x12FFC0) x.unit 0 .read .matrix true (x.low.getS 5))).map (fun p => p.1 % 2 ^ 18) = some (2 ^ 18 - 64))
    ∧ Meets (.kst { W with a := 3, d := 10 }) { gang (fun t => (setS 3 0x20000 t).emptyV 11 false) id with mem := (head 8).mem } (fun x =>
      ∃ t ∈ x.slices, t.fullV 11 false = false)
    ∧ Meets (.kst { W with a := 3, d := 1 }) ((head 7).setCore { (head 7).coreAt 0 with sluice := copies 32 }) (fun x => (x.low.getS 3).toNat % 128 = 0)
    ∧ Meets (.kst { W with a := 4, d := 1 }) there (fun x => (x.low.getS 4).toNat % 128 = 0
      ∧ isOk (cmdRead there x.unit { held := x.unit.fenced, may := x.unit.own } x.unit.id.core false (x.low.getS 4 + 50) 1) = false)
    ∧ Meets (.bgather { W with a := 3, imm := 2, b := 1 }) crowded (fun x => 32 ≤ (crowded.coreAt x.unit.id.core).sluice.length)
    ∧ Meets (.cpstage W) ((scheduled 0x100000 0).setCore { (scheduled 0x100000 0).coreAt 0 with sluice := copies 32 }) (fun x =>
      ((launchOf (scheduled 0x100000 0) x.unit).bind (fun l => l.sched[0]?)).isSome = true)
    ∧ Meets (.chwait { W with a := 2 }) { channel 2 with poison := [scratchPa 0 0] } (fun x => isOk (readChan { channel 2 with poison := [scratchPa 0 0] } x.unit 0 .read .plain (x.low.getS 2)) = false)
    ∧ Meets (.launch { W with a := 10 }) weighing (fun x => refreshing weighing [0x10000000000] = true ∧ (x.low.getS 10).toNat % 64 = 0
      ∧ isOk (scalarPlaces weighing x.unit .read .plain ((List.range 24).map (fun k => (x.low, x.low.getS 10 + BitVec.ofNat 64 (8 * k))))) = true)
    ∧ Meets (.launch { W with a := 4 }) there (fun x => (x.low.getS 4).toNat % 64 = 0 ∧ (err? (scalarPlaces there x.unit .read .plain [(x.low, x.low.getS 4)])).isSome = true)
    ∧ Meets (.ecall W) (asking Config.ecallRequestsPerDie) (fun x =>
      Config.ecallRequestsPerDie ≤ ((asking Config.ecallRequestsPerDie).ecalls.filter (fun r => r.die == coreDie x.unit.id.core)).length)
    ∧ Meets (.tretNext W) crookedFrame (fun x => x.unit.handler = some [0, 1] ∧ x.unit.direct = []
      ∧ (trapReturn crookedFrame x.unit .reex).slices.any (fun t => (frameSlices crookedFrame x.unit).contains t.idx && t.run != .exited && t.pc.toNat % 4 != 0) = true)
    ∧ Meets (.vrdn { W with a := 11, imm := 1 }) (numbered false storingFrame) (fun x => ∃ d ∈ x.unit.direct,
      d.pa < scratchPa 0 0 + Config.frameBase + Config.frameBytes ∧ scratchPa 0 0 + Config.frameBase < d.pa + d.bytes.length)
    ∧ Meets (.hand hand12) (bound [me] [other] [] []) (fun x => x.slices.all (fun y => y.fullS 0) = true)
    ∧ (let s := gang (fun t => t.emptyS 0) id; Meets (.hand hand12) { s with teams := (bound [me] [other] [] []).teams } (fun _ => True)) := by
  simp only [List.forall_mem_cons]
  refine ⟨⟨?_, ?_, by simp⟩, ?_, ?_, ?_, ?_, ?_, ?_, ?_, ?_, ?_, ?_, ?_, ?_, ?_, ?_, ?_⟩ <;> exact meets (by decide +kernel)

/-! ### The device's steps -/

/-- A package that dispatches, with context 0 live, a code object of its own, and queue 0 of one slot with the record `x` in it. -/
def object : CodeObject := { handle := 1, image := [], textPa := 0x1000, size := 0x1000, rolemap := [], imports := 0, safe := [], spad := [], stack := 0 }
def ref0 (retiring : Bool) : CodeRef := { ctx := 0, handle := 1, textVa := 0x1000, retiring := retiring, importBase := 0, spadVa := 0x100000, spad := [] }
def package (x : Nat) : State :=
  let s := { State.reset with agenda := [], loaded := some 0, objects := [object], refs := [ref0 false], mem := Mem.writeBytes [] 0xA000000 (leBytes x 192) }
  { s with contexts := s.contexts.set 0 { s.ctx 0 with live := true }
           queues := s.queues.set 0 { s.queue 0 with opened := true, nslot := 1, rbase := 0xA000000, cbase := 0xB000000, ncomp := 1, wptr := 1 } }
/-- A record that runs: CODE 1, one team of one core, class 1. -/
def goodRecord : Nat := 1 + 2 ^ 96 + 2 ^ 133
/-- A head in the distributor, its gate passed or at 0x20000. -/
def headed (gateOk : Bool) (rec_ : LaunchRec) : State :=
  { package 0 with launches := [{ placedLaunch with gateOk := gateOk, placed := 0, record := rec_ }], tlb := base.tlb }
def slots (a b : W32 × W32) : State :=
  { State.reset with images := #v[{ State.reset.images[0] with seq := a.1, crc := a.2 }, { State.reset.images[1] with seq := b.1, crc := b.2 }] }
/-- The placed team of `base`, changed. -/
def teamed (f : Team → Team) : State := { package 0 with teams := base.teams.map f, launches := base.launches, units := base.units, tlb := base.tlb }
def waiting (w : Wait) : State := gang (fun t => { t with run := .parked w 4 false }) id

theorem test_meets_LaunchPath_images :
    (let s := slots (1, 0) (0, 0); s.loaded = none ∧ s.images[0].crc = crc32c s.images[0].body.bytes ∧ newer s.images[0].seq s.images[1].seq = true)
    ∧ (let s := slots (0, 1) (0, 1); s.loaded = none ∧ s.images[0].crc ≠ crc32c s.images[0].body.bytes ∧ s.images[1].crc ≠ crc32c s.images[1].body.bytes)
    ∧ ({ State.reset with pkgstat := .resetHold } : State).pkgstat = .resetHold := by decide

theorem test_meets_LaunchPath_accept :
    canAccept (package goodRecord) 0 = true ∧ canAccept (package 2) 0 = true
    ∧ isOk (examineLaunch (package goodRecord) 0 0 0 goodRecord) = true ∧ (err? (examineLaunch (package 2) 0 0 0 2)).isSome = true := by decide +kernel

theorem test_meets_LaunchPath_place :
    (let s := headed false { placedRecord with gate := 0x20000 }; (s.launch? 0).any (fun l => !l.gateOk && (gateWord s l).isSome) = true)
    ∧ (placementChoice (headed true placedRecord)).isSome = true ∧ placementChoice (package 0) = none
    ∧ (let s := teamed (fun t => { t with started := false }); (s.team? 0).any (fun t => canStart s t && (s.launch? t.launch).any (fun l => (launchRef s l).isSome)) = true) := by
  decide +kernel

theorem test_meets_LaunchPath_end :
    (let s := { teamed id with units := (waiting .wbar).units }; (s.launch? 0).any (roundOver s) = true)
    ∧ ((teamed id).launch? 0).any (fun l => !roundOver (teamed id) l) = true
    ∧ (let s := teamed (fun t => { t with ended := true }); (s.team? 0).any (fun t => t.ended && !footprintBusy s t) = true)
    ∧ (let s := { package 0 with launches := base.launches }; (s.launch? 0).any (fun l => launchOver s l && (s.queue l.queue).completes) = true) := by decide +kernel

/-- The placed team, saved. -/
def saved : State := saveTeam (teamed id) placedTeam false
theorem test_meets_Preemption :
    ((teamed id).team? 0).any (fun t => t.started && !t.ended && t.softBudget == none) = true ∧ (2 ^ 20 - 1 : Nat) < 2 ^ 20
    ∧ ((teamed (fun t => { t with softBudget := some 5 })).team? 0).any (fun t => t.softBudget == some 5) = true
    ∧ (let s := { teamed id with units := (waiting .wbar).units, launches := [{ placedLaunch with record := { placedRecord with nteam := 2 } }] }
       (s.team? 0).any (fun t => (s.launch? t.launch).any Launch.waiting) && s.units.all (fun u => u.team != 0 || atRound u)) = true
    ∧ (saved.saved.find? (fun x => x.team.id == 0)).any (fun x => (saved.launch? x.team.launch).any (fun l => takes saved x l [5])) = true
    ∧ (let s := (package 0).setCore { (package 0).coreAt 5 with lastCtx := some 1 }; (s.teams.all (fun t => !t.cores.contains 5)) && (s.coreAt 5).lastCtx == some 1) = true := by
  decide +kernel

/-- The gang's group, withheld since tick 0, at tick 4,096. -/
def withheld : State :=
  let s := gang (fun t => { t with withheld := some 0 }) id
  { s with mem := s.mem.writeBytes 0x1000 (leBytes 0x0E600004 4), gtick := 4096 }
def powered (n : Nat) (p : Power) : State := (package 0).setCore { (package 0).coreAt n with power := p }
theorem test_meets_IssueAndPower :
    (withheld.unit? me).any (fun u => ((groupsOf u).find? (fun js => js.contains 1)).any (fun js => (readyGroup withheld u js).any (fun r =>
      r.withheld == some 0 && decide (0 + 4096 ≤ withheld.gtick.toNat)))) = true
    ∧ (package 0).teams = [] ∧ ((package 0).coreAt 1).power = .on ∧ ((powered 1 (.window 0)).coreAt 1).power = .window 0
    ∧ ((powered 1 (.rising 9)).coreAt 1).power = .rising 9 ∧ (127 : Nat) < 128 ∧ (15 : Nat) < 16
    ∧ (let s := { package 0 with rfsched := List.replicate 16 0x00640001 }
       let x := (s.rfsched.getD 15 0).toNat
       x / 2 ^ 16 % 2 ^ 32 ≠ 0 ∧ (s.rfphase.getD 15 0).toNat ≤ s.gtick.toNat ∧ (s.gtick.toNat - (s.rfphase.getD 15 0).toNat) % (x / 2 ^ 16 % 2 ^ 32) < x % 2 ^ 16 ∧ s.refresh.all (fun w => w.1 != 15) = true)
    ∧ (package 0).rfsched.getD 15 0 = 0 := by decide +kernel

/-! Commands at the head of the queues of core 0. -/
def harrowed (step blk : Nat) (op : HarrowOp) (f : State → State) : State :=
  let s := f (tiled 0 id)
  s.setCore { s.coreAt 0 with harrow := [{ unit := me, op := op, step := step, blk := blk, win := 1, retireId := none, satSlice := 0, pc := 0x1000, room := 0, withheld := none }] }
def sluiced (k : SluiceCommand) : State := there.setCore { there.coreAt 0 with sluice := [k] }
def onGang (s : State) (p : Machine.Unit → Bool) : Bool := (s.unit? me).any p
theorem test_meets_Engines_harrow :
    ((harrowed 0 0 (.mma 0 1 2 0 0 .none .none) (fun s => { s with allowance := s.allowance.set 0 64 })).coreAt 0).harrow.all (fun c => decide (c.step < harrowSteps c.op)) = true
    ∧ 64 ≤ (harrowed 0 0 (.tzero 0) (fun s => { s with allowance := s.allowance.set 0 64 })).allowance.getD 0 0
    ∧ (harrowed 0 0 (.tzero 0) id).allowance.getD 0 0 < 64 ∧ (harrowed 0 0 (.tzero 0) id).poolChange = []
    ∧ ((harrowed (harrowSteps (.tzero 0)) 0 (.tzero 0) id).coreAt 0).harrow.all (fun c => decide (harrowSteps c.op ≤ c.step)) = true := by decide +kernel

def scatter (phase : SluicePhase) : SluiceCommand := command (.cps 0x20000 0x100000 [0] 4) phase
def keyed (phase : SluicePhase) : SluiceCommand := command (.kst 0x20000 0 [0]) phase
theorem test_meets_Engines_sluice :
    (let s := sluiced (scatter .queued); (s.coreAt 0).sluice.find? (startable s) == some (scatter .queued) && onGang s (fun u => isOk (startCommand s u 0 (scatter .queued)))) = true
    ∧ (let s := sluiced (keyed .queued); (s.coreAt 0).sluice.find? (startable s) == some (keyed .queued) && onGang s (fun u => (err? (startCommand s u 0 (keyed .queued))).isSome)) = true
    ∧ (let s := sluiced (scatter .rows); onGang s (fun u => isOk (nextRow s u 0 (scatter .rows)))) = true
    ∧ (let k := command (.cps 0x900000 0x100000 [0] 4) .rows; let s := sluiced k; onGang s (fun u => (err? (nextRow s u 0 k)).isSome)) = true
    ∧ (let s := sluiced (scatter .finished); (s.coreAt 0).sluice.find? (overdue s) == some (scatter .finished)
        && onGang s (fun u => match makeRoom s u 2 with | .room _ => true | _ => false)) = true
    ∧ (let s := gang id (fun u => { u with engineError := some (1, 18, 0x1000) }); onGang s (fun u => (slotGroup u).isSome && !u.exited && u.halt == .none
        && u.handler == none && !u.slices.any Slice.stopsGang)) = true
    ∧ (sluiced (scatter (.suspended 2 .read true))).requests = [] := by decide +kernel

/-- A head at 0x20000 with pans at 0x21000 and one signature bit, and what its words hold. -/
def head0 (clim : Nat) : Head :=
  { addr := 0x20000, kbase := 0, vbase := 0, pans := 0x21000, pool := 0x22000, seed := 0, kpitch := 0, vpitch := 0, vbytes := 0, d := 1, b := 1, kfmt := 0
    clim := clim, pooln := 0, tmax := 1 }
def probing (op : SluiceOp) (phase : SluicePhase) (clim : Nat) : SluiceCommand :=
  { command op phase with head := some (head0 clim), pins := [{ ctx := 0, va := 0x20000, size := 0x20000, frame := 0x4000000, attrs := 0x06B }] }
def pans (cnt : Nat) (k : SluiceCommand) : State :=
  { sluiced k with mem := there.mem.writeBytes (0x4001000 + 52) (leBytes cnt 4) }
theorem test_meets_Engines_base :
    (let k := probing (.kst 0x20000 0 [0]) .link 4
     linkStores (pans 0 k) (head0 4) k.pins (signature (head0 4) [0] * 0) 0 ≠ none ∧ linkStores (pans 14 k) (head0 4) k.pins 0 0 = none)
    ∧ (let k := probing (.bgather 0x20000 0 false false 0x100000 1 [0, 1]) .probe 4
       ((pans 0 k).coreAt 0).sluice = [k] ∧ probe (pans 14 k) (head0 4) k.pins 0 false false = .cause 24
       ∧ probe (pans 1 k) (head0 0) k.pins 0 false false = .refused 1 ∧ probe (pans 1 k) (head0 4) k.pins 0 false false = .found [0] false) := by decide +kernel

def phased (after : After) (f : Machine.Unit → Machine.Unit) : State := gang (fun t => { t with run := .parked (.phase after) 4 false }) f
def peerOp : PeerOp := { id := 7, unit := me, launch := 0, peer := 63, pa := 0, op := none, bytes := [1], data := 1, issued := 0, tmo := 0 }
theorem test_meets_MemoryEvents :
    (base.unit? me).isSome = true ∧ ((places id unquiet).unit? me).any (fun u => u.atomics == [pendingAtomic]) = true
    ∧ onGang (phased .wbar id) (fun u => u.quiet && u.slices.all (fun t => phasing t == some (.wbar, 4))
        && (match makeRoom (phased .wbar id) u (phaseEntries u .wbar) with | .room _ => true | _ => false)) = true
    ∧ onGang (phased .next unquiet) (fun u => !u.quiet) = true
    ∧ ({ base with peerOps := [peerOp] } : State).peerOps = [peerOp] ∧ peerOp.issued.toNat + peerOp.tmo * 100 ≤ base.gtick.toNat
    ∧ (let s := (package 0).setPeer 63 { (package 0).peer 63 with en := true, wsize := 1 }
       (s.peer 63).en = true ∧ (s.peer 63).wbase.toNat * 2 ^ 20 < 2 ^ 40 ∧ 0 + 8 ≤ (s.peer 63).wbase.toNat * 2 ^ 20 + (s.peer 63).wsize.toNat * 2 ^ 20)
    ∧ (2 ^ 40 - 1 : Nat) < 2 ^ 40 ∧ (16399 : Nat) < 16400 ∧ (2 ^ 50 - 4) + ([1, 2, 3, 4] : List Byte).length ≤ 2 ^ 50 := by decide +kernel

/-- The log full under TRAP: a ring that does not exist and a slice at its limit. -/
def full : State :=
  let s := phased .next (fun u => { u with logbase := 0x900000, logpol := 1 })
  { s with log := List.replicate 2048 { id := 0, va := 0, lsz := 0, eng := 0, old := 0, win := 1, gang := 0, owner := 0, kind := 0, core := 0, ctx := 0, team := 0, ring := 0
                                        ringSize := 0, pa := 0, direct := false, order := none, edge := 0, spilled := none } }
theorem test_meets_MemoryEvents_full :
    onGang full (fun u => u.quiet && (match makeRoom full u (phaseEntries u .next) with | .trap => true | _ => false)) = true := by decide +kernel

def parkedAs (s : State) (w : Wait) : Bool := onGang s (fun u => (u.slice? 1).any (fun t => t.run == .parked w 4 false))
def mwaitOn : Wait := .mwait 0x20000 false false 0 0 63
theorem test_meets_WaitEnds :
    (let s := { waiting mwaitOn with monitors := [{ cluster := 0, word := 0x4000000, unit := me, slice := 1 }] }
     parkedAs s mwaitOn && s.monitors.any (fun m => m.unit == me && m.slice == 1) && mwaitHolds false false 0 (mwaitWord s 0x4000000 false false) 0) = true
    ∧ (parkedAs (waiting mwaitOn) mwaitOn && (waiting mwaitOn).monitors.isEmpty && !mwaitHolds false false 0 (mwaitWord (waiting mwaitOn) 0x4000000 false false) 1) = true
    ∧ (∀ w ∈ [Wait.chwait 0x100000 0 63, .rowbar 0x100000 1, .waitc 0 0, .tickw 0], parkedAs (waiting w) w = true)
    ∧ (let s := { waiting (.chwait 0x100000 0 63) with mem := (channel 1).mem }; onGang s (fun u => isOk (readChan s u 0 .read .plain 0x100000))) = true
    ∧ onGang (waiting (.chwait 0x20000 0 63)) (fun u => (err? (readChan (waiting (.chwait 0x20000 0 63)) u 0 .read .plain 0x20000)).isSome) = true
    ∧ (let s := { waiting (.handRecv 0x1000 1 false 63) with teams := (bound [other] [me] [] [payload 1]).teams }
       parkedAs s (.handRecv 0x1000 1 false 63) && (s.team? 0).any (fun t => (t.hand.find? (fun h => h.off == 0x1000 && h.pass == 1)).isSome)) = true
    ∧ (let s := { waiting .ecall with ecalls := [{ unit := me, team := 0, slice := 1, ctx := 0, pc := 0x1000, n := 0, args := [], die := 0 }] }
       parkedAs s .ecall && (s.ecalls.find? (fun r => r.unit == me && r.slice == 1 && r.team == 0)).isSome) = true
    ∧ onGang (waiting .regang) (fun u => u.slices.all (fun t => t.run == .parked .regang 4 false)) = true
    ∧ ((bound [] [] [barrier0 0] []).team? 0).any (fun t => (t.group? 0).isSome) = true
    ∧ (let s := bound [] [] [{ barrier0 0 with members := [me], arrived := [me] }] []; (s.team? 0).any (fun t => (t.group? 0).any (fun b => b.members == [me] && b.arrived == [me]))) = true
    ∧ (let s := { base with requests := [{ ctx := 0, page := 0x900, kind := .read, die := 0 }] }; s.requests.any (fun r => r.ctx == 0 && r.page == 0x900)) = true := by decide +kernel

def anEntry : LogEntry :=
  { id := 0, va := 0, lsz := 0, eng := 0, old := 0, win := 1, gang := 0, owner := 0, kind := 0, core := 0, ctx := 0, team := 0, ring := 0, ringSize := 0, pa := 0
    direct := false, order := none, edge := 0, spilled := none }
def haltedAs (h : Halt) (f : Machine.Unit → Machine.Unit) : State := gang id (fun u => f { u with halt := h })
theorem test_meets_HaltsAndCode :
    (onGang (haltedAs (.pending 0 4 0) id) (fun u => u.halt == .pending 0 4 0 && u.handler == none) && onGang (haltedAs (.pending 0 4 31) (fun u => { u with handler := some [0, 1] }))
      (fun u => u.handler.isSome)) = true
    ∧ (let s := haltedAs (.halted 1 []) id; s.units.all (fun u => u.handler.isNone && u.halt == .halted 1 []) && !setHeld s 0 0) = true
    ∧ handling.units.any (fun u => u.team == 0 && u.handler.isSome) = true
    ∧ onGang (haltedAs (.trapped 4) id) (fun u => u.halt == .trapped 4) = true ∧ onGang (haltedAs (.port []) id) (fun u => u.halt == .port []) = true
    ∧ ((kindOf .sluice).unit? { me with kind := .sluice }).any (fun u => u.id.kind != .gang) = true
    ∧ onGang base (fun u => (u.slice? 1).any Slice.alive && !u.exited && u.halt == .none && u.atomics == [] && u.ops == [] && !retryable base u) = true
    ∧ onGang (haltedAs (.error 1 .none) unquiet) (fun u => u.halt == .error 1 .none && u.atomics != [] && (u.slice? 1).isSome) = true
    ∧ (let s := gang id (fun u => { u with checkpoints := [{ win := 1, edge := 0, liveS := 0, liveV := 0, slices := u.slices }] })
       let s := { s with log := (s.unit? me).toList.map (fun u => { anEntry with gang := u.gangId, owner := u.gangId, kind := 4 }) }
       onGang s (fun u => retryable s u && u.retried == [])) = true := by decide +kernel

/-- An image of one block of zeros whose role map is `b`, and a request to load it. -/
def image (b : Byte) : List Byte :=
  [0x59, 0x41, 0x4C, 0x53, 0x55, 0x4D, 1, 0] ++ leBytes 2 2 ++ leBytes 0 6 ++ leBytes 4 2 ++ List.replicate 46 0
    ++ leBytes 1 8 ++ leBytes 128 8 ++ leBytes 64 8 ++ leBytes 0 8 ++ leBytes 2 8 ++ leBytes 192 8 ++ leBytes 1 8 ++ leBytes 0 8
    ++ List.replicate 64 0 ++ [b]
def request (img : List Byte) (room : Bool) : LoadRequest :=
  { image := img, room := room, textPa := 0x1000, textVa := 0x1000, globalVa := 0, globalPa := 0, memsideVa := 0, memsidePa := 0, spadVa := 0
    importBase := 0, tables := [0x900000, 0x901000, 0x902000, 0x903000, 0x904000, 0x905000, 0x906000, 0x907000] }
theorem test_meets_HaltsAndCode_code :
    ({ package 0 with objects := [] } : State).objects = [] ∧ sectionsOf [] = none
    ∧ (∀ b ∈ [(1 : Byte), 3], (sectionsOf (image b)).any (fun ss => imageOk (image b) ss (request (image b) true)
        && (roleMap (sectionOf ss 1) == sectionOf ss 2) == (b == 1)) = true)
    ∧ ((package 0).objects.find? (fun o => o.image == [])).any (fun o => ((package 0).refs.find? (fun r => r.ctx == 0 && r.handle == o.handle)).any (fun r => !r.retiring)) = true
    ∧ (let s := { package 0 with refs := [ref0 true] }
       (s.refs.find? (fun r => r.ctx == 0 && r.handle == 1 && r.retiring)).any (fun r => (s.objects.find? (fun o => o.handle == 1)).any (fun o => !resides s r o))) = true
    ∧ (let s := { teamed id with refs := [ref0 true] }; (s.refs.find? (fun r => r.ctx == 0 && r.handle == 1 && r.retiring)).any (fun r =>
        (s.objects.find? (fun o => o.handle == 1)).any (fun o => resides s r o))) = true := by decide +kernel

theorem test_meets_ControlWindow :
    (9 % 8 ≠ 0 ∧ 8 < 0x10 ∧ 0x30000 ≤ 0x300FF ∧ 0x300FF < 0x30100) ∧ (7 : Nat) < 8 ∧ (63 : Nat) < 64 ∧ (15 : Nat) < 16
    ∧ (let s := { package 0 with c3dies := [15], coolSince := [(15, 0)], gtick := 600000 }
       15 ∈ s.c3dies ∧ cooled s 15 = true ∧ s.pkgstat = .running)
    ∧ (let s := { package 0 with critical := some 0, gtick := 1200000 }; s.critical = some 0 ∧ s.pkgstat = .running ∧ 0 + 1200000 ≤ s.gtick.toNat)
    ∧ ({ package 0 with pkgstat := .thermalHold } : State).pkgstat = .thermalHold ∧ (package 0).pkgstat ≠ .thermalHold := by decide +kernel

/-- A command on the debug port: operation, context 0, gang 0, arguments; context 0 permits the port. -/
def asked (op : Nat) (arg0 : Nat) (f : Machine.Unit → Machine.Unit) (ctl : W32) : State :=
  let s := gang id f
  { s with contexts := s.contexts.set 0 { s.ctx 0 with live := true, dbgctl := ctl }, debugCmd := BitVec.ofNat 512 (op + 2 ^ 8 + arg0 * 2 ^ 64) }
theorem test_meets_DebugPort :
    (∀ n ∈ [1, 2, 3, 4, 5, 6, 7], let s := asked n 0 id 5
      s.debugCmd.getLsbD 8 = true ∧ dbgOk s = true ∧ dbgOp s = n ∧ (s.ctx (dbgCtx s)).live = true ∧ (s.ctx (dbgCtx s)).dbgctl.getLsbD 2 = true)
    ∧ dbgOk (asked 0x1FF 0 id 5) = false ∧ ((asked 1 0 id 1).ctx 0).dbgctl.getLsbD 2 = false ∧ (base.ctx 0).live = false
    ∧ (dbgGang (asked 3 0 id 5)).isSome = true ∧ ({ asked 3 0 id 5 with units := [] } : State).units = []
    ∧ dbgGang { asked 3 0 id 5 with units := [] } = none
    ∧ (dbgGang (asked 6 0 (fun u => { u with halt := .port [] }) 5)).any (fun u => u.halt.standing && (u.slice? (dbgSlice (asked 6 0 id 5))).isSome) = true
    ∧ (dbgGang (asked 6 0 id 5)).any (fun u => !u.halt.standing) = true
    ∧ dbgArg0 (asked 5 1 id 5) % 64 ≠ dbgCtx (asked 5 1 id 5) ∧ dbgArg0 (asked 5 0 id 5) % 64 = dbgCtx (asked 5 0 id 5) := by decide +kernel

/-! ### Further witnesses of the device's steps, for the clauses that the ones above leave -/

/-- A record whose table of roles lies in a weight store, in its window. -/
def tabled : State := { package (goodRecord + 0x200000 * 2 ^ 256) with refresh := [(0, 9)], tlb := weighing.tlb }
theorem test_meets_LaunchPath_held :
    (let x := goodRecord + 0x200000 * 2 ^ 256
     sameVerdict (examineLaunch tabled 0 0 0 x) (examineLaunch { tabled with refresh := [] } 0 0 0 x) = false ∧ canAccept tabled 0 = true
      ∧ sameVerdict (examineLaunch (package x) 0 0 0 goodRecord) (examineLaunch { package x with refresh := [] } 0 0 0 goodRecord) = true)
    ∧ (let s := (teamed (fun t => { t with ended := true })).mapUnits (fun _ => true) (fun u => { u with halt := .trapped 4 })
       (s.team? 0).any (fun t => t.ended && setHeld s t.launch t.set) = true)
    ∧ ({ State.reset with pkgstat := .resetHold } : State).pkgstat = .resetHold ∧ State.reset.pkgstat ≠ .resetHold
    ∧ ({ State.reset with loaded := some 0 } : State).loaded = some 0 ∧ (0 : Fin 2) ≠ 1 := by decide +kernel

def querying : SluiceCommand := command (.qsig 0x20000 [0] 1 [0, 1]) .queued
theorem test_meets_Preemption_held :
    producersDone (teamed id) 0 = true ∧ producersDone ((teamed id).setCore { (teamed id).coreAt 0 with sluice := [querying] }) 0 = false
    ∧ (saved.saved.find? (fun x => x.team.id == 0)).any (fun x => (saved.launch? x.team.launch).any (fun l => !takes saved x l [5, 5])) = true
    ∧ saved.mem.wf = true ∧ saved.saved.all (fun x => x.team.cores.length == 1 && x.cores.length == 1
      && x.cores.all (fun p => p.2.1.wf && p.2.1.all (fun c => c.1 < 2 ^ 18)) && x.soft.isEmpty) = true ∧ [5].Nodup
    ∧ (teamed id).units.all (fun u => u.team != 0 || (teamed id).unit? u.id == some u) = true := by decide +kernel

/-- A weight store's schedule: 100 ticks of window in 1,000. -/
def schedule (now : Nat) (old new : W64) (refresh : List (Nat × Nat)) : State :=
  { package 0 with gtick := BitVec.ofNat 64 now, rfsched := List.replicate 16 new, rfForce := List.replicate 16 (old, 0), refresh := refresh }
theorem test_meets_IssueAndPower_schedule :
    (let s := schedule 2000 0x03E80064 0x03E80064 []; (s.rfForce.getD 0 (0, 0)).1.toNat / 2 ^ 16 = 1000 ∧ s.gtick.toNat % 1000 = 0 ∧ (0, 2000) ∉ s.refresh)
    ∧ (let s := schedule 2000 0x03E80064 0x03E80000 [(0, 2000)]; s.rfForce.getD 0 (0, 0) ≠ (s.rfsched.getD 0 0, s.rfphase.getD 0 0) ∧ s.gtick.toNat % 1000 = 0)
    ∧ (let s := schedule 2001 0 0x03E80064 []; (s.rfForce.getD 0 (0, 0)).1.toNat / 2 ^ 16 = 0 ∧ s.rfForce.getD 0 (0, 0) ≠ (s.rfsched.getD 0 0, s.rfphase.getD 0 0))
    ∧ (let s := schedule 2099 0x03E80064 0x03E80064 [(0, 2000)]; ¬(2000 + 100 ≤ s.gtick.toNat))
    ∧ (let s := schedule 2100 0x03E80064 0x03E80064 [(0, 2000)]; 2000 + 100 ≤ s.gtick.toNat)
    ∧ ({ withheld with poolChange := [(0, 5000)] } : State).poolChange.any (fun c => c.1 == 0) = true
    ∧ (withheld.unit? me).any (fun u => ((groupsOf u).find? (fun js => js.contains 1)).any (fun js =>
        (readyGroup { withheld with gtick := 4095 } u js).any (fun r => !decide (0 + 4096 ≤ ({ withheld with gtick := 4095 } : State).gtick.toNat) && r.withheld == some 0))) = true
    ∧ ((0 : Int) < (127 : Int)) ∧ (package 0).allowance[127]?.isSome = true := by decide +kernel

theorem test_meets_Engines_poison :
    (let s := { harrowed 0 0 (.mma 0 1 2 (tileControl 0 16 16 0) (tileControl 0 16 16 0) .none .none) (fun s => { s with allowance := s.allowance.set 0 200 }) with poison := [] }
     ((clusterGrants s 0).1.any (fun r => r.unit.kind == .harrow && r.unit.core == 0)) = true)
    ∧ (let s := harrowed 0 0 (.mma 0 1 2 (tileControl 0 16 16 0) (tileControl 0 16 16 0) .none .none) id
       ((clusterGrants s 0).1.any (fun r => r.unit.kind == .harrow && r.unit.core == 0)) = false)
    ∧ (let s := { harrowed 0 0 (.mloop 0 0 1 (tileControl 0 16 16 0) (tileControl 0 16 16 0) [(0, 0)] .none .none) id with poison := [scratchPa 0 0] }
       (s.coreAt 0).harrow.all (fun k => (nextLoads k).any (fun p => poisoned s (scratchPa 0 p.1) p.2)) && onGang s (fun u => u.halt == .none)) = true
    ∧ (let s := harrowed 0 0 (.tld 0 0 (tileControl 0 16 16 0)) id
       (s.coreAt 0).harrow.all (fun k => decide (harrowSteps k.op ≤ k.step ∧ harrowRows k.op ≤ k.step))) = true
    ∧ (let s := harrowed 0 0 (.tout 0 [(0x100000, 0)] 4 0 0 false 0) id
       (s.coreAt 0).harrow.all (fun k => decide (harrowSteps k.op ≤ k.step ∧ k.step < harrowRows k.op))) = true
    ∧ onGang { harrowed 0 0 (.tzero 0) id with units := (haltedAs (.halted 1 []) id).units } (fun u => u.halt != .none) = true := by decide +kernel

/-- What a row of a command in state `s` comes to. -/
def rowGoes (s : State) (k : SluiceCommand) : Bool := onGang s (fun u => isOk (nextRow s u 0 k))
def layout0 : LayoutRec :=
  { base := 0x20000, scale := 0x30000, ndim := 4, fmt := 0, ver := 0, pad := 7, ext := [4, 4, 2, 2], str := [1, 4, 16, 32, 0] }
def laid (op : SluiceOp) (row : Nat) : SluiceCommand := { command op .rows with layout := some layout0, row := row }
/-- OH 2, OW 2, stride 1, padding 1 above. -/
def geometry (pad : Nat) : W64 := BitVec.ofNat 64 (2 + 2 ^ 16 * 2 + 2 ^ 40 * pad)
/-- A MOEDISP of two experts of capacity 1, a region for overflow of `ovf` rows, rows of 16 bytes; all at 0x20000, the counts at 0x28000. -/
def dispatch (expert ovf : Nat) : SluiceCommand :=
  let x := 0x20000 + 0x20000 * 2 ^ 64 + 0x21000 * 2 ^ 128 + 0x22000 * 2 ^ 192 + 0x28000 * 2 ^ 256 + 16 * 2 ^ 320 + 2 * 2 ^ 336 + 2 ^ 352 + ovf * 2 ^ 384
  { command (.moedisp 0 0x28100 [(0, BitVec.ofNat 32 expert)]) .rows with
    tokens := (List.range 16).map (fun i => BitVec.ofNat 32 (x / 2 ^ (32 * i)))
    pins := [{ ctx := 0, va := 0x20000, size := 0x20000, frame := 0x4000000, attrs := 0x06B }] }
def counted (n : Nat) (lost : Bool) : State :=
  { there with mem := there.mem.writeBytes 0x4008000 (leBytes n 4), poison := if lost then [0x4008000] else [] }
theorem test_meets_Engines_rows :
    (∀ k ∈ [laid (.cp true 0x100000 0x20000 0 2 2 0) 1, laid (.cp true 0x100000 0x20000 (BitVec.ofNat 64 3) 2 2 1) 0, laid (.cp true 0x100000 0x20000 0 2 2 3) 0,
        laid (.cp false 0x100000 0x20000 (BitVec.ofNat 64 3) 2 2 0) 1, command (.cpx true 0x100000 0x20000 [1] 4) .rows, command (.cps 0x20000 0x100000 [1] 4) .rows,
        command (.cpred 0x20000 0x100000 [1] 8 0 3) .rows, laid (.cpconv true 0x100000 0x20000 0 (geometry 0) 8) 0, laid (.cpconv true 0x100000 0x20000 0 (geometry 1) 8) 0,
        laid (.cpconv true 0x100000 0x20000 8 (geometry 0) 1) 0, { command (.kst 0x20000 0 [0]) .rows with head := some { head0 4 with kbase := 0x20000 } }, command (.qsig 0x20000 [0] 1 [0, 1]) .rows],
      rowGoes there k = true)
    ∧ rowGoes (channel 0) (command (.cpx false 0x100000 0x20000 [1] 4) .rows) = true
    ∧ rowGoes (channel 0) (laid (.cpconv false 0x100000 0x20000 8 (geometry 0) 1) 0) = true
    ∧ rowGoes (channel 0) { command (.bgather 0x20000 0 false false 0x100000 1 [0, 1]) .rows with
        head := some { head0 4 with kbase := 0x20000, vbase := 0x20000 }, tokens := [0] } = true
    ∧ rowGoes (counted 0 false) (dispatch 2 1) = true ∧ rowGoes (counted 0 false) (dispatch 1 1) = true ∧ rowGoes (counted 1 false) (dispatch 0 1) = true
    ∧ rowGoes (counted 1 false) (dispatch 0 0) = true
    ∧ onGang (counted 0 true) (fun u => decide (err? (nextRow (counted 0 true) u 0 (dispatch 0 1)) = some .lost)) = true := by decide +kernel

theorem test_meets_Engines_lost :
    (let k := probing (.kst 0x20000 0 [0]) .link 4
     indexLost { pans 0 k with poison := [0x4000040] } (head0 4) k.pins false [0] = true ∧ indexLost (pans 0 k) (head0 4) k.pins false [0] = false)
    ∧ (let k := probing (.bgather 0x20000 0 false false 0x100000 1 [0, 1]) .probe 4
       indexLost { pans 0 k with poison := [0x4000040] } (head0 4) k.pins true [0] = true ∧ indexLost (pans 0 k) (head0 4) k.pins true [0] = false)
    ∧ (let k := command (.cp true 0x100000 0x900000 0 2 2 0) .queued; onGang (sluiced k) (fun u => (err? (withRecord (sluiced k) u 0 k)).isSome
        && (sluiced k).cores.all (fun c => c.sluice.all (startable (sluiced k))))) = true
    ∧ (let k := command (.cp true 0x100000 0x900000 0 2 2 0) (.suspended 0x900 .read true)
       let s := { sluiced k with requests := [{ ctx := 0, page := 0x900, kind := .read, die := 0 }] }
       s.requests.any (fun r => r.page == 0x900 && r.kind == .read)) = true := by decide +kernel

/-- A store to the gang's scratchpad behind the first `after` of its atomics, one of which is to the same scratchpad. -/
def stored (after : Nat) (f : Team → Team) : State :=
  let s := gang id (fun u => { u with
    atomics := [{ pendingAtomic with pa := scratchPa 0 8 }]
    direct := [{ slice := 0, dest := 0, pa := scratchPa 0 0, va := 0x100000, bytes := [1, 2], win := 1, after := after, page := (0x100000, 4096) }] })
  { s with teams := s.teams.map f }
def reaching (wbase wsize : W64) : State := base.setPeer 63 { base.peer 63 with en := true, wbase := wbase.setWidth _, wsize := wsize.setWidth _ }
theorem test_meets_MemoryEvents_performing :
    base.mem.wf = true
    ∧ onGang (stored 0 id) (fun u => (u.direct.find? (fun d => d.dest == 0)).any (fun d => (u.atomics.take d.after).all (fun a => scratchCore a.pa != some 0))
        && u.direct.all (fun d => footprintLive (stored 0 id) d.pa)) = true
    ∧ onGang (stored 0 (fun t => { t with ended := true })) (fun u => u.direct.all (fun d => !footprintLive (stored 0 (fun t => { t with ended := true })) d.pa)
        && u.atomics.all (fun a => !footprintLive (stored 0 (fun t => { t with ended := true })) a.pa)) = true
    ∧ onGang (stored 1 id) (fun u => (u.direct.find? (fun d => d.dest == 0)).any (fun d => (u.atomics.take d.after).any (fun a => scratchCore a.pa == some 0))
        && u.direct.all (fun d => d.dest != 1)) = true
    ∧ onGang (stored 1 id) (fun u => u.atomics[0]?.any (fun a => !a.frame && a.ret.isNone && u.direct.all (fun d => decide (0 < d.after)) && footprintLive (stored 1 id) a.pa)) = true
    ∧ (∀ l ∈ [none, some (3 : Fin 4)], onGang (gang id (fun u => { u with atomics := [{ pendingAtomic with ret := some 9, lane := l, pa := 0x8000000000000 }] })) (fun u =>
        u.direct.isEmpty && u.atomics[0]?.any (fun a => a.ret == some 9 && a.lane == l && !a.frame && placeOf a.pa == .host)) = true)
    ∧ placeOf pendingAtomic.pa ≠ .host := by decide +kernel

theorem test_meets_MemoryEvents_outside :
    ¬(peerOp.issued.toNat + 1 * 100 ≤ base.gtick.toNat)
    ∧ (let s := reaching 1 1; (s.peer 63).en = true ∧ (s.peer 63).wbase.toNat * 2 ^ 20 = 2 ^ 20 ∧ 2 ^ 20 + 2 ^ 20 - 8 + tyBytes 0 ≤ 2 ^ 20 + (s.peer 63).wsize.toNat * 2 ^ 20
        ∧ ¬(2 ^ 20 + 2 ^ 20 - 4 + tyBytes 0 ≤ 2 ^ 20 + (s.peer 63).wsize.toNat * 2 ^ 20))
    ∧ (∀ p ∈ [(4088, 0), (0x10000000000, 1), (scratchPa 0 0, 2)], (match placeOf (canonPa p.1) with | .hbm _ => p.2 == 0 | .weight _ => p.2 == 1 | .scratch _ => p.2 == 2 | _ => false) = true)
    ∧ 4088 % 4096 + (List.replicate 8 (1 : Byte)).length ≤ 4096
    ∧ (∀ e ∈ [{ anEntry with id := 5 }], e.id = 5 ∧ ∀ x ∈ [{ anEntry with id := 5 }], x.id = 5 → x = e)
    ∧ State.reset.pkgstat ≠ .resetHold ∧ (4 ≤ tyBytes 0 ∧ 16 % tyBytes 0 = 0) ∧ ¬(12 % tyBytes 0 = 0) := by decide +kernel

/-- The slices at an MWAIT on `va`, a monitor on slice 1. -/
def waits0 (va : W64) (s : State) : State :=
  { s with units := (gang (fun t => { t with run := .parked (.mwait va false false 0 0 63) 4 false }) id).units }
def reads0 (s : State) (va : W64) : Option Nat := (s.unit? me).bind (fun u => (read? (place s u .read .plain va)).map (fun p => p.1))
theorem test_meets_WaitEnds_mwait :
    reads0 (waits0 0x900000 there) 0x900000 = none ∧ reads0 (waits0 0x20000 there) 0x20000 = some 0x4000000
    ∧ inRefresh (waits0 0x20000 there) 0x4000000 = false ∧ poisoned (waits0 0x20000 there) 0x4000000 8 = false ∧ poisoned (poisonedAt 0x4000000) 0x4000000 8 = true
    ∧ reads0 (waits0 0x200000 weighing) 0x200000 = some 0x10000000000 ∧ inRefresh weighing 0x10000000000 = true
    ∧ mwaitHolds false false 0 (mwaitWord there 0x4000000 false false) 0 = true ∧ mwaitHolds false false 0 (mwaitWord there 0x4000000 false false) 1 = false
    ∧ onGang (gang (fun t => { t with run := .parked mwaitOn 4 true }) id) (fun u => u.slices.all (fun t => t.run == .parked mwaitOn 4 true)) = true := by decide +kernel

theorem test_meets_WaitEnds_others :
    onGang base (fun u => u.slices.any (fun t => t.run == .running)) = true
    ∧ onGang (stored 0 id) (fun u => u.direct.any (fun d => ({ ctx := some 0, page := some 0x100000 } : Named).at u.ctx d.page)
        && u.atomics.any (fun a => ({ ctx := some 0, page := some 0 } : Named).at u.ctx a.page)) = true
    ∧ onGang (gang id (fun u => { u with ownPages := [(0x20000, 4096)], txn := some { txn0 false u.slices with pages := [(0x30000, 4096)] } })) (fun u =>
        u.ownPages.any (({ ctx := none, page := none } : Named).at u.ctx) && u.txn.any (fun x => x.pages.any (({ ctx := some 0, page := none } : Named).at u.ctx))) = true
    ∧ onGang (gang id (withOps 2 1)) (fun u => ({ ctx := some 0, page := some 5 } : Named).inCtx u.ctx && u.count 2 != 0) = true
    ∧ (sluiced (probing (.kst 0x20000 0 [0]) .link 4)).cores.any (fun c => c.sluice.any (fun k => k.pins.any (({ ctx := some 0, page := some 0x20000 } : Named).pin))) = true
    ∧ (bound [] [] [barrier0 0] []).teams.all (fun t => (t.group? 0).any (fun b => b.members.any (fun m => !b.arrived.contains m && !memberExited base m))) = true
    ∧ (let s := { bound [] [] [{ barrier0 0 with members := [me] }] [] with units := (gang id (fun u => { u with exited := true })).units }
       s.teams.all (fun t => (t.group? 0).any (fun b => b.members == [me] && b.arrived.isEmpty && memberExited s me)) = true)
    ∧ base.requests.find? (fun r => r.ctx == 0 && r.page == 0x900) = none := by decide +kernel

theorem test_meets_HaltsAndCode_units :
    onGang (gang id (fun u => { u with halt := .pending 0 4 0, txn := some (txn0 false u.slices) })) (fun u => u.txn.isSome && u.halt == .pending 0 4 0) = true
    ∧ (let s : State := kindOf .sluice
       let s : State := { s with units := s.units.map (fun u => { u with halt := .pending 1 4 0 }) }
       (s.unit? { me with kind := .sluice }).any (fun u => u.halt == .pending 1 4 0 && u.id.kind != .gang) = true)
    ∧ (haltedAs (.halted 1 []) (fun u => { u with handler := some [0, 1] })).units.any (fun u => u.team == 0 && u.halt == .halted 1 [] && u.handler.isSome) = true
    ∧ (let s := haltedAs (.trapped 4) id
       (s.team? 0).any (fun t => !t.held) && onGang s (fun u => !u.exited && u.halt == .trapped 4)) = true
    ∧ (let s := haltedAs (.trapped 4) id
       let s : State := { s with teams := s.teams.map (fun t => { t with held := true }) }
       (s.team? 0).any (fun t => t.held)) = true
    ∧ onGang (haltedAs (.trapped 4) (fun u => { u with exited := true })) (fun u => u.exited && u.halt == .trapped 4) = true
    ∧ (let s : State := kindOf .sluice
       let s : State := { s with units := s.units.map (fun u => { u with halt := .trapped 4 }) }
       (s.unit? { me with kind := .sluice }).any (fun u => u.halt == .trapped 4 && !u.exited) = true) := by decide +kernel

/-- A gang whose window can be run again, with a retry of it already made. -/
def retried (again : Bool) : State :=
  let s := gang id (fun u => { u with
    checkpoints := [{ win := 1, edge := 0, liveS := 0, liveV := 0, slices := u.slices }], retried := if again then [{ core := 0, slice := 1, win := u.winno, pc := 0x1000, passed := false }] else [] })
  { s with log := (s.unit? me).toList.map (fun u => { anEntry with gang := u.gangId, owner := u.gangId, kind := 4 }) }
/-- The text of `request` at `pa`, and whether a run of one import may lie at 4. -/
def placedAt (pa : Nat) : Bool := decide (pa % 4096 = 0 ∧ pa + 64 ≤ 2 ^ 39 ∧ ∀ x ∈ (package 0).objects, pa + 64 ≤ x.textPa ∨ x.textPa + (x.size + 4095) / 4096 * 4096 ≤ pa)
def importing : State := { package 0 with objects := [{ object with imports := 4 }], refs := [{ ref0 false with importBase := 2 }] }
/-- Context 0 with one table at 0x900000 that serves as every level below 2 MiB. -/
def roomy : State :=
  let s := package 0
  { s with contexts := s.contexts.set 0 { s.ctx 0 with root := 0x900 }, refs := [], mem := s.mem.writeBytes 0x900000 (leBytes 0x900001 8) }
theorem test_meets_HaltsAndCode_loads :
    onGang (retried false) (fun u => u.id.kind == .gang && !u.trapped && u.handler.isNone && retryable (retried false) u && u.retried.isEmpty) = true
    ∧ onGang (retried true) (fun u => retryable (retried true) u && u.slices.any (fun t => u.retried.any (fun p => p.core == u.id.core && p.slice == t.idx && p.win == u.winno && p.pc == t.pc))) = true
    ∧ onGang handling (fun u => u.handler.isSome) = true
    ∧ (package 0).objects.all (fun o => o.image != image 1) = true
    ∧ (sectionsOf ((image 1).set 12 64)).any (fun ss => !imageOk ((image 1).set 12 64) ss (request ((image 1).set 12 64) true)) = true
    ∧ (sectionsOf (image 1)).any (fun ss => roleMap (relocated ss (request (image 1) true) 1) == sectionOf ss 2) = true
    ∧ (sectionsOf (image 3)).any (fun ss => roleMap (relocated ss (request (image 3) true) 1) != sectionOf ss 2) = true
    ∧ placedAt 0x2000 = true ∧ placedAt 0x1000 = false
    ∧ (sectionsOf (image 1)).any (fun ss =>
        (bindObject roomy 0 ss (request (image 1) false) object).isNone && (bindObject roomy 0 ss (request (image 1) true) object).isSome) = true
    ∧ runFree importing 0 4 1 = false ∧ runFree importing 0 6 1 = true
    ∧ ((package 0).refs.find? (fun r => r.ctx == 1 && r.handle == 1)).isNone = true ∧ (1 : Nat) < 64 := by decide +kernel

def within (off base n : Nat) : Bool := base ≤ off && off < base + n
def taken (off : Nat) : Bool := off == 0x10 || off == 0x100 || within off 0x10000 0x1000 || within off 0x20000 0x400
  || (within off 0x20800 0x40 && off % 16 == 0) || off == 0x30100 || within off 0x50000 0x400 || within off 0x60000 0x40 || within off 0x80000 0x20080
def readOnly (off : Nat) : Bool := off == 0 || off == 8 || within off 0x20400 0x400 || within off 0x30000 0x80
theorem test_meets_ControlWindow_offsets :
    (∀ off ∈ [0x10, 0x100, 0x10000 + 64 * 63 + 56, 0x20000 + 8 * 127, 0x20800 + 16 * 3, 0x30100, 0x50000 + 16 * 63 + 8, 0x60000 + 56, 0x80000 + 8 * 16399],
      taken off = true ∧ off % 8 = 0)
    ∧ (∀ off ∈ [0, 8, 0x207F8, 0x30078], readOnly off = true ∧ taken off = false)
    ∧ (∀ off ∈ [0x18, 0x20840, 0x20808, 0x30080, 0x60040, 0xA0080], taken off = false ∧ readOnly off = false)
    ∧ ({ base with pkgstat := .resetHold } : State).pkgstat = .resetHold ∧ base.pkgstat ≠ .resetHold ∧ 4 % 8 = 4 ∧ 6 % 4 ≠ 0
    ∧ (1 : W64).getLsbD 0 = true ∧ (2 : W64).getLsbD 0 = false ∧ (trainPeers base).peers[63]?.isSome = true ∧ base.counts.length = base.counts.length := by decide +kernel

/-- The team of the gang stands, held or not, the port's command `op` waiting. -/
def porting (op : Nat) (h : Halt) (held : Bool) : State :=
  let s := asked op 0 (fun u => { u with halt := h }) 5
  { s with teams := s.teams.map (fun t => { t with held := held }) }
def stops (s : State) : Bool := decide (∀ x ∈ s.units, x.team = 0 → x.exited = true ∨ x.halt ≠ .none)
/-- A gang at window 1's checkpoint whose store at 0x30000 (OLD 7) is the newest entry. -/
def undoable (f : Machine.Unit → Machine.Unit) : State :=
  let s := gang id (fun u => f { u with halt := .port [], checkpoints := [{ win := 1, edge := 0, liveS := 2, liveV := 0, slices := u.slices }] })
  { s with
    contexts := s.contexts.set 0 { s.ctx 0 with live := true, dbgctl := 7 }
    log := (s.unit? me).toList.flatMap (fun u => [{ anEntry with gang := u.gangId, owner := u.gangId, kind := 4 },
      { anEntry with id := 1, gang := u.gangId, owner := u.gangId, kind := 1, va := 0x20000, pa := 0x4000000, old := 7, lsz := 3, order := some 1 }]) }
def goneAt (s : State) : List Nat := (s.unit? me).toList.flatMap (fun u => ((afterTarget u 1 0 (s.log.filter (fun x => x.of u))).getD []).map (fun e => e.id))
theorem test_meets_DebugPort_stands :
    (stops (porting 3 (.halted 1 []) false) && stops (porting 4 (.port []) false) && stops (porting 4 (.trapped 4) true)) = true
    ∧ stops (porting 3 .none false) = false ∧ (dbgGang (porting 3 (.halted 1 []) false)).isSome = true
    ∧ (porting 4 (.trapped 4) true).teams.all (fun t => t.held) = true
    ∧ onGang (undoable id) (fun u => u.ctx == 0 && !u.exited && teamStopped (undoable id) u.team && u.atomics.isEmpty && u.ops.isEmpty) = true
    ∧ (∀ team ∈ [true, false], onGang (undoable id) (fun u => let h := holdStopped (undoable id) u.team
        ((if team then teamStatus h u.team 1 0 else undoStatus h u 1 0 false) == 0) && ((if team then teamStatus h u.team 9 0 else undoStatus h u 9 0 false) != 0)) = true)
    ∧ onGang (undoable unquiet) (fun u => u.atomics != [] && teamStopped (undoable unquiet) u.team) = true
    ∧ onGang (undoable (fun u => { u with halt := .none })) (fun u => !teamStopped (undoable (fun u => { u with halt := .none })) u.team) = true
    ∧ (base.units.find? (fun u => u.ctx == 5 && u.gangId.toNat == 0 && u.id.kind == .gang && !u.exited)).isNone = true ∧ (base.ctx 0).live = false := by decide +kernel

theorem test_meets_DebugPort_undo :
    (undoable id).mem.wf = true ∧ (undoable id).log.all (fun x => x.spilled.isNone) = true
    ∧ onGang (undoable id) (fun u => u.direct.isEmpty && (u.checkpoints.find? (fun y => y.win == 1 && y.edge == 0)).any (fun c => c.slices.all (fun o => o.results.isEmpty)
        && c.slices.any (fun o => o.idx == 1) && (u.slice? 1).isSome)) = true
    ∧ goneAt (undoable id) = [1]
    ∧ (undoable id).log.any (fun x => x.written && !x.direct && decide (x.pa ≤ 0x4000000 ∧ 0x4000000 < x.pa + 2 ^ x.lsz.toNat)) = true
    ∧ (steppers (undoable id) 0).length = 1 := by decide +kernel

/-! ### Witnesses of the clauses on what waits, is lost, is spilled or comes back -/

/-- A class 14 that waits with the gang; a block entered at its second word that holds no role of the gang; direct stores in a transaction. -/
theorem test_meets_StepRunsDecoded_lost :
    (let s := gang id (fun u => { u with lostAt := some 0x1000 })
     onGang s (fun u => u.lostAt == some 0x1000 && mayIssue u [0, 1] && !leaving s u && !driftStalls s u [0, 1] && (u.pick [0, 1] != [])) = true)
    ∧ (let s := roled 2 (gang (fun t => { t with seqF := true, pc := 0x1004, blk := 0xFC0 }) id)
       onGang s (fun u => u.lostAt == none && (u.slice? 0).any (fun t => skipsBlock s u t && t.pc.toNat % 64 == 4)) = true) := by decide +kernel
def storing (core dest after : Nat) : DirectStore :=
  { slice := 0, dest := dest, pa := scratchPa dest 0, va := 0x100000, bytes := [1], win := 1, after := after, page := (0x100000, 4096 * core + 4096) }
theorem test_meets_ListedAborts_direct :
    (let s := gang id (fun u => { u with txn := some (txn0 false u.slices), direct := [storing 0 0 0] })
     Stands s (fun x => levelAllows (.phase W) x.unit = true ∧ x.unit.direct ≠ []
      ∧ ((refresh (settleDirects s x.unit) x.unit).txn.any (fun t => x.unit.slices.all (fun y => (t.slices.find? (fun o => o.idx == y.idx)).isSome))) = true)) :=
  stands (by decide)

/-- Magnitudes that overflow, that are tiny before and behind rounding, and ones that FTZ takes and leaves. -/
theorem test_meets_Rounding_steps :
    (formatOf .f32).place .rne true (2 ^ 25 - 1) 103 false = (none, Flags.of ||| Flags.nx)
    ∧ (formatOf .f32).place .rne false (2 ^ 25 - 1) (-151) false = (some 0x00800000, Flags.nx)
    ∧ (formatOf .f32).place .rne false (2 ^ 24 - 1) (-150) false = (some 0x00800000, Flags.nx ||| Flags.uf)
    ∧ (formatOf .e2m1).place (.sr 0x7FFF) false 5 (-2) false = (some 3, Flags.nx) ∧ (formatOf .e2m1).place (.sr 0x8000) false 5 (-2) false = (some 2, Flags.nx)
    ∧ (3 ≠ 0 ∧ (-200 : Int) ≤ 0 ∧ (-200 : Int) < -149) ∧ 0x80000001 / 2 ^ 23 % 2 ^ 8 = 0 ∧ 0x80000001 % 2 ^ 23 ≠ 0
    ∧ (formatOf .f32).flushIn true 0x80000001 = 0x80000000 ∧ (formatOf .f32).flushIn true 0x80800001 = 0x80800001 ∧ 0x80800001 < 2 * 2 ^ 31 := by decide

/-- Operands of the SFU in each range of the statement, one that f32 holds exactly, NaNs, and an infinite result. -/
theorem test_meets_SpecialFunctions_ranges :
    (formatOf .f32).decode 0x3FC00000 = .num false 12582912 (-23) false ∧ (formatOf .f32).decode 0xBFC00000 = .num true 12582912 (-23) false
    ∧ (12582912 : Nat) ≠ 0 ∧ 12582912 * 2 ^ 297 < 128 * 2 ^ 320 ∧ 12582912 * 2 ^ 297 ≤ 256 * 2 ^ 320
    ∧ (formatOf .f32).decode 0x43808000 = .num false 8421376 (-15) false ∧ 256 * 2 ^ 320 < 8421376 * 2 ^ 305 ∧ 0xBFC00000 < 2 ^ 32
    ∧ (formatOf .f32).deliver .rne false ((formatOf .f16).decode 0x3C00) = (0x3F800000, 0) ∧ isNan ((formatOf .f16).decode 0x3C00) = false
    ∧ (formatOf .f16).decode 0x7C01 = .nan true ∧ (formatOf .bf16).decode 0x7FC0 = .nan false
    ∧ (formatOf .f32).decode (sfuOp .rcp .f32 false 0).1 = .inf false := by decide +kernel

/-- Atomics pending behind .ORD, and behind a FENCE. -/
theorem test_meets_MemoryCommands_before :
    (let s := { places id (fun u => { unquiet u with fencedAtomics := 1 }) with mem := (head 7).mem }
     Meets (.kst { W with a := 3, d := 1 }) s (fun x => (x.low.getS 3).toNat % 128 = 0 ∧ x.unit.fencedAtomics ≠ 0))
    ∧ (∀ i ∈ [Instr.kst { W with a := 3, d := 1, xf := 8 }, .qsig { W with a := 3, b := 1, xf := 8 }],
      Meets i { places id unquiet with mem := (head 7).mem } (fun x => (x.low.getS 3).toNat % 128 = 0 ∧ x.unit.atomics ≠ [])
      ∧ Meets i (head 7) (fun x => headRead 7 x = true ∧ x.unit.direct = [] ∧ x.unit.atomics = [])) := by
  simp only [List.forall_mem_cons]
  refine ⟨?_, ⟨?_, ?_⟩, ⟨?_, ?_⟩, by simp⟩ <;> exact meets (by decide)

theorem test_meets_SystemRegisters_unit :
    onGang base (fun u => (base.team? u.team).any (fun m => m.cores[0]? == some u.id.core) && u.id.kind == .gang && decide (u.id.core < 16384 ∧ u.id.slot < 16)
      && u.slices.all (fun t => decide (t.idx < 8))) = true := by decide

/-- A frame poisoned in SAVES of slice 1; a register of the frame that an atomic, or a QSIG, is still to give; poison in the frame's words. -/
def frame0 : Nat := scratchPa 0 0 + Config.frameBase
def dueFrame (a : PendingAtomic) : State := numbered false (fun u => { u with handler := some [0, 1], atomics := [a] })
theorem test_meets_TrapsAndReturns_poison :
    (∀ i ∈ [Instr.tretNext W, .tretReplay W, .tretReex W], Meets i { handling with poison := [frame0 + 256 + 64] } (fun x =>
      framePoisoned { handling with poison := [frame0 + 256 + 64] } x.unit = true) ∧ Meets i handling (fun x => framePoisoned handling x.unit = false))
    ∧ ({ startSlice 0x1000 0 0 0 0 0 with behind := some (0x1000, 3) } : Slice).behind = some (0x1000, 3) := by
  simp only [List.forall_mem_cons]
  refine ⟨⟨⟨?_, ?_⟩, ⟨?_, ?_⟩, ⟨?_, ?_⟩, by simp⟩, by decide⟩ <;> exact meets (by decide)
theorem test_meets_LaneAccess_frame :
    (∀ i ∈ [Instr.vrdn { W with a := 11 }, .vwrn { W with a := 11 }],
      Meets i (dueFrame { pendingAtomic with ret := some 56, lane := some 3, ty := 2, frame := true }) (fun x => x.unit.atomics.any (fun a =>
        a.frame && a.ret == some 56 && a.lane.isSome && a.slice == 0) = true)
      ∧ Meets i ((numbered false (fun u => { u with handler := some [0, 1] })).setCore
          { base.coreAt 0 with sluice := [{ command (.qsig 0x20000 [0] 56 [0, 1]) .rows with toFrame := true }] }) (fun x => ∀ t ∈ x.slices, t.getS 11 = 56))
    ∧ (∀ o ∈ [({ W with a := 11 } : WArgs), { W with a := 11, imm := 1 }], ∀ p ∈ [frame0 + 256, frame0 + 768],
      Meets (.vrdn o) { numbered false (fun u => { u with handler := some [0, 1] }) with poison := [p] } (fun x => ∀ t ∈ x.slices, t.getS 11 = 56)) := by
  simp only [List.forall_mem_cons]
  refine ⟨⟨⟨?_, ?_⟩, ⟨?_, ?_⟩, by simp⟩, ⟨⟨?_, ?_, by simp⟩, ⟨?_, ?_, by simp⟩, by simp⟩⟩ <;> exact meets (by decide)

/-- Image numbers equal, and 2^31 apart; an ended team whose log waits for its ring's page, and one whose log does not. -/
def leavingLog (ring : W64) (f : Team → Team) : State :=
  { teamed f with log := [{ anEntry with ring := ring, ringSize := 0x1000 }], mem := (teamed f).mem.writeBytes 0 [2] }
theorem test_meets_LaunchPath_ties :
    (let s := slots (7, 0) (7, 0); s.loaded = none ∧ s.images[0].crc = crc32c s.images[0].body.bytes ∧ s.images[1].crc = crc32c s.images[1].body.bytes
      ∧ s.images[0].seq = s.images[1].seq)
    ∧ (let s := slots (0x80000001, 0) (1, 0); s.images[0].seq - s.images[1].seq = 2 ^ 31)
    ∧ (∀ p ∈ [(0x900000, true), (0x80000, false)], let s := leavingLog (BitVec.ofNat 64 p.1) (fun t => { t with ended := true })
       (s.team? 0).any (fun t => t.ended && !footprintBusy s t && !setHeld s t.launch t.set) = true ∧ spillingTeam (spillTeam s 0) 0 = p.2) := by decide +kernel

/-- Another team's store on its way to the cores of a team; a log that waits before a save; a swapped team that may come back, one that its
launch's own teams hold out, and one on cores that are gated while powered ones fit; a core of another context whose log waits. -/
def swapped (f : State → State) : State := f { saved with saved := saved.saved.map (fun x => { x with swapped := true }) }
theorem test_meets_Preemption_waits :
    (let s := teamed id
     let s := { s with units := s.units ++ s.units.map (fun (u : Machine.Unit) => { u with id := { u.id with core := 3 }, team := 9, direct := [storing 3 0 0] }) }
     (s.team? 0).any (fun t => producersDone s 0 && !savable s t) = true) ∧ (teamed id).teams.all (savable (teamed id)) = true
    ∧ (∀ p ∈ [(0x900000, true), (0x80000, false)], let s := leavingLog (BitVec.ofNat 64 p.1) id; spillingTeam (beforeSave s 0) 0 = p.2)
    ∧ (swapped id).saved.all (fun x => x.swapped && ((swapped id).launch? x.team.launch).any (fun l => takes (swapped id) x l [5] && restoreAllowed (swapped id) l
        && powerOrder (swapped id) x l [5])) = true
    ∧ (let s := swapped (fun s => { s with launches := s.launches.map (fun l => { l with record := { l.record with nteam := 2 } }) })
       s.saved.all (fun x => x.swapped && (s.launch? x.team.launch).any (fun l => takes s x l [5] && !restoreAllowed s l)) = true)
    ∧ (let s := swapped (fun s => s.setCore { s.coreAt 5 with power := .off })
       s.saved.all (fun x => x.swapped && (s.launch? x.team.launch).any (fun l => takes s x l [5] && restoreAllowed s l && !powerOrder s x l [5])) = true)
    ∧ (Result.scalarWait 3).ready = false
    ∧ (∀ p ∈ [(0x900000, true), (0x80000, false)], let s := { leavingLog (BitVec.ofNat 64 p.1) id with teams := [] }
       let s := s.setCore { s.coreAt 0 with lastCtx := some 1 }
       outWaits (spillAll s (unspilled s 0)) (unspilled (spillAll s (unspilled s 0)) 0) = p.2 ∧ (s.coreAt 0).lastCtx = some 1) := by decide +kernel

/-- An issue that changes its unit, one that waits, a branch to itself, and a management core's. A schedule that starts a window as it comes
into force, where the old one starts none. -/
theorem test_meets_IssueAndPower_charge :
    (base.unit? me != (gang (setS 1 5) id).unit? me) = true ∧ (transfers (.sadd W) = false ∧ base.unit? me = base.unit? me)
    ∧ (transfers (.br { off := 0 }) = true ∧ base.issuer.any (fun x => !waitsToIssue base x (.br { off := 0 })) = true)
    ∧ (kindOf .mgmt).focus.any (fun f => f.unit.kind == .mgmt && ((kindOf .mgmt).unit? f.unit).isSome) = true
    ∧ (let s := schedule 2000 0 0x03E80064 []; (s.rfForce.getD 0 (0, 0)).1.toNat / 2 ^ 16 % 2 ^ 32 = 0 ∧ s.rfForce.getD 0 (0, 0) ≠ (s.rfsched.getD 0 0, s.rfphase.getD 0 0)
        ∧ (s.rfsched.getD 0 0).toNat / 2 ^ 16 % 2 ^ 32 = 1000 ∧ (s.rfphase.getD 0 0).toNat ≤ s.gtick.toNat ∧ s.gtick.toNat % 1000 = 0) := by decide +kernel

/-- A poisoned accumulator and tile under an MMA and a TST, the gang free or standing. -/
theorem test_meets_Engines_tiles :
    (∀ p ∈ [(HarrowOp.mma 0 1 2 (tileControl 0 16 16 0) (tileControl 0 16 16 0) .none .none, (0 : BitVec 8), (1 : BitVec 4)),
        (.tout 0 [(0x100000, 0)] 4 0 0 false 0, 0, 1), (.mma 0 1 2 (tileControl 0 16 16 0) (tileControl 0 16 16 0) .none .none, 2, 0)],
      let s := harrowed 0 0 p.1 (fun s => s.setCore { s.coreAt 0 with tLost := p.2.1, aLost := p.2.2 })
      (s.coreAt 0).harrow.all (fun k => (nextReads k).1.any (fun t => (s.coreAt 0).tLost.getLsbD t) || (nextReads k).2.any (fun a => (s.coreAt 0).aLost.getLsbD a)) = true
        ∧ onGang s (fun u => u.halt == .none) = true)
    ∧ onGang { harrowed 0 0 (.tzero 0) id with units := (haltedAs (.halted 1 []) id).units } (fun u => u.halt != .none && !u.exited) = true := by decide +kernel

/-- A write on its way to a peer; a translation held by a command of a saved team. -/
theorem test_meets_WaitEnds_translated :
    (let s := { base with peerOps := [peerOp] }; onGang s (fun u => s.peerOps.any (fun q => q.unit == u.id) && ({ ctx := some 0, page := some 5 } : Named).inCtx u.ctx) = true)
    ∧ (saved.saved.map (fun x => x.cores.map (fun c => ({ c.1 with sluice := [probing (.kst 0x20000 0 [0]) .link 4] } : Core)))).flatten.all (fun c =>
        c.sluice.any (fun k => k.pins.any (fun p => ({ ctx := some 0, page := some 0x20000 } : Named).at p.ctx (p.va, p.size)))) = true
    ∧ saved.saved.any (fun x => x.cores != []) = true := by decide +kernel

/-- A member at a trap of a team that the port holds; windows, tables and memories of a load. -/
theorem test_meets_HaltsAndCode_ported :
    (let s : State := kindOf .sluice
     let s : State := { s with units := s.units.map (fun u => { u with halt := .trapped 4 }), teams := s.teams.map (fun t => { t with held := true }) }
     (s.unit? { me with kind := .sluice }).any (fun u => u.halt == .trapped 4 && !u.exited && (s.team? u.team).any (fun t => t.held)) = true)
    ∧ (sectionsOf (image 1)).any (fun ss => (bindObject roomy 0 ss { request (image 1) true with spadVa := 0x1800 } object).isNone
        && (bindObject roomy 0 ss { request (image 1) true with tables := [0x1000] } object).isNone) = true
    ∧ (match placeOf 0x900000 with | .hbm _ => true | _ => false) = true ∧ tableEntry roomy.mem 0x900000 5 % 2 = 0
    ∧ placeOf 0x8000000000000 = .host ∧ (match placeOf 0x1000 with | .hbm _ => true | _ => false) = true := by decide +kernel

/-- Die 15 at C3, its clusters' classes kept, one of them moved meanwhile; a die that cools, and one that has been cool. -/
theorem test_meets_ControlWindow_heat :
    (let s := { package 0 with c3dies := [15], c3from := [(120, 1), (121, 2)], coolSince := [(15, 0)], gtick := 600000, pools := ((package 0).pools.set 120 3).set 121 0 }
     15 ∈ s.c3dies ∧ cooled s 15 = true ∧ s.pkgstat = .running ∧ (120, 1) ∈ s.c3from ∧ (∀ e ∈ s.c3from, e.1 = 120 → e = (120, 1)) ∧ 120 / 8 = 15
      ∧ s.pools[120]? = some 3 ∧ s.pools[121]? = some 0 ∧ (15, 0) ∈ s.coolSince ∧ 0 + 600000 ≤ s.gtick.toNat)
    ∧ 15 ∉ (package 0).c3dies ∧ (package 0).pools[120]?.isSome = true ∧ (∀ c ∈ (package 0).coolSince, c.1 ≠ 15) ∧ cooled (package 0) 15 = false
    ∧ (∃ t : Int, ((package 0).warnMark.toNat : Int) ≤ t) ∧ (∃ t : Int, t + 80 ≤ ((package 0).warnMark.toNat : Int)) :=
  ⟨by decide +kernel, by decide +kernel, by decide +kernel, by decide +kernel, by decide +kernel, ⟨_, Int.le_refl _⟩, ⟨_, Int.le_of_eq (Int.sub_add_cancel _ 80)⟩⟩

/-- The withdrawn store's address translates to a snapshot word now; units have names of their own. -/
theorem test_meets_DebugPort_places :
    ((undoable id).log.filter (fun x => x.written)).all (fun x => (match translate (undoable id)
        { ctx := x.ctx, core := if x.direct then (scratchCore x.pa).getD x.core else x.core, levelS := decide (16384 ≤ x.core), access := .write, op := .device, weight := true } x.va with
      | .ok (pa, a) => pa == 0x4000000 && !isDirect a
      | .error _ => false)) = true
    ∧ ((undoable id).units.map (fun u => u.id)).Nodup := by decide +kernel

/-! ### Results that the spec works out -/

/-- The state behind an instruction of the group in focus, and what slice `j` holds there. -/
def run (i : Instr) (s : State) : State := match exec i s with | .next s' => s' | _ => s
def inSlice {α : Type} (s : State) (j : Nat) (d : α) (f : Slice → α) : α := ((s.unit? me).bind (fun u => (u.slice? j).map f)).getD d
def s_ (s : State) (r : Reg) : W64 := inSlice s 0 0 (fun t => t.getS r)
def v_ (s : State) (r : Reg) (l : Fin 4) : W32 := inSlice s 0 0 (fun t => t.getV r l)
def stat (s : State) : W32 := inSlice s 0 0 (fun t => t.fpstat)
/-- s2, s3 and v2, v3 of every slice set. -/
def with2 (a b : W64) : State := gang (fun t => setV 3 (b.setWidth 32) (setV 2 (a.setWidth 32) (setS 3 b (setS 2 a t)))) id

/-- R86, R96: integers wrap; the saturating form clamps and sets SATD. -/
theorem test_sadd_wraps : s_ (run (.sadd { W with d := 1, a := 2, b := 3 }) (with2 0x7FFFFFFFFFFFFFFF 1)) 1 = 0x8000000000000000 := by decide
theorem test_sadd_clamps : (let s := run (.sadd { W with d := 1, a := 2, b := 3, sec := 0x20 }) (with2 0x7FFFFFFFFFFFFFFF 1);
    (s_ s 1, stat s)) = (0x7FFFFFFFFFFFFFFF, 0x40) := by decide
/-- R86: the quotient of the most negative value by -1 is that value; by zero it is all ones, and the remainder is the dividend. -/
theorem test_sdiv_overflow : s_ (run (.sdiv { W with d := 1, a := 2, b := 3 }) (with2 0x8000000000000000 (-1))) 1 = 0x8000000000000000 := by decide
theorem test_sdiv_zero : s_ (run (.sdiv { W with d := 1, a := 2, b := 3 }) (with2 7 0)) 1 = -1 := by decide
theorem test_srem_zero : s_ (run (.srem { W with d := 1, a := 2, b := 3 }) (with2 7 0)) 1 = 7 := by decide
/-- R96: a shift uses the low six bits of its count. -/
theorem test_ssra_65 : s_ (run (.ssra { W with d := 1, a := 2, b := 3 }) (with2 0x8000000000000000 65)) 1 = 0xC000000000000000 := by decide
/-- R92: s63 discards a write. -/
theorem test_smul_s63 : s_ (run (.smul { W with d := 63, a := 2, b := 3 }) (with2 3 5)) 63 = 0 := by decide
/-- R86, R93: 200 + 100 in n8 with S is 255. -/
theorem test_vadd_n8 : (let s := run (.vadd { P with d := 1, a := 2, b := 3, t := .n8, s := true }) (with2 200 100); (v_ s 1 0, stat s)) = (255, 0x40) := by decide
/-- R98: the leading zeros of 0 are the width. -/
theorem test_vclz_zero : v_ (run (.vclz { P with d := 1, a := 2 }) (with2 0 0)) 1 3 = 32 := by decide
/-- R99: a condition in each active lane, nothing elsewhere. -/
theorem test_vcmp_lanes : inSlice (run (.vcmp { P with d := 2, a := 2, b := 3, sec := 2, xf := 1 }) (gang (fun t => (setV 3 5 (setV 2 (-1) t)).putK 1 6) id)) 0 0
    (fun t => t.getK 2) = 6 := by decide

/-- The three sums of R67: +∞ + 1.0, +∞ + (−∞) and 2^127 + 2^127 under FADD.S. -/
theorem test_fadd_saturates : [(0x7F800000, 0x3F800000), (0x7F800000, 0xFF800000), (0x7F000000, 0x7F000000)].map (fun p =>
      let s := run (.fadd { P with d := 1, a := 2, b := 3, s := true }) (with2 p.1 p.2); (v_ s 1 0, stat s))
    = [(0x7F7FFFFF, 0x40), (0x7FC00000, 1), (0x7F7FFFFF, 0x54)] := by decide
/-- The examples of R103: into e2m1 with S, without S, and into e4m3 (FCVT from f32). -/
theorem test_fcvt_small : [(TCode.e2m1, true, 0x7F800000), (.e2m1, true, 0x42C80000), (.e2m1, false, 0x7F800000), (.e2m1, false, 0x42C80000),
      (.e4m3, false, 0x7F800000), (.e4m3, false, 0x447A0000)].map (fun p =>
        let s := run (.fcvt { P with d := 1, a := 2, t := p.1, rm := .rne, s := p.2.1, sec := 1 }) (with2 p.2.2 0); (v_ s 1 0, stat s))
    = [(7, 0x40), (7, 0x54), (7, 1), (7, 0x14), (0x7F, 1), (0x7F, 0x14)] := by decide
/-- R104: n16 65,535 overflows f16; a NaN becomes the integer 0 with NV. -/
theorem test_icvtf_overflow : (let s := run (.icvtf { P with d := 1, a := 2, t := .f16, rm := .rne, sec := 8 }) (with2 0xFFFF 0); (v_ s 1 0, stat s)) = (0x7C00, 0x14) := by
  decide
theorem test_fcvti_nan : (let s := run (.fcvti { P with d := 1, a := 2, t := .i32, rm := .rne, sec := 1 }) (with2 0x7FC00000 0); (v_ s 1 0, stat s)) = (0, 1) := by decide
/-- R106: FEXP2 of an integer and FRCP of a power of two are exact; the result is on its way to the emptied register. -/
theorem test_fexp2_exact : inSlice (run (.fexp2 { P with d := 1, a := 2 }) (with2 0x40400000 0)) 0 (true, []) (fun t => (t.fullV 1 false, t.results))
    = (false, [.vector 1 false 0xF 0 (Vector.replicate 4 0x41000000) (Vector.replicate 4 0) false]) := by decide
theorem test_frcp_zero : (let s := run (.frcp { P with d := 1, a := 2 }) (with2 0 0); stat s) = 2 := by decide

/-- Slices 0 and 1 with v1 as eight lanes give it. -/
def lanes8 (xs : List W32) : State :=
  gang id (fun u => { u with slices := u.slices.map (fun t => (List.finRange 4).foldl (fun t l => t.putV 1 l (xs.getD (4 * t.idx + l.val) 0)) t) })
/-- The reduction that R110 works: 2^24, 1, 1, 1, −2^24, 1, 1, 1 sum to 5.0 over the tree. -/
theorem test_vred_tree : (let s := run (.vred { P with d := 9, a := 1, t := .f32, rm := .rne }) (lanes8 [0x4B800000, 0x3F800000, 0x3F800000, 0x3F800000, 0xCB800000, 0x3F800000, 0x3F800000, 0x3F800000]);
    (v_ s 9 0, inSlice s 1 0 (fun t => t.getV 9 3))) = (0x40A00000, 0x40A00000) := by decide
/-- The FP8 block that R75 works, packed by BFPACK.B8: mantissas 104, 5, −32, 2 and 0 at delta 2, the last flushed. -/
theorem test_bfpack_block : (let s := run (.bfpack { P with d := 9, a := 1, b := 3, t := .f32, sec := 8 }) ((lanes8 [0x40500000, 0x3E200000, 0xBF800000, 0x3D400000, 0x3B000000]).mapUnits (fun _ => true) (fun u => { u with slices := u.slices.map (setS 3 3) }));
    (v_ s 9 0, v_ s 9 1, v_ s 9 2, v_ s 9 3, inSlice s 1 0 (fun t => t.getV 9 0), inSlice s 1 0 (fun t => t.fpstat)))
    = (0x1268, 0x1205, 0x12E0, 0x1202, 0x1200, 0x20) := by decide
/-- R110: an index of an inactive lane gives 0. -/
theorem test_vbcast_inactive : (let s := (lanes8 [1, 2, 3, 4, 5, 6, 7, 8]).mapUnits (fun _ => true) (fun u => { u with slices := u.slices.map (fun t => (setS 3 6 t).putK 1 3) });
    (v_ (run (.vbcast { P with d := 9, a := 1, b := 3 }) s) 9 0, v_ (run (.vbcast { P with d := 9, a := 1, b := 3, xf := 1 }) s) 9 0)) = (7, 0) := by decide

/-- The values of gen that R70 tables, and the projection bits of R72. -/
theorem test_gen : [0, 1, 2, 3].map (gen 0) = [0, 0xE220A8397B1DCDAF, 0x6E789E6AA1B965F4, 0x06C45D188009454F] := by decide
/-- R34: slot 3 of core 3/5/17. -/
theorem test_gang_id : ({ placedUnit State.reset with id := { core := (3 * 8 + 5) * 128 + 17, kind := .gang, slot := 3 } } : Machine.Unit).gangId = 59667 := by decide
/-- The block that R81 works: acc 1.0 and the exact products 2^20, 3 × 2^−29 and −2^20. -/
theorem test_acc_block : Acc.round (Val.add .rne (Acc.val 0x0090000000) (Val.sum [Val.mulZ (.num false 1 10 false) (.num false 1 10 false),
    Val.mulZ (.num false 1 (-15) false) (.num false 3 (-14) false), Val.mulZ (.num true 1 10 false) (.num false 1 10 false)])) = 0x0090000002 := by decide
/-- The walk that R318 works (without GRP, whose sixteen entries name the same page): allowed on die 3, cause 8 from die 5, cause 7 for a fetch. -/
def walked : State :=
  let m := [(0x200000, 0x201001), (0x201000, 0x202001), (0x202808, 0x203001), (0x203018, 0x204001), (0x204020, 0x001000180010404B)].foldl
    (fun (m : Mem) e => m.writeBytes e.1 (leBytes e.2 8)) []
  { State.reset with mem := m, contexts := State.reset.contexts.set 0 { State.reset.ctx 0 with live := true, root := 0x200 } }
def walk (core : Nat) (acc : Access) : Option Nat × Option Nat :=
  let r := translate walked { ctx := 0, core := core, levelS := false, access := acc, op := .plain, weight := false } 0x4040604321
  ((read? r).map (fun p => p.1), err? r)
theorem test_walk : walk (3 * 1024) .write = (some 0x1800104321, none) ∧ walk (5 * 1024) .write = (none, some 8) ∧ walk (3 * 1024) .fetch = (none, some 7) := by decide

/-- R117: `VSPLAT v1, 3.0` and the same of a pair. -/
theorem test_vsplat : (let s := run (.vsplat { W with d := 2, imm := 0x4040, sec := 1, xf := 8 }) base; v_ s 2 1) = 0x40400000
    ∧ (let s := run (.vsplat { W with d := 2, imm := 0x4008, sec := 3, xf := 8 }) base; (v_ s 2 1, v_ s 3 1)) = (0, 0x40080000) := by decide
/-- R116: the two halves of a mask; a gang of eight lanes keeps bits 0 to 7. -/
theorem test_kmov : inSlice (run (.kmov { W with d := 3, imm := 0x00A5, sec := 0x0E, xf := 8 }) base) 1 0 (fun t => t.getK 3) = 0xA
    ∧ inSlice (run (.kmov { W with d := 3, imm := 0x00A5, sec := 0x0E, xf := 12 }) base) 0 0 (fun t => t.getK 3) = 0 := by decide

/-- R123: the i32 lane code 0x00 adds two registers; a descriptor with a reserved mode is cause 5 of class 1 and its lane keeps vD. -/
theorem test_xv_add : inSlice (run (.xv { P with d := 9, a := 8, t := .i32 }) (gang (fun t => setV 2 5 (setV 1 7 (setV 8 0x00042E00 t))) id)) 0 []
    (fun t => t.results) = [.vector 9 false 0xF 0 (Vector.replicate 4 12) (Vector.replicate 4 0) true] := by decide
theorem test_xv_reserved : (let s := run (.xv { P with d := 9, a := 8, t := .i32 }) (gang (fun t => setV 8 0x00042E30 t) id)
    onGang s (fun u => u.side.cls == 1 && u.side.lcause == 0x55555555 && u.side.faulted == 0xFF && u.halt == .trapped 1)) = true := by decide
/-- R129: XPUSH and XPOP of the lanes' own stacks. -/
theorem test_xpush_xpop : (let s := run (.xpop { W with d := 9 }) (run (.xpush { W with a := 1 }) (lanes8 [1, 2, 3, 4, 5, 6, 7, 8]));
    (v_ s 9 2, inSlice s 0 [] (fun t => t.stack 2))) = (3, []) := by decide

/-- R206, R162: the slice reads back its own store, which memory does not hold before the PHASE. -/
theorem test_sst_sld : (let s := run (.sst { I with a := 3, d := 9 }) there;
    (inSlice (run (.sld { I with a := 3, d := 10, sec := 2 }) s) 0 [] (fun t => t.results), s.mem.readBytes 0x4000000 1)) = ([.scalar 10 1], [0]) := by decide
theorem test_phase_publishes : (let s := run (.storeRetire me) (run (.storeRetire me) (run (.sst { I with a := 3, d := 9 }) there));
    (run (.phase W) s).mem.readBytes 0x4000000 8) = leBytes 1 8 := by decide
/-- R203: a misaligned base is class 5, with the address in the frame. -/
theorem test_sld_misaligned : (let s := run (.sld { I with a := 5, d := 10 }) there
    onGang s (fun u => u.halt == .trapped 5 && s.mem.readBytes (framePa u + 32) 8 == leBytes 0x20001 8)) = true := by decide +kernel
/-- The gang's oldest atomic performed. -/
def performFirst (s : State) : State :=
  match s.unit? me with
  | some u => match u.atomics with
    | a :: _ => performAtomic s u 0 a
    | [] => s
  | none => s
/-- R210: two slices add 1 each at one word, which returns 0 and then 1. -/
theorem test_satom_add : (let s := performFirst (performFirst (run (.satom { W with d := 10, a := 3, b := 9 }) there));
    (s.mem.readBytes 0x4000000 8, inSlice s 0 [] (fun t => t.results), inSlice s 1 [] (fun t => t.results))) = (leBytes 2 8, [.scalar 10 0], [.scalar 10 1]) := by
  decide
/-- R216: WAITC goes on at its count and waits above it. -/
theorem test_waitc : inSlice (run (.waitc { I with d := 3, imm := 1 }) (gang id (fun u => addOp (addOp u 3 7 1 false) 3 8 1 false))) 0 .exited (fun t => t.run)
    = .parked (.waitc 3 1) 4 false := by decide
/-- R168, R233: the slot at RPTR + 1 of a channel of two full slots. -/
theorem test_chwait : s_ (run (.chwait { W with d := 10, a := 2, imm := 1 }) (channel 2)) 10 = 0x101040 := by decide

/-- R271: targets count from the instruction's own first word; CALL leaves the address behind it in s60. -/
theorem test_call : (let s := run (.call { off := -10 }) base; (inSlice s 0 0 (fun t => t.pc), s_ s 60)) = (0xFD8, 0x1004) := by decide
theorem test_br : inSlice (run (.br { off := 2 }) base) 1 0 (fun t => t.pc) = 0x1008 := by decide
/-- R277: BRV runs the lanes not taken first, and JOIN then those taken. -/
theorem test_brv_join : (let s := run (.brv { I with d := 1, imm := 8 }) (gang (fun t => t.putK 1 3) id);
    (inSlice s 0 (0, 0) (fun t => (t.pc, t.mask)), inSlice (run (.join W) s) 0 (0, 0) (fun t => (t.pc, t.mask)))) = ((0x1004, 0xC), (0x1020, 3)) := by decide
/-- R292: TICKW waits while GTICK is below the value. -/
theorem test_tickw : inSlice (run (.tickw { W with a := 9 }) there) 0 .exited (fun t => t.run) = .parked (.tickw 1) 4 false := by decide
/-- R343 to R345: TRAP 5 in a context that delegates nothing stops the gang with class 8 and SUB 5 in its frame; FDIV is class 0, SUB 1. -/
theorem test_trap : (let s := run (.trap { W with imm := 5 }) base
    onGang s (fun u => u.halt == .trapped 8 && s.mem.readBytes (framePa u + 16) 2 == [8, 5] && s.mem.readBytes (framePa u) 8 == leBytes 0x1000 8)) = true := by decide +kernel
theorem test_fdiv : (let s := run (.fdiv P) base; onGang s (fun u => u.halt == .trapped 0 && s.mem.readBytes (framePa u + 16) 2 == [0, 1])) = true := by decide +kernel
/-- R347: a delegated class enters its handler at TRAPBASE + 0x40 × class, and TRET.NEXT goes on behind the instruction. -/
def delegating : State := { base with contexts := base.contexts.set 0 { base.ctx 0 with deleg := 0x100, trapbase := 0x3000 } }
theorem test_delegated : (let s := run (.trap { W with imm := 5 }) delegating;
    (inSlice s 0 0 (fun t => t.pc), inSlice (run (.tretNext W) s) 0 0 (fun t => t.pc))) = (0x3200, 0x1004) := by decide +kernel
/-- R409: a doorbell joins WPTR, and one that would overfill the ring is dropped and counted. -/
theorem test_doorbell : (let s := package 0;
    (((run (.doorbell 0 1) { s with queues := s.queues.set 0 { s.queue 0 with wptr := 0 } }).queue 0).wptr, ((run (.doorbell 0 1) s).queue 0).dropdb)) = (1, 1) := by decide
/-- R364: writes of BAR0's read-only registers change nothing; R416: TMO is 6,000 after reset. -/
theorem test_pkgstat_readonly : run (.controlWindowWrite 0 (.full 5)) State.reset = State.reset ∧ (State.reset.peer 0).tmo = 6000 := by decide +kernel

end Sys2Proof.Tests
end

section
/-! The registers of a slice read back what was written last (R20, R93). -/

namespace Sys2Proof.Machine.Slice

/-! ### Scalars and masks -/

theorem getS_putS_same {r : Reg} (h : r ≠ 63#6) (t : Slice) (x : W64) : (t.putS r x).getS r = x := by
  simp [putS, getS, h]

theorem getS_putS_of_ne {q r : Reg} (h : q ≠ r) (t : Slice) (x : W64) : (t.putS r x).getS q = t.getS q := by
  have hn : r.toNat ≠ q.toNat := fun e => h (BitVec.eq_of_toNat_eq e.symm)
  unfold putS
  split
  · rfl
  · simp [getS, Vector.getElem_set_ne, hn]

theorem getK_putK_same {k : Nat} (h0 : 0 < k) (h8 : k < 8) (t : Slice) (m : BitVec 4) : (t.putK k m).getK k = m := by
  simp [putK, getK, h0, h8, Nat.ne_of_gt h0, List.getD]

theorem getK_putK_of_ne {q k : Nat} (h : q ≠ k) (t : Slice) (m : BitVec 4) : (t.putK k m).getK q = t.getK q := by
  unfold putK
  split
  · simp [getK, List.getD, Vector.getElem?_set_ne _ h.symm]
  · rfl

/-! ### Lanes of vector registers -/

@[simp] theorem getV_putV_same (t : Slice) (r : Reg) (l : Fin 4) (w : W32) : (t.putV r l w).getV r l = w := by
  simp [putV, getV]

theorem getV_putV_of_ne {q r : Reg} {n l : Fin 4} (h : q ≠ r ∨ n ≠ l) (t : Slice) (w : W32) :
    (t.putV r l w).getV q n = t.getV q n := by
  by_cases hq : q = r
  · have hl : l.val ≠ n.val := fun e => h.resolve_left (· hq) (Fin.ext e.symm)
    simp [putV, getV, hq, Vector.getElem_set_ne, hl]
  · have hn : r.toNat ≠ q.toNat := fun e => hq (BitVec.eq_of_toNat_eq e.symm)
    simp [putV, getV, Vector.getElem_set_ne, hn]

/-! ### Elements: a pair of registers for 64 bits, one register below -/

theorem elem_wide {ty : TCode} (h : widthOf ty = 64) (t : Slice) (r : Reg) (l : Fin 4) :
    t.elem ty r l = (t.getV r l).toNat + 2 ^ 32 * (t.getV (r + 1) l).toNat := if_pos h

theorem elem_narrow {ty : TCode} (h : widthOf ty ≠ 64) (t : Slice) (r : Reg) (l : Fin 4) :
    t.elem ty r l = (t.getV r l).toNat % 2 ^ widthOf ty := if_neg h

theorem putElem_wide {ty : TCode} (h : widthOf ty = 64) (t : Slice) (r : Reg) (l : Fin 4) (e : Nat) :
    t.putElem ty r l e = (t.putV r l (BitVec.ofNat 32 e)).putV (r + 1) l (BitVec.ofNat 32 (e / 2 ^ 32)) := if_pos h

theorem putElem_narrow {ty : TCode} (h : widthOf ty ≠ 64) (t : Slice) (r : Reg) (l : Fin 4) (e : Nat) :
    t.putElem ty r l e = t.putV r l (narrow ty e) := if_neg h

theorem widthOf_le_32 {ty : TCode} (h : widthOf ty ≠ 64) : widthOf ty ≤ 32 := by
  revert h
  cases ty <;> decide

/-- Register numbers wrap at 64, so the two registers of a pair differ at v63 as well. -/
theorem ne_next (r : Reg) : r ≠ r + 1 := by bv_omega

theorem getV_low_putElem {ty : TCode} (h : widthOf ty = 64) (t : Slice) (r : Reg) (l : Fin 4) (e : Nat) :
    (t.putElem ty r l e).getV r l = BitVec.ofNat 32 e := by
  rw [putElem_wide h, getV_putV_of_ne (.inl (ne_next r)), getV_putV_same]

theorem getV_high_putElem {ty : TCode} (h : widthOf ty = 64) (t : Slice) (r : Reg) (l : Fin 4) (e : Nat) :
    (t.putElem ty r l e).getV (r + 1) l = BitVec.ofNat 32 (e / 2 ^ 32) := by
  rw [putElem_wide h, getV_putV_same]

theorem getV_putElem_narrow {ty : TCode} (h : widthOf ty ≠ 64) (t : Slice) (r : Reg) (l : Fin 4) (e : Nat) :
    (t.putElem ty r l e).getV r l = narrow ty e := by
  rw [putElem_narrow h, getV_putV_same]

theorem getV_putElem_of_ne {ty : TCode} {q r : Reg} {n l : Fin 4}
    (h : n ≠ l ∨ (q ≠ r ∧ ¬(widthOf ty = 64 ∧ q = r + 1))) (t : Slice) (e : Nat) :
    (t.putElem ty r l e).getV q n = t.getV q n := by
  have hlow : q ≠ r ∨ n ≠ l := h.symm.imp_left And.left
  by_cases hw : widthOf ty = 64
  · have hhigh : q ≠ r + 1 ∨ n ≠ l := h.symm.imp_left fun hq hn => hq.2 ⟨hw, hn⟩
    rw [putElem_wide hw, getV_putV_of_ne hhigh, getV_putV_of_ne hlow]
  · rw [putElem_narrow hw, getV_putV_of_ne hlow]

/-! ### Narrow values over the whole lane -/

/-- Of a value that fits its type only i8 and i16 change the bits above it. -/
theorem narrow_eq_ofNat {ty : TCode} (h8 : ty ≠ .i8) (h16 : ty ≠ .i16) {e : Nat} (he : e < 2 ^ widthOf ty) :
    narrow ty e = BitVec.ofNat 32 e := by
  unfold narrow
  split
  · exact absurd rfl h8
  · exact absurd rfl h16
  · rw [Nat.mod_eq_of_lt he]

theorem setWidth_signExtend_of_le {w v : Nat} (h : w ≤ v) (x : BitVec w) : (x.signExtend v).setWidth w = x := by
  ext i hi
  rw [BitVec.getElem_setWidth, BitVec.getLsbD_signExtend, if_pos hi, BitVec.getLsbD_eq_getElem hi]
  simp only [decide_eq_true (Nat.lt_of_lt_of_le hi h), Bool.true_and]

/-- The low bits of a sign-extended word are the word. -/
theorem signExtend_toNat_mod {w : Nat} (hw : w ≤ 32) {e : Nat} (he : e < 2 ^ w) :
    ((BitVec.ofNat w e).signExtend 32).toNat % 2 ^ w = e := by
  rw [← BitVec.toNat_setWidth, setWidth_signExtend_of_le hw, BitVec.toNat_ofNat, Nat.mod_eq_of_lt he]

theorem narrow_toNat_mod {ty : TCode} (h : widthOf ty ≠ 64) {e : Nat} (he : e < 2 ^ widthOf ty) :
    (narrow ty e).toNat % 2 ^ widthOf ty = e := by
  by_cases h8 : ty = .i8
  · subst h8
    exact signExtend_toNat_mod (by decide : (8 : Nat) ≤ 32) he
  by_cases h16 : ty = .i16
  · subst h16
    exact signExtend_toNat_mod (by decide : (16 : Nat) ≤ 32) he
  have hlt : e < 2 ^ 32 := Nat.lt_of_lt_of_le he (Nat.pow_le_pow_right (by decide) (widthOf_le_32 h))
  rw [narrow_eq_ofNat h8 h16 he, BitVec.toNat_ofNat, Nat.mod_eq_of_lt hlt, Nat.mod_eq_of_lt he]

theorem elem_putElem_same {ty : TCode} {e : Nat} (he : e < 2 ^ widthOf ty) (t : Slice) (r : Reg) (l : Fin 4) :
    (t.putElem ty r l e).elem ty r l = e := by
  by_cases hw : widthOf ty = 64
  · rw [elem_wide hw, getV_low_putElem hw, getV_high_putElem hw, BitVec.toNat_ofNat, BitVec.toNat_ofNat]
    rw [hw] at he
    omega
  · rw [elem_narrow hw, getV_putElem_narrow hw, narrow_toNat_mod hw he]

end Sys2Proof.Machine.Slice

namespace Sys2Proof.Machine

open Slice

/-- An instruction under k0 that replays nothing runs on every lane of the lane mask. -/
theorem actOf_k0 {t : Slice} (h : t.replay = none) : actOf t 0 = t.mask := by
  simp [actOf, h, getK]

/-- Settles O7: each accessor reads back what was written last, and s63 and k0 take no write. -/
theorem constantRegisters : Obligations.ConstantRegisters := by
  unfold Obligations.ConstantRegisters
  intro t x m
  refine ⟨rfl, rfl, rfl, rfl, rfl, rfl, actOf_k0, ?scalars, ?masks, ?lanes, ?elements⟩
  case scalars => exact fun r h => ⟨getS_putS_same h t x, fun q hq => getS_putS_of_ne hq t x⟩
  case masks => exact fun k h0 h8 => ⟨getK_putK_same h0 h8 t m, fun q hq => getK_putK_of_ne hq t m⟩
  case lanes => exact fun r l w => ⟨getV_putV_same t r l w, fun q n h => getV_putV_of_ne h t w⟩
  case elements =>
    intro ty r l e he
    refine ⟨elem_putElem_same he t r l, fun q n h => getV_putElem_of_ne h t e,
      fun hw => ⟨getV_low_putElem hw t r l e, getV_high_putElem hw t r l e, elem_wide hw t r l⟩,
      fun hw => ⟨elem_narrow hw t r l, (getV_putElem_narrow hw t r l e).trans ?_⟩⟩
    split
    · rfl
    · rfl
    · next h8 h16 => exact narrow_eq_ofNat h8 h16 he

end Sys2Proof.Machine
end

section
/-! What a vector instruction made of lanes comes to (R65, R93, R94): the active lanes written with their flags, or class 7. -/

namespace Sys2Proof.Machine

/-! ### Masks gathered lane by lane -/

/-- Lanes joined as bits make the mask whose bits are summed: each lane appears once. -/
theorem foldl_laneBit_eq_sum (q : Fin 4 → Bool) :
    ([0, 1, 2, 3].filter q).foldl (fun m l => m ||| laneBit l) 0
      = BitVec.ofNat 4 (([0, 1, 2, 3].filter q).foldl (fun n l => n + 2 ^ l.val) 0) := by
  simp only [List.filter_cons, List.filter_nil]
  generalize q 0 = a, q 1 = b, q 2 = c, q 3 = d
  revert a b c d
  decide

theorem foldl_laneBit_eq_lanesWhere (m : BitVec 4) (p : Fin 4 → Bool) :
    (lanesOf m).foldl (fun k l => if p l then k ||| laneBit l else k) 0 = lanesWhere m p := by
  rw [← List.foldl_filter]
  simp only [lanesWhere, lanesOf, List.filter_filter]
  exact foldl_laneBit_eq_sum _

/-! ### The exceptions of a group -/

/-- A fold that only ever adds bits ends at zero when it starts there and no element adds one. -/
theorem foldl_eq_zero_iff {α : Type} {w : Nat} {g : BitVec w → α → BitVec w} {P : α → Prop}
    (h : ∀ m a, g m a = 0 ↔ m = 0 ∧ P a) (xs : List α) (m : BitVec w) : xs.foldl g m = 0 ↔ m = 0 ∧ ∀ a ∈ xs, P a := by
  induction xs generalizing m with
  | nil => exact (and_iff_left (List.forall_mem_nil _)).symm
  | cons a xs ih => rw [List.foldl_cons, ih, h, List.forall_mem_cons, and_assoc]

/-- Elements that add no bit leave such a fold where it started. -/
theorem foldl_or_of_eq_zero {α : Type} {w : Nat} {g : α → BitVec w} (h : ∀ a, g a = 0#w) (xs : List α) (m : BitVec w) :
    xs.foldl (fun m a => m ||| g a) m = m := by
  induction xs generalizing m with
  | nil => rfl
  | cons a xs ih => rw [List.foldl_cons, ih, h, BitVec.or_zero]

/-- Without enabled exceptions the conjunction is zero by itself, so the model's test for them changes nothing. -/
theorem enabled_eq_and (fpctl : W32) (fl : Flags) : enabled fpctl fl = fpctl.extractLsb' 4 5 &&& fl.setWidth 5 := by
  unfold enabled
  split
  · next h => rw [h]; exact BitVec.zero_and.symm
  · rfl

theorem groupHits_eq_foldl (ts : List Slice) (km : Nat) (f : Slice → Fin 4 → Nat × Flags) :
    groupHits ts km f = ts.foldl (fun m t => (lanesOf (actOf t km)).foldl
      (fun m l => m ||| enabled t.fpctl (f t l).2) m) 0 := by
  unfold groupHits laneResults
  congr 1
  funext m t
  rw [List.foldl_map]
  split
  · next h => exact (foldl_or_of_eq_zero (fun l => if_pos h) _ m).symm
  · rfl

theorem groupHits_eq_zero_iff (x : Issue) (km : Nat) (f : Slice → Fin 4 → Nat × Flags) :
    groupHits x.slices km f = 0 ↔ Quiet x km f := by
  have lanes (t : Slice) := foldl_eq_zero_iff (g := fun m l => m ||| enabled t.fpctl (f t l).2)
    (fun _ _ => BitVec.or_eq_zero_iff) (lanesOf (actOf t km))
  rw [groupHits_eq_foldl, foldl_eq_zero_iff fun m t => lanes t m]
  simp only [enabled_eq_and]
  exact and_iff_right trivial

theorem hitLanes_eq_gangView (ts : List Slice) (km : Nat) (f : Slice → Fin 4 → Nat × Flags) :
    hitLanes ts km f = gangView ts (fun t => lanesWhere (actOf t km) (fun l => enabled t.fpctl (f t l).2 != 0)) := by
  simp only [hitLanes, laneResults, List.foldl_map, ← foldl_laneBit_eq_lanesWhere, bne_iff_ne, ne_eq, ite_not]

theorem arithTrap_eq_class7 (x : Issue) (km : Nat) (f : Slice → Fin 4 → Nat × Flags) :
    arithTrap (groupHits x.slices km f) (hitLanes x.slices km f) = class7 x km f := by
  simp only [arithTrap, class7, groupHits_eq_foldl, hitLanes_eq_gangView, enabled_eq_and]

/-- Lanes that raise no flag raise no exception, whatever is enabled. -/
theorem quiet_of_no_flags {x : Issue} {km : Nat} {f : Slice → Fin 4 → Nat × Flags} (h : ∀ t l, (f t l).2 = 0) : Quiet x km f := by
  intro t _ l _
  rw [h]
  exact BitVec.and_zero

/-! ### Issues of lanes -/

variable {i : Instr} {s : State} {x : Issue} {km : Nat} {f : Slice → Fin 4 → Nat × Flags}
  {write : Slice → List (Fin 4 × Nat) → Slice}

theorem issue_lanewise_of_quiet (h : Issues i s x) (hq : Quiet x km f) :
    issue i s (fun y => lanewise s y km f write) = .next (after s x (fun t =>
      (write t ((lanesOf (actOf t km)).map (fun l => (l, (f t l).1)))).raise (flagsOf (actOf t km) (fun l => (f t l).2)))) := by
  rw [issue_free h, lanewise, if_pos ((groupHits_eq_zero_iff x km f).2 hq), finish_slices]
  simp only [laneResults, List.map_map, List.foldl_map, flagsOf]
  rfl

theorem issue_lanewise_of_not_quiet (h : Issues i s x) (hq : ¬Quiet x km f) :
    issue i s (fun y => lanewise s y km f write) = .next (afterTrap i s x (class7 x km f)) := by
  rw [issue_free h, lanewise, if_neg (mt (groupHits_eq_zero_iff x km f).1 hq), arithTrap_eq_class7]
  rfl

/-! ### Elements -/

@[simp] theorem Slice.putElem_fpstat (t : Slice) (ty : TCode) (r : Reg) (l : Fin 4) (e : Nat) :
    (t.putElem ty r l e).fpstat = t.fpstat := by
  unfold Slice.putElem
  split <;> rfl

@[simp] theorem lanesWritten_fpstat (ty : TCode) (d : Reg) (m : BitVec 4) (g : Fin 4 → Nat) (t : Slice) :
    (lanesWritten ty d m g t).fpstat = t.fpstat := by
  unfold lanesWritten
  induction lanesOf m generalizing t with
  | nil => rfl
  | cons l ls ih => rw [List.foldl_cons, ih, Slice.putElem_fpstat]

theorem writeElems_raise (ty : TCode) (d : Reg) (m : BitVec 4) (g : Fin 4 → Nat × Flags) (t : Slice) :
    (writeElems ty d t ((lanesOf m).map (fun l => (l, (g l).1)))).raise (flagsOf m (fun l => (g l).2))
      = lanesFlagged ty d m g t := by
  have hw : writeElems ty d t ((lanesOf m).map (fun l => (l, (g l).1))) = lanesWritten ty d m (fun l => (g l).1) t := List.foldl_map
  rw [hw, Slice.raise, lanesWritten_fpstat]
  rfl

/-- An instruction that writes elements, where no enabled exception is raised. -/
theorem issue_writeElems_of_quiet {ty : TCode} {d : Reg} (h : Issues i s x) (hq : Quiet x km f) :
    issue i s (fun y => lanewise s y km f (writeElems ty d))
      = .next (after s x (fun t => lanesFlagged ty d (actOf t km) (f t) t)) := by
  rw [issue_lanewise_of_quiet h hq]
  simp only [writeElems_raise]

/-! ### Masks -/

@[simp] theorem flagsOf_zero (m : BitVec 4) : flagsOf m (fun _ => 0) = 0 :=
  foldl_or_of_eq_zero (fun _ => rfl) (lanesOf m) 0

@[simp] theorem Slice.raise_zero (t : Slice) : t.raise 0 = t := by
  show { t with fpstat := t.fpstat ||| 0#32 } = t
  rw [BitVec.or_zero]

@[simp] theorem bit01_bne_zero (b : Bool) : (bit01 b != 0) = b := by cases b <;> rfl
@[simp] theorem bit01_beq_one (b : Bool) : (bit01 b == 1) = b := by cases b <;> rfl

theorem writeMask_lanes (k : Nat) (m : BitVec 4) (g : Fin 4 → Nat) (t : Slice) :
    writeMask k t ((lanesOf m).map (fun l => (l, g l))) = t.putK k (lanesWhere m (fun l => g l != 0)) := by
  simp only [writeMask, List.foldl_map, ← foldl_laneBit_eq_lanesWhere, bne_iff_ne, ne_eq, ite_not]

/-- An instruction that writes a mask, where no enabled exception is raised. -/
theorem issue_writeMask_of_quiet {k : Nat} (h : Issues i s x) (hq : Quiet x km f) :
    issue i s (fun y => lanewise s y km f (writeMask k)) = .next (after s x (fun t =>
      { t.putK k (lanesWhere (actOf t km) (fun l => (f t l).1 != 0)) with
        fpstat := t.fpstat ||| (flagsOf (actOf t km) (fun l => (f t l).2)).setWidth 32 })) := by
  rw [issue_lanewise_of_quiet h hq]
  simp only [writeMask_lanes, Slice.raise, Slice.putK_fpstat]

/-- An instruction that writes a mask and raises no flag changes nothing else. -/
theorem issue_writeMask_of_no_flags {k : Nat} (h : Issues i s x) (hf : ∀ t l, (f t l).2 = 0) :
    issue i s (fun y => lanewise s y km f (writeMask k)) = .next (after s x (fun t =>
      t.putK k (lanesWhere (actOf t km) (fun l => (f t l).1 != 0)))) := by
  rw [issue_lanewise_of_quiet h (quiet_of_no_flags hf)]
  simp only [writeMask_lanes, hf, flagsOf_zero, Slice.raise_zero]

end Sys2Proof.Machine
end

section
/-! VCMP and VSEL (R99). -/

namespace Sys2Proof.Machine

open WellFormed

theorem vint_sec_le {unary sat c : Bool} {n : Nat} {o : PArgs} (h : vint unary sat c n o = true) : o.sec.toNat ≤ n := by
  simp only [vint, Bool.and_eq_true, decide_eq_true_eq] at h
  obtain ⟨⟨⟨_, hsec⟩, _⟩, _⟩ := h
  exact hsec

theorem vcmp_fields {o : PArgs} (h : fieldsOk (.vcmp o) = true) : o.d.toNat < 8 ∧ o.sec.toNat < 6 := by
  rw [fieldsOk_vcmp, Bool.and_eq_true] at h
  exact ⟨of_decide_eq_true h.2, Nat.lt_succ_of_le (vint_sec_le h.1)⟩

theorem vsel_fields {o : PArgs} (h : fieldsOk (.vsel o) = true) : o.sec.toNat < 8 :=
  Nat.lt_succ_of_le (vint_sec_le h)

/-- The conditions of VCMP by code, each the relation of integers that it names (R96, R99). -/
def intHolds (cc : Nat) (a b : Int) : Bool :=
  match cc with
  | 0 => a = b
  | 1 => a ≠ b
  | 2 => a < b
  | 3 => a ≤ b
  | 4 => b < a
  | _ => b ≤ a

theorem condition_eq_intHolds (cc : Nat) (a b : Int) : condition cc a b = intHolds cc a b := by
  match cc with
  | 0 | 2 | 3 | 4 | _ + 5 => rfl
  | 1 => exact (decide_not ..).symm

/-- The choice between two registers is the choice between their elements. -/
theorem elem_ite (c : Prop) [Decidable c] (t : Slice) (ty : TCode) (a b : Reg) (l : Fin 4) :
    t.elem ty (if c then a else b) l = if c then t.elem ty a l else t.elem ty b l :=
  apply_ite (fun r => t.elem ty r l) c a b

/-- Settles O16: both are instructions of lanes that raise no flag, one with a mask for its result and one with elements. -/
theorem vectorCompareSelect : Obligations.VectorCompareSelect := by
  unfold Obligations.VectorCompareSelect
  refine ⟨?compare, ?select, fun o => vcmp_fields, fun o => vsel_fields⟩
  case compare =>
    intro o s x _ h
    rw [exec_vcmp, execVcmp, issue_writeMask_of_no_flags h fun _ _ => rfl]
    simp only [bit01_bne_zero, condition_eq_intHolds]
    rfl
  case select =>
    intro o s x h
    rw [exec_vsel, execVsel, issue_writeElems_of_quiet h (quiet_of_no_flags fun _ _ => rfl)]
    simp only [elem_ite, Bool.or_eq_true, beq_iff_eq, BitVec.toNat_eq]
    rfl

end Sys2Proof.Machine
end

section
/-! FCMP and FCLASS (R101). -/

namespace Sys2Proof.Machine

open WellFormed

theorem vfloat_sec_le {unary rm sat c : Bool} {n : Nat} {o : PArgs} (h : vfloat unary rm sat c n o = true) : o.sec.toNat ≤ n := by
  simp only [vfloat, Bool.and_eq_true, decide_eq_true_eq] at h
  obtain ⟨⟨⟨_, hsec⟩, _⟩, _⟩ := h
  exact hsec

theorem fcmp_fields {o : PArgs} (h : fieldsOk (.fcmp o) = true) : o.d.toNat < 8 ∧ o.sec.toNat < 8 := by
  rw [fieldsOk_fcmp, Bool.and_eq_true] at h
  exact ⟨of_decide_eq_true h.2, Nat.lt_succ_of_le (vfloat_sec_le h.1)⟩

/-! ### The conditions of FCMP -/

/-- The conditions by code, of the four relations that two values can stand in: unordered, less, greater, or none of them. -/
def floatHolds (cc : Nat) (un lt gt : Bool) : Bool :=
  match cc with
  | 0 => !un && !lt && !gt
  | 1 => un || lt || gt
  | 2 => lt
  | 3 => !un && !gt
  | 4 => gt
  | 5 => !un && !lt
  | 6 => un
  | _ => !un

/-- NV: a signalling NaN, or a NaN that is to be ordered. -/
def floatCompareFlags (cc : Nat) (a b : Val) : Flags :=
  if sigOf a || sigOf b || ((isNan a || isNan b) && decide (2 ≤ cc ∧ cc ≤ 5)) then Flags.nv else 0

/-- A comparison as R101 describes it. -/
def floatCompare (cc : Nat) (a b : Val) : Nat × Flags :=
  let un := isNan a || isNan b
  (bit01 (floatHolds cc un (!un && a.less b == some true) (!un && a.less b == some false)), floatCompareFlags cc a b)

theorem fcmp_fst {cc : Nat} (hcc : cc < 8) (a b : Val) :
    (fcmp cc a b).1 = (let un := isNan a || isNan b
      floatHolds cc un (!un && a.less b == some true) (!un && a.less b == some false)) := by
  simp only [fcmp]
  cases isNan a || isNan b
  case true =>
    match cc, hcc with
    | 0, _ | 1, _ | 2, _ | 3, _ | 4, _ | 5, _ | 6, _ | 7, _ => rfl
  case false =>
    match cc, hcc with
    | 0, _ | 1, _ | 2, _ | 3, _ | 4, _ | 5, _ | 6, _ | 7, _ => rcases a.less b with _ | _ | _ <;> rfl

theorem fcmp_snd (cc : Nat) (a b : Val) : (fcmp cc a b).2 = floatCompareFlags cc a b := by
  have ordering : (cc == 2 || cc == 3 || cc == 4 || cc == 5) = decide (2 ≤ cc ∧ cc ≤ 5) := by
    rw [Bool.eq_iff_iff]
    simp only [Bool.or_eq_true, beq_iff_eq, decide_eq_true_eq]
    omega
  simp only [fcmp, floatCompareFlags, ordering, Bool.or_comm]

/-- FCMP of one lane. -/
def fcmpLane (o : PArgs) (t : Slice) (l : Fin 4) : Nat × Flags :=
  floatCompare o.sec.toNat (floatElem o.t t o.a l) (floatElem o.t t o.b l)

theorem execFcmp_eq_issue {o : PArgs} (hcc : o.sec.toNat < 8) (s : State) :
    execFcmp o s = issue (.fcmp o) s (fun x => lanewise s x o.km (fcmpLane o) (writeMask o.d.toNat)) := by
  simp only [execFcmp, fcmp_fst hcc, fcmp_snd]
  rfl

theorem exec_fcmp_of_quiet {o : PArgs} {s : State} {x : Issue} (hcc : o.sec.toNat < 8) (h : Issues (.fcmp o) s x)
    (hq : Quiet x o.km (fcmpLane o)) :
    exec (.fcmp o) s = .next (after s x (fun t =>
      { t.putK o.d.toNat (lanesWhere (actOf t o.km) (fun l => (fcmpLane o t l).1 == 1)) with
        fpstat := t.fpstat ||| (flagsOf (actOf t o.km) (fun l => (fcmpLane o t l).2)).setWidth 32 })) := by
  rw [exec_fcmp, execFcmp_eq_issue hcc, issue_writeMask_of_quiet h hq]
  simp only [fcmpLane, floatCompare, bit01_bne_zero, bit01_beq_one]

theorem exec_fcmp_of_not_quiet {o : PArgs} {s : State} {x : Issue} (hcc : o.sec.toNat < 8) (h : Issues (.fcmp o) s x)
    (hq : ¬Quiet x o.km (fcmpLane o)) :
    exec (.fcmp o) s = .next (afterTrap (.fcmp o) s x (class7 x o.km (fcmpLane o))) := by
  rw [exec_fcmp, execFcmp_eq_issue hcc, issue_lanewise_of_not_quiet h hq]

/-! ### The classes of FCLASS -/

/-- The bit of a value's class in a format of so many fraction bits. -/
def classBit (fbits : Nat) : Val → Nat
  | .inf true => 1
  | .num true m _ _ => if m = 0 then 8 else if m < 2 ^ fbits then 4 else 2
  | .num false m _ _ => if m = 0 then 16 else if m < 2 ^ fbits then 32 else 64
  | .inf false => 128
  | .nan true => 256
  | .nan false => 512

/-- A subnormal is a value whose significand has no implicit one: below 2^fbits, and not zero. -/
theorem isSubnormal_of_decode_num {f : Format} {a m : Nat} {n st : Bool} {e : Int} (h : f.decode a = .num n m e st) :
    f.isSubnormal a = (m != 0 && decide (m < 2 ^ f.fbits)) := by
  have hmag : a % 2 ^ f.width % 2 ^ (f.ebits + f.fbits) = a % 2 ^ (f.ebits + f.fbits) :=
    Nat.mod_mod_of_dvd _ (Nat.pow_dvd_pow 2 (Nat.le_succ _))
  have hpos : 0 < 2 ^ f.fbits := Nat.two_pow_pos _
  simp only [Format.decode, hmag] at h
  simp only [Format.isSubnormal]
  generalize a % 2 ^ (f.ebits + f.fbits) = mag at h ⊢
  split at h
  · split at h <;> cases h
  · split at h
    · cases h
    · split at h
      · next hex =>
        cases h
        rw [Nat.mod_eq_of_lt ((Nat.div_eq_zero_iff_lt hpos).1 hex)]
      · next hex =>
        cases h
        rw [decide_eq_false (mt Nat.div_eq_of_lt hex), decide_eq_false (Nat.not_lt.2 (Nat.le_add_left ..)), Bool.and_false, Bool.and_false]

theorem two_pow_classOf (f : Format) (a : Nat) : 2 ^ classOf f a = classBit f.fbits (f.decode a) := by
  unfold classOf
  cases h : f.decode a with
  | nan signalling => cases signalling <;> rfl
  | inf neg => cases neg <;> rfl
  | num neg m e sticky =>
    simp only [isSubnormal_of_decode_num h]
    by_cases hz : m = 0
    · subst hz
      cases neg <;> rfl
    · have hnz : (m != 0) = true := bne_iff_ne.2 hz
      by_cases hs : m < 2 ^ f.fbits
      · cases neg <;> simp only [classBit, hnz, if_neg hz, if_pos hs, decide_eq_true hs, Bool.and_self, if_true] <;> rfl
      · cases neg <;> simp only [classBit, if_neg hz, if_neg hs, decide_eq_false hs, Bool.and_false] <;> rfl

/-- Settles O18: FCMP is an instruction of lanes with a mask for its result, by `floatCompare`; FCLASS is one with elements and no
flag, by `classBit` of the bits as they are. -/
theorem floatCompareClass : Obligations.FloatCompareClass := by
  unfold Obligations.FloatCompareClass
  refine ⟨?compare, ?classify, fun o => fcmp_fields⟩
  case compare =>
    intro o s x hf h
    obtain ⟨-, hcc⟩ := fcmp_fields hf
    exact ⟨exec_fcmp_of_quiet hcc h, exec_fcmp_of_not_quiet hcc h⟩
  case classify =>
    intro o s x h
    rw [exec_fclass, execFclass, issue_writeElems_of_quiet h (quiet_of_no_flags fun _ _ => rfl)]
    simp only [two_pow_classOf]
    rfl

end Sys2Proof.Machine
end
